-- ==== Sys2Proof/Word.lean ====
section
/-! DEFINITION. The widths the spec gives names to (bytes, words, unit numbers), and nothing else. -/

namespace Sys2Proof

/-- One byte of memory, a record or a message (R14). -/
abbrev Byte := BitVec 8
/-- A 64-bit register or operand. -/
abbrev Word := BitVec 64
/-- Tile number 0 to 511 (R23). -/
abbrev TileId := Fin 512
/-- Hart number 0 to 95 (R249). -/
abbrev HartId := Fin 96
/-- Core cluster 0 to 11 (R249). -/
abbrev ClusterId := Fin 12
/-- Rack slot of a module, 0 to 71 (R309). -/
abbrev SlotId := Fin 72
/-- A sequencer, named by its launch object: tiles 0 to 511 (R190), Plumb groups 512 to 527 (R224),
Truss engines 528 to 543 (R371), Sketch 544 (R447). -/
abbrev SeqId := Fin 545
/-- Sync object number (R203). -/
abbrev ObjId := BitVec 14
/-- General register number of a hart. -/
abbrev RegId := BitVec 5
/-- Module-local address (R271). -/
abbrev LocalAddr := BitVec 41

end Sys2Proof
end

