-- ==== Sys2Proof/Syntax.lean ====
section
/-! DEFINITION. The commands of the block: one constructor of `Instr` per row of spec/opcode_table.json, with the
operands the row's rule gives it. The table gives no row any bits, so a command is written as its constructor. -/

namespace Sys2Proof

/-- The status codes of R511. -/
inductive Status where
  | ok | malformed | badAddress | aborted | nonfinite | unitReset | noHalt | waitTimeout | layoutInvalid
  | layoutOverlap | stageShort
  | odNoEntry | odAccess | odType | odRange | odState | auditFull | session | odTimeout
  | memUncorrectable | pageRetired | mapUnbalanced | mapBusy
  | tileAbsent | scaleInvalid | scaleRange | accLimit | formatPair | blockShape | weightsInvalid | scaleMismatch
  | splitPair | splitMix | splitIncomplete | splitRange | keepMismatch | stencilTable | glazeProgram | maskCount
  | glazeTable | indexRange | tileReplaced
  | regularised | deadline | deadlineMid | qpMaxiter | qpInfeasible | plumbDesc | notStarted | plumbBusy
  | outcomeUnknown | fabricTimeout | barrierTimeout | unreachable | peerDenied | regionOwned | regionLost
  | ownFull | ownDenied
  | flowFailed
  | memberLost | corruptSource | resendLimit | orderMismatch | formMismatch | groupInvalid | groupState
  | noContext | collDesc
  | nondet | scribeHalt | replayDiverged | barrierBusy
  | sketchDesc | sketchBusy | sketchArea | sketchAbandoned | restoreShape | restoreIncomplete | launchVerify
  | launchAborted
deriving DecidableEq, Repr

/-- Roles of R481, numbered as R493 numbers them. -/
inductive Role where
  | observer | job | operator | service | security
deriving DecidableEq, Repr

/-- The paths to the dictionary (R502): 10BASE-T1S, E0, E1, the window, and the module itself. -/
inductive Path where
  | t1s | e0 | e1 | window | module
deriving DecidableEq, Repr

/-- Who makes a dictionary request: the role it carries, its path, the source and the client key identifier that the
change log records (R481, R502). For the window `source` holds the hart number. -/
structure Origin where
  role   : Role
  path   : Path
  source : BitVec 128
  keyId  : Word
deriving DecidableEq, Repr

/-- What the error code of the word read reports (R289 to R291, R582). -/
inductive Ecc where
  | clean | corrected | uncorrectable
deriving DecidableEq, Repr

/-- Who holds a pending WAIT (R205, R266). -/
inductive Waiter where
  | stream (q : SeqId)
  | hart (h : HartId)
deriving DecidableEq, Repr

/-- Element width of a tagged atomic (R269, R311). -/
inductive Wid where
  | w32 | w64
deriving DecidableEq, Repr

/-- What a data-gradient command meets in the built-in tables: the first uncorrectable error of each, by the element at which it comes,
and how many reads of the stencil table were corrected (R125, R132). -/
structure TableReads where
  pwpError     : Option (BitVec 48)
  stencilError : Option (BitVec 48)
  corrected    : BitVec 16
deriving DecidableEq, Repr

/-- The registers of a CSR write: the one that receives the old value and the one that holds the new value (R253, R268). -/
structure CsrRegs where
  rd  : RegId
  rs1 : RegId
deriving DecidableEq, Repr

/-- How a line is asked for: the transaction and its cache hint (R253, R344, R347). -/
structure LineAsk where
  tid  : BitVec 16
  hint : BitVec 2
deriving DecidableEq, Repr

/-- The operands of a TAMO (R264, R269). -/
structure TamoArgs where
  hart : HartId
  wid  : Wid
  aq   : Bool
  rl   : Bool
  rd   : RegId
  rs1  : RegId
  rs2  : RegId
deriving DecidableEq, Repr

/-- The operations of the A extension (R254). -/
inductive AmoOp where
  | lr | sc | swap | add | xor | and | or | min | max | minu | maxu
deriving DecidableEq, Repr

/-- Addressing of a vector load or store (R255). -/
inductive VMode where
  | unit
  | strided (rs2 : RegId)
  | indexed (vs2 : RegId) (idxLog : Fin 4)
deriving DecidableEq, Repr

/-- A vector load or store (R255): `eewLog` is the base-2 logarithm of the element width in bytes, `nf` the number of
fields of a segment minus one, `masked` selects the elements whose bit of v0 is set. -/
structure VAccess where
  hart    : HartId
  isStore : Bool
  mode    : VMode
  eewLog  : Fin 4
  nf      : Fin 8
  masked  : Bool
  faultOnlyFirst : Bool
  vd      : RegId
  rs1     : RegId
deriving DecidableEq, Repr

/-- Where VSETVL takes its AVL (R257): a register (or VLMAX when rs1 = x0 and rd ≠ x0, or the present vl when both
are x0), or the immediate of vsetivli. -/
inductive AvlSrc where
  | reg (rs1 : RegId)
  | imm (uimm : BitVec 5)
deriving DecidableEq, Repr

/-- The fields of a request packet's header that its receiver uses (R309). -/
structure PktHdr where
  sslot : SlotId
  req   : BitVec 10
  hint  : BitVec 2
  pgen  : BitVec 4
  addr  : LocalAddr
  plane : Fin 18
deriving DecidableEq, Repr

/-- The extension slot of ATOM, RED and ABORT, with the header's RETRY and SEQ (R309, R311). -/
structure TagExt where
  retry  : Bool
  seq    : BitVec 16
  aop    : BitVec 5
  w64    : Bool
  hepoch : BitVec 32
  sepoch : BitVec 32
deriving DecidableEq, Repr

/-- What the response to a request names (R309): the module that answers and the request's REQ, SEQ and ADDR. -/
structure RspHdr where
  sslot : SlotId
  req   : BitVec 10
  seq   : BitVec 16
  addr  : LocalAddr
deriving DecidableEq, Repr

/-- KIND of a flit (R306). -/
inductive FlitKind where
  | data | idle | nak | ctrl
deriving DecidableEq, Repr

/-- A flit as its port sees it: the link header of R306, and whether its FEC codewords and CRC are good. -/
structure Flit where
  fseq  : BitVec 12
  fack  : BitVec 12
  kind  : FlitKind
  cvc   : BitVec 3
  cred  : BitVec 12
  good  : Bool
  fixed : Bool
  slots : List (BitVec 128)
deriving DecidableEq, Repr

/-- The four causes of a retrain (R304). -/
inductive LaneCause where
  | lockLost | symbolErrors | codewords | replayStalled
deriving DecidableEq, Repr

/-- A caching agent of the bay: a cluster of a module, by its slot (R341). -/
structure Agent where
  slot    : SlotId
  cluster : ClusterId
deriving DecidableEq, Repr

/-- An owner of a region: module slot, owner unit (cluster 0 to 11, Truss engine 16 to 31, Sketch 32) and the home
epoch of its module (R347, R353). -/
structure OwnerId where
  slot  : SlotId
  unit  : BitVec 6
  epoch : BitVec 32
deriving DecidableEq, Repr

/-- What a Truss packet or control names (R394): the group, the collective, and the sender's rank. -/
structure TrussHdr where
  gid     : BitVec 32
  collSeq : BitVec 32
  rank    : Nat
deriving DecidableEq, Repr

/-- A piece of a chunk (R390, R394): level (hall or rack), direction, chunk number, and the step of a RING, by which its
sender and receiver tell the segments of a chunk apart (log 30). -/
structure PieceId where
  hall  : Bool
  down  : Bool
  chunk : Nat
  step  : Nat
deriving DecidableEq, Repr

/-- The chunk header of R394 as the receiver reads it. -/
structure ChunkHeader where
  ver    : BitVec 4
  wfmt   : BitVec 4
  ifmt   : BitVec 5
  epoch  : BitVec 32
  bytes  : Nat
  opsig  : BitVec 32
  tscale : BitVec 32
  used   : Nat
  dropped : Nat
  crc    : Word
  ncontrib : Nat
deriving DecidableEq, Repr

/-- A member of a group or job: rack, slot, and whether it is an Istus module (R375). -/
structure Member where
  rack  : BitVec 10
  slot  : BitVec 7
  istus : Bool
deriving DecidableEq, Repr

/-- One segment of the transport (R497), with the port it came on and its source. -/
structure Segment where
  port    : Fin 2
  srcAddr : BitVec 128
  srcPort : BitVec 16
  magicOk : Bool
  flow    : Nat
  seg     : BitVec 32
  msg     : BitVec 32
  offset  : BitVec 32
  total   : BitVec 32
  sack    : Word
  data    : List Byte
deriving DecidableEq, Repr

/-- Result of a self-test. -/
inductive TestResult where
  | pass | fail
deriving DecidableEq, Repr

/-- Who takes part in a session request: the session number and the request's SEQ (R486, R488), and whether the tag of
the message verifies under the session's key (R494). -/
structure SessReq where
  session : Nat
  seq     : BitVec 32
  tagOk   : Bool
deriving DecidableEq, Repr

/-- An item of a BLOCK_READ or BLOCK_WRITE (R487). -/
structure BlockItem where
  index : BitVec 16
  sub   : BitVec 8
  typ   : BitVec 8
  data  : List Byte
deriving DecidableEq, Repr

/-- A launch message's sender: the rank it names and the session it came in (R495). -/
structure LaunchFrom where
  jobId : Word
  rank  : Nat
deriving DecidableEq, Repr

/-- The commands: one constructor per row of the table. -/
inductive Instr where
  -- tile command streams and sync objects
  | launch (q : SeqId)
  | halt (q : SeqId)
  | fence (q : SeqId)
  | wait (q : SeqId)
  | waitRelease (q : SeqId)
  | waitTimeout (w : Waiter)
  | signalAdd (q : SeqId)
  | signalSet (q : SeqId)
  | counterSnap (q : SeqId)
  | counterStamp (q : SeqId)
  | swatchBegin (t : TileId)
  | swatchEnd (t : TileId)
  | copy (t : TileId)
  | move (t : TileId)
  | load (t : TileId)
  | weightLoadDone (t : TileId)
  | fstream (t : TileId)
  | tstream (t : TileId)
  | rawadd (t : TileId)
  | glaze (t : TileId) (pwpError : Option (BitVec 48))
  | store (t : TileId) (pwpError : Option (BitVec 48))
  | storeRaw (t : TileId)
  | storeDgrad (t : TileId) (reads : TableReads)
  | stencilForm (t : TileId) (pwpError : Option (BitVec 48))
  | stencilApply (t : TileId) (reads : TableReads)
  | gather (t : TileId)
  | scatterOverwrite (t : TileId)
  | scatterAdd (t : TileId)
  | scatterMax (t : TileId)
  | scatterMin (t : TileId)
  | commandCompletion (q : SeqId) (index : Nat)
  | stencilTableReloadDone (t : TileId) (func : BitVec 5)
  | glazeTableReloadDone (t : TileId) (func : BitVec 5)
  | tileInternalError (t : TileId)
  | spareSelfTestDone (t : TileId) (r : TestResult)
  -- Plumb
  | solve (g : Fin 16)
  | problemEnded (g : Fin 16) (i : Nat)
  | qpCommit (g : Fin 16) (i : Nat)
  | plumbDeadline (g : Fin 16)
  | groups (o : Origin) (value : BitVec 16)
  | groupMode (o : Origin) (g : Fin 16) (value : BitVec 16)
  -- control cores
  | syncAdd (h : HartId) (rd rs1 rs2 : RegId)
  | syncSet (h : HartId) (rd rs1 rs2 : RegId)
  | syncAbort (h : HartId) (rd rs1 : RegId)
  | syncWait (h : HartId) (rd rs1 rs2 : RegId)
  | syncWaitRelease (h : HartId)
  | syncRead (h : HartId) (rd rs1 : RegId)
  | htime (h : HartId) (rd : RegId)
  | htwait (h : HartId) (rd rs1 : RegId)
  | htwaitRelease (h : HartId)
  | tamoAdd (a : TamoArgs)
  | tamoSwap (a : TamoArgs)
  | tamoXor (a : TamoArgs)
  | tamoCas (a : TamoArgs)
  | tamoFadd (a : TamoArgs)
  | tamoOr (a : TamoArgs)
  | tamoAnd (a : TamoArgs)
  | tamoMin (a : TamoArgs)
  | tamoMax (a : TamoArgs)
  | tamoMinu (a : TamoArgs)
  | tamoMaxu (a : TamoArgs)
  | coreLoad (h : HartId) (sizeLog : Fin 4) (signed : Bool) (rd rs1 : RegId) (imm : BitVec 12) (ecc : Ecc)
  | coreStore (h : HartId) (sizeLog : Fin 4) (rs2 rs1 : RegId) (imm : BitVec 12)
  | coreFence (h : HartId) (pred succ : BitVec 4)
  | coreAmo (h : HartId) (op : AmoOp) (wid : Wid) (aq rl : Bool) (rd rs1 rs2 : RegId)
  | vectorAccess (a : VAccess)
  | vsetvl (h : HartId) (rd : RegId) (avl : AvlSrc) (vtype : Word)
  | otnhint (h : HartId) (r : CsrRegs)
  | otnmtcmp (h : HartId) (r : CsrRegs)
  | mtip (h : HartId)
  -- memory
  | interleaveMap (o : Origin) (map : List Byte)
  | jobZeroingDone
  | stackTempSample (stack : Fin 16) (reading : Option (BitVec 8))
  | scrubRead (stack : Fin 16) (ecc : Ecc)
  | rowRepairDone (stack : Fin 16)
  -- Tenon
  | flitReceived (port : Fin 18) (f : Flit)
  | nak (port : Fin 18) (fack : BitVec 12)
  | laneFault (port : Fin 18) (cause : LaneCause)
  | retrainDone (port : Fin 18) (passed : BitVec 8)
  | downPortRetrain (port : Fin 18)
  | planeReturn (req : BitVec 10) (slot : SlotId) (line : BitVec 34)
  | rd (p : PktHdr) (size : BitVec 8) (ecc : Ecc)
  | rdrsp (r : RspHdr) (st : Status) (data : List Byte)
  | wr (p : PktHdr) (data : List Byte)
  | wrack (r : RspHdr) (st : Status)
  | atom (p : PktHdr) (x : TagExt) (opnd cmp : Word)
  | atomrsp (r : RspHdr) (st : Status) (old : Word) (hepoch : BitVec 32)
  | atomack (sslot : SlotId) (req : BitVec 10) (seq : BitVec 16)
  | red (p : PktHdr) (x : TagExt) (data : List Byte)
  | redrsp (r : RspHdr) (st : Status) (hepoch : BitVec 32)
  | abort (p : PktHdr) (x : TagExt)
  | bulk (p : PktHdr) (data : List Byte)
  | bulkack (r : RspHdr) (st : Status)
  | fabricTimeout (r : RspHdr)
  | reach (plane : Fin 18) (mapSeq : BitVec 16) (reachable : BitVec 72)
  | reachLost (plane : Fin 18)
  | timeSync (plane : Fin 18) (t1 : Word) (tseq : BitVec 16) (src : BitVec 2)
  | delayReqDue
  | delayRsp (plane : Fin 18) (t4 : Word) (tseq : BitVec 16)
  | planeSourceLost
  -- coherence and ownership
  | cgets (a : Agent) (line : BitVec 34) (ask : LineAsk)
  | cgetm (a : Agent) (line : BitVec 34) (ask : LineAsk)
  | cput (a : Agent) (line : BitVec 34) (tid : BitVec 16) (data : Option (List Byte))
  | crecallInv (home : SlotId) (c : ClusterId) (line : BitVec 34) (tid : BitVec 16)
  | crecallFwd (home : SlotId) (c : ClusterId) (line : BitVec 34) (tid : BitVec 16)
  | cdata (home : SlotId) (c : ClusterId) (line : BitVec 34) (tid : BitVec 16) (excl : Bool) (st : Status) (data : List Byte)
  | cack (a : Agent) (line : BitVec 34) (tid : BitVec 16) (data : Option (List Byte))
  | recallTimeout (line : BitVec 34)
  | cownAcqExcl (o : OwnerId) (region : BitVec 18) (tid : BitVec 16)
  | cownAcqRead (o : OwnerId) (region : BitVec 18) (tid : BitVec 16)
  | cownRelease (o : OwnerId) (region : BitVec 18) (tid : BitVec 16)
  | cownPing (home : SlotId) (tid : BitVec 16)
  | cownPingDue
  | cownrsp (home : SlotId) (tid : BitVec 16) (st : Status) (epoch : BitVec 32)
  | acquireExcl (h : HartId) (slot : BitVec 7) (region : BitVec 18)
  | acquireRead (h : HartId) (slot : BitVec 7) (region : BitVec 18)
  | ownRelease (h : HartId) (slot : BitVec 7) (region : BitVec 18)
  | clearLost (o : Origin) (region : BitVec 32)
  | unitReset (cls : BitVec 4) (inst : BitVec 10) (orderly : Bool)
  | ridgeLinkFailure (link : Fin 15)
  -- Truss
  | coll (e : Fin 16)
  | form (e : Fin 16)
  | reform (e : Fin 16)
  | park (e : Fin 16)
  | dissolve (e : Fin 16)
  | formUp (gid : BitVec 32) (rank : Nat) (lsig : Word) (hepoch : BitVec 32)
  | formDown (gid : BitVec 32) (st : Status)
  | ready (h : TrussHdr) (pc : PieceId) (opsig : BitVec 32) (allow : Nat)
  | chunkStart (gid collSeq : BitVec 32) (pc : PieceId)
  | chunkData (h : TrussHdr) (pc : PieceId) (off : Nat) (data : List Byte)
  | chunkHeader (h : TrussHdr) (pc : PieceId) (hd : ChunkHeader)
  | resend (h : TrussHdr) (pc : PieceId)
  | pieceTimeout (h : TrussHdr) (pc : PieceId)
  | fail (h : TrussHdr) (st : Status) (subject : Nat)
  | trussAck (h : TrussHdr)
  | failAckTimeout (gid collSeq : BitVec 32) (child : Nat)
  | probe (h : TrussHdr)
  | probeAnswer (h : TrussHdr) (epoch : BitVec 32)
  | memberTimeout (h : TrussHdr)
  | doneUp (h : TrussHdr)
  | doneDown (h : TrussHdr)
  | count (h : TrussHdr) (entries : Nat)
  -- barriers, hall time, scribe
  | barrierArrive (gid : BitVec 32) (rank : Nat) (gen10 : BitVec 10)
  | barrierRelease (gid : BitVec 32) (gen10 : BitVec 10) (trel : Word)
  | barrierTrelReached (b : Fin 256)
  | barrierTimeout (b : Fin 256)
  | htrefFrame (time : Word) (crcOk : Bool)
  | htrefEdge
  | ieee1588Message (offset : Int)
  | holdoverExpiry
  | scribeExchangeDue
  | scribe (exch : BitVec 32) (entries : List (Nat × BitVec 32 × Word)) (mismatch : Bool)
  | scribeLost
  -- Sketch and launch
  | arm
  | armingComplete
  | sketchSweepGranule
  | priorityCopyDone
  | sketchCopyEnd
  | sketchDrainTimeout
  | restore (fetched : List (List Byte))
  | jobManifest (o : Origin) (bytes : List Byte)
  | lChunk (src : LaunchFrom) (chunk : Nat) (offset : Nat) (data : List Byte)
  | lGot (src : LaunchFrom) (chunk : Nat) (got : Nat)
  | lChunkResendDue (child : Nat)
  | launchTimeout
  | lJoin (src : LaunchFrom) (lowest : Nat)
  | lAck (src : LaunchFrom) (digest : BitVec 512)
  | lReport (src : LaunchFrom) (silent : Nat)
  | lReplace (src : LaunchFrom) (rank : Nat) (m : Member) (sig : List Byte)
  | lStart (src : LaunchFrom) (trel : Word) (sig : List Byte)
  | hartsStart
  | lAbort (src : LaunchFrom) (sig : List Byte)
  -- dictionary
  | hello (path : Path) (source : BitVec 128) (role : BitVec 8) (nonce : BitVec 256)
  | openSession (path : Path) (source : BitVec 128) (payload : List Byte)
  | close (r : SessReq)
  | read (r : SessReq) (index : BitVec 16) (sub : BitVec 8) (offset length : Nat)
  | write (r : SessReq) (index : BitVec 16) (sub typ : BitVec 8) (offset : Nat) (last : Bool) (data : List Byte)
  | blockRead (r : SessReq) (items : List BlockItem)
  | blockWrite (r : SessReq) (items : List BlockItem)
  | subscribe (r : SessReq) (index : BitVec 16) (sub : BitVec 8) (mode : BitVec 8) (period : BitVec 32)
  | unsubscribe (r : SessReq) (sub : Nat)
  | notifyPeriod (session sub : Nat)
  | notifyCoalesceEnd (session sub : Nat)
  | requestTimeout (r : SessReq)
  | idleTimeout (session : Nat)
  | odWrite (o : Origin) (index : BitVec 16) (sub typ : BitVec 8) (data : List Byte)
  | cursor (h : HartId) (value : Word)
  | dataRead (h : HartId) (rd : RegId)
  | dataWrite (h : HartId) (value : Word)
  | commit (h : HartId) (value : Word)
  | exportedTo (o : Origin) (seq : Word)
  | funcDisable (o : Origin) (cls : BitVec 4) (inst : BitVec 10)
  | disableDrainTimeout
  | funcEnable (o : Origin) (cls : BitVec 4) (inst : BitVec 10) (r : TestResult)
  -- transport
  | flow (o : Origin) (f : Fin 256) (value : List Byte)
  | transportData (s : Segment)
  | transportAck (s : Segment)
  | transportSendRecord (f : Fin 256)
  | transportRto (f : Fin 256) (seg : BitVec 32)
  | ackDelay (f : Fin 256)
  -- counters, logs, alarms
  | counterConfig (o : Origin) (value : List Byte)
  | counterValues (o : Origin)
  | snapTime (o : Origin) (time : Word)
  | snapshotLatch
  | thaw
  | logTokenRefill (cls : Fin 14)
  | alarmAck (o : Origin) (code : BitVec 16)
  | oldestUnexported (o : Origin) (seq : BitVec 32)
  -- power, clocks, start-up, security
  | powerUp (o : Origin)
  | standbyReached (failures : List Nat)
  | readyReached (failedTiles : List Nat) (failedUnits : List Nat) (failedPorts : List Nat) (failedStacks : List Nat)
  | standby (o : Origin)
  | powerDown (o : Origin)
  | releaseJob (o : Origin)
  | reset (o : Origin)
  | maintenanceReset (o : Origin)
  | watchdogExpiry
  | pllLockLoss
  | referenceLoss
  | inputApplied
  | inputHeldInRange
  | strapRead (ga : BitVec 7) (ra : BitVec 10) (parity : Bool)
  | modEnFall
  | inputSample (milliVolts milliAmps : Nat)
  | dieTempSample (temps : Vector Nat 10)
  | coolantSample (inlet outlet : Vector Nat 5) (pulses : Nat)
  | leakAsserted
  | flowPulseLoss
  | powerLoopEvaluation
  | tripLatchCleared
  | gateDelayExpiry (unit : Fin 737)
  | fwImage (o : Origin) (image : List Byte)
  | svnCommit (o : Origin) (value : BitVec 32)
  | identityCert (o : Origin) (der : List Byte)
  | identityCertCheck
  | hallTimeSave
  | quote (o : Origin)
  | htrefFramesMissing
  | leakDeasserted
  | referenceRestored
deriving DecidableEq, Repr

end Sys2Proof
end

