-- ==== Sys2Proof/Decode.lean ====
section
/-! DEFINITION. Commands from words. No row of spec/opcode_table.json carries bits (its fields lists are empty), so no word
spells a command. -/

namespace Sys2Proof

/-- The command that the low `nbits` bits of `w` spell by the table: none, since no row has bits. -/
def decodeTableWord (_nbits _w : Nat) : Option Instr := none

end Sys2Proof
end

