-- ==== Sys2Proof/Config.lean ====
section
/-! DEFINITION. What an implementation fixes and the values the spec leaves open: constants with no body, so that no
proof can rest on a value of theirs. Each is named in the assumption log. -/

namespace Sys2Proof.Config

open Sys2Proof

/-- A fresh open value of `n` bits: the step applies it to State's counter `free` (log 2). -/
opaque freeValue : Nat → Nat

/-! ### Functions the spec bounds and does not fix bit for bit -/

/-- EXP2, LOG2, RECIP and RSQRT of the SFU (R153): operation number and operand bits to result bits (log 12). -/
opaque sfu : Nat → Nat → Nat
/-- The built-in piecewise functions of R152: table number and operand bits to result bits (log 12). -/
opaque pwpBuiltin : Nat → Nat → Nat
/-- P0 and P1 of an operation (R123, R127): which of the two, and the element program's bytes; the spec gives them no field
(log 18). -/
opaque keepConst : Nat → Nat → Nat

/-! ### Plumb (log 14) -/

/-- The order in which a QP workspace holds its three iterate slots, its factor and its data copy (R239). -/
opaque qpOrder : Nat

/-! ### Physical placement (log 15) -/

/-- The set of a slice that a module line maps to (R278). -/
opaque cacheSet : Nat → Nat
/-- The row, within its device page, of a place on a pseudo-channel (R295). -/
opaque rowInPage : Nat → Nat → Nat
/-- The bank group of a row (R296). -/
opaque bankGroup : Nat → Nat

/-- By how much a thermistor's reading differs from the temperature, in thousandths of a degree (R576, log 95). -/
opaque sensorError : Nat → Int

/-- REQ of a remote SIGNAL of a Plumb group; R315 gives groups none (log 16). -/
opaque plumbReq : Nat → Nat

/-! ### Reports (log 16) -/

/-- Status of the FAULT entry that ends capture for a step (R442). -/
opaque captureStatus : Nat

/-- Severity of a logged event that is no alarm: 0 or 1 (R525). -/
opaque logWarning : Nat → Nat → Bool
/-- The number a FAULT entry gives a unit's class (R440). -/
opaque faultUnitClass : Nat → Nat

/-! ### Cryptography (log 17): certificates, RSA and the identity key -/

/-- Whether a certificate chain reaches an anchor of the list whose use bits include the given bit, at a hall time. -/
opaque chainGood : List Byte → List (List Byte) → Nat → Bool
/-- Whether a signature by the key of a certificate verifies over bytes. -/
opaque sigGood : List Byte → List Byte → List Byte → Bool
/-- Whether a manifest's signature verifies against an accepted chain that ends at one of the anchors, at a hall time (R466,
R468). -/
opaque manifestGood : List Byte → List (List Byte) → Nat → Bool
/-- Key identifier of a certificate's key (R493). -/
opaque certKeyId : List Byte → Nat
/-- The session key that an RSAES-OAEP block decrypts to under the identity key; none when it does not decrypt. -/
opaque oaepOpen : List Byte → Option (List Byte)
/-- A signature by the identity key over bytes. -/
opaque identitySign : List Byte → List Byte
/-- The self-signed certificate that a chain ends in; none when it ends otherwise. -/
opaque chainRoot : List Byte → Option (List Byte)
/-- Whether a certificate carries the identity key. -/
opaque carriesIdentity : List Byte → Bool
/-- Type, SVN and header digest of a firmware image that verifies (R553, R554); none of one that does not. -/
opaque fwImage : List Byte → Option (Nat × Nat × Nat)
/-- The validity of a certificate at a hall time. -/
opaque certValid : List Byte → Nat → Bool

/-- The opcode byte that a scribe record holds for a kind of transaction (R436): 0 write, 1 atomic, 2 SIGNAL, 3 SYNC,
4 SOLVE, with the code of its operation (log 19). -/
opaque scribeOpcode : Nat → Nat → Nat

end Sys2Proof.Config
end

