-- ==== Sys2Proof/Machine/State.lean ====
section
/-! DEFINITION. The state of the module as plain data, the reasons a step can stop, and the state after reset. -/

namespace Sys2Proof.Machine

open Sys2Proof

/-- A sparse table: keys strictly rising, no entry equal to what an unlisted key reads as. -/
abbrev Tab (α : Type) := List (Nat × α)

/-- The faults of the machine: none. Every command has an effect, a refusal that the spec names, or is discarded as the spec says,
and each of these is a next state. -/
inductive Fault where
deriving DecidableEq, Repr

/-- Why a command has no meaning. -/
inductive Refusal where
  /-- Raised by `exec` for a command not modelled yet, by name. Safe. -/
  | notModelled (mnemonic : String)
deriving DecidableEq, Repr

/-! ### Clock, sync objects, command streams -/

/-- The clk600 cycle count and hall time (R12, R432): `third` counts the thirds of a nanosecond not yet in `hall`
(one clk600 period is 5/3 ns), `slew` the nanoseconds still to be slewed (R434). -/
structure ClockSt where
  cycle : Nat
  hall  : Word
  third : Fin 3
  slew  : Int
deriving DecidableEq, Repr

/-- A sync object (R203). -/
structure SyncObj where
  count   : Word
  aborted : Bool
deriving DecidableEq, Repr

/-- The bytes `lo` to `hi - 1` of rack address space (R209). -/
structure Span where
  lo : Nat
  hi : Nat
deriving DecidableEq, Repr

/-- Where a fetched command of a stream stands (R208). -/
inductive CmdPhase where
  | fetched | started | done
deriving DecidableEq, Repr

/-- A command in the fetch window of a sequencer (R193, R208): its index, its word as it was read, its phase, the spans
it reads and writes while started (R209), the status and detail it completes with, the cycle and hall time at which it
started, whether it is sampled and has waited on a protected granule (R522, R523), and what its start added to each counter of its
unit, which a record of an earlier COUNTER does not hold (R214). -/
structure CmdSlot where
  idx    : Nat
  word   : BitVec 128
  phase  : CmdPhase
  reads  : List Span
  writes : List Span
  status : Status
  detail : Word
  began  : Nat
  hall   : Word
  sampled : Bool
  stalled : Bool
  counts  : List Nat
deriving DecidableEq, Repr

/-- A pending WAIT of a stream (R205). -/
structure WaitSt where
  idx   : Nat
  obj   : ObjId
  value : Word
  since : Word
deriving DecidableEq, Repr

/-- The stop of a stream (R215): index, status and detail of the earliest stopped command. -/
structure StopSt where
  idx    : Nat
  status : Status
  detail : Word
deriving DecidableEq, Repr

/-- A stream in progress (R191 to R195). `nextFetch` is the index of the first command not yet fetched. -/
structure StreamSt where
  base      : Nat
  ncmd      : Nat
  doneObj   : ObjId
  doneEn    : Bool
  record    : Nat
  win       : List CmdSlot
  nextFetch : Nat
  stop      : Option StopSt
  warn      : Status
  waiting   : Option WaitSt
deriving DecidableEq, Repr

/-- A sequencer (R192): completed count, RUNNING or STOPPED, the stream it runs; `intake` is false while a disable or a
unit reset keeps it from starting commands (R508, R369); `lines` holds the lines of other modules that its next command
has read (R325), by rack line number, `refused` those whose read was refused. -/
structure Seq where
  n       : Nat
  running : Bool
  intake  : Bool
  stream  : Option StreamSt
  lines   : Tab (List Byte)
  refused : List (Nat × Status)
deriving DecidableEq, Repr

/-! ### Tiles -/

/-- A weight set of the cells (R67, R90, R100, R101): codes by 128·k + edge position, B8 codes by
128·block + edge position, and what the set carries through a swap. `fmt` is the FMT code of its tensor, `wide4` is true
in 4-bit cell mode, `elems` its reduction length. -/
structure WeightSet where
  valid  : Bool
  everActive : Bool
  fmt    : Nat
  wide4  : Bool
  square : Bool
  split  : Option (Nat × Nat)
  exps   : Tab Int
  tscale : BitVec 32
  elems  : Nat
  codes  : Tab Int
  scales : Tab Nat
deriving DecidableEq, Repr

/-- Split-mode state of a bank (R103): setting (slice count), row and edge exponents, count of each pair. -/
structure SplitBank where
  slices  : Nat
  rowExp  : Tab Int
  edgeExp : Tab Int
  counts  : Tab Nat
deriving DecidableEq, Repr

/-- An accumulator bank (R82, R83): X96 contents by 128·row + edge position, count, latched tensor-scale product. -/
structure Bank where
  empty : Bool
  acc   : Tab Int
  count : Nat
  prod  : Option Word
  split : Option SplitBank
deriving DecidableEq, Repr

/-- Swatch state of a tile (R425). -/
structure SwatchSt where
  on    : Bool
  layer : BitVec 32
  step  : Word
  sum   : Nat
  elems : Nat
deriving DecidableEq, Repr

/-- A tile (R67 to R91, R25, R26). `phys` is the physical tile that carries the number (0: the exposed tile
itself, k + 1: spare k of its die, none: absent), `testing` the spare whose self-test runs, `forward` the direction of its last stream, `loading` the outcome of the weight load in
progress, `pwpReload` and `stReload` the built-in tables being reloaded (R132, R166). -/
structure TileSt where
  phys     : Option Nat
  testing  : Option Nat
  active   : WeightSet
  shadow   : WeightSet
  loading  : Option (Option WeightSet)
  bankA    : Bank
  bankB    : Bank
  forward  : Option Bool
  swatch   : SwatchSt
  pwpReload : BitVec 32
  stReload  : BitVec 32
deriving DecidableEq, Repr

/-- The spares of a tensor die (R24 to R26): bit k is spare k. -/
structure DieSt where
  used   : BitVec 4
  failed : BitVec 4
  passed : BitVec 4
deriving DecidableEq, Repr

/-! ### Plumb -/

/-- A SOLVE descriptor (R227). -/
structure SolveDesc where
  cls : Nat
  op : Nat
  regset : Nat
  warm : Bool
  cont : Bool
  early : Bool
  lti : Bool
  depth : Nat
  count : Nat
  n1 : Nat
  n2 : Nat
  n3 : Nat
  n4 : Nat
  maxit : Nat
  abase : Nat
  astride : Nat
  bbase : Nat
  bstride : Nat
  xbase : Nat
  xstride : Nat
  fbase : Nat
  fstride : Nat
  wbase : Nat
  wstride : Nat
  rbase : Nat
  deadline : Word
  tol : Word
deriving DecidableEq, Repr

/-- A problem of a SOLVE (R226, R237): its ending, whether it has come into flight, committed iterations, whether iterate 0 is
committed, the iterate slots CUR and BEST, the merit of BEST, whether a warm start was rejected, whether the last factorisation begun
was completed (R242), flagged pivots, the signature, and how long its last iteration took and when it or the problem began. -/
structure ProbSt where
  ended    : Option Status
  started  : Bool
  iter     : Nat
  begun    : Bool
  cur      : Nat
  best     : Nat
  bestMerit : Word
  warmRej  : Bool
  fcache   : Bool
  regCount : Nat
  firstReg : Nat
  firstIt  : Nat
  hash     : Word
  lastDur  : Word
  mark     : Word
deriving DecidableEq, Repr

/-- A SOLVE in progress on a Plumb group, with the thresholds latched at its start (R234). -/
structure SolveSt where
  idx    : Nat
  desc   : SolveDesc
  probs  : Tab ProbSt
  epsRel : Word
  epsAbs : Word
  delta  : Word
  deltaP : Word
  deltaD : Word
deriving DecidableEq, Repr

/-! ### Control cores -/

/-- Privilege modes (R250). -/
inductive Priv where
  | user | supervisor | machine
deriving DecidableEq, Repr

/-- What a hart is blocked on: a SYNC.WAIT (R266), an HTWAIT (R268), rack lines its cluster has asked for (R344), a
remote load (R325), a tagged atomic or a remote SYNC (R329), a read of OWN_RESULT (R354). -/
inductive Blocked where
  | syncWait (rd : RegId) (obj : ObjId) (value : Word) (since : Word)
  | htWait (rd : RegId) (target : Word)
  | lines (need : List Nat)
  | remoteLoad (rd : RegId) (addr : Nat) (sizeLog : Nat) (signed : Bool)
  | tagged (rd : RegId) (wid : Wid)
  | amo (rd : RegId) (wid : Wid)
  | storeCond (rd : RegId) (wid : Wid) (cmp : Nat)
  | syncTagged (rd : RegId)
  | owning
deriving DecidableEq, Repr

/-- What an instruction is to a trace record (R523): bits [6:0] of its word, and the rack address of its first data access, 0 when
it makes none. -/
structure Issued where
  opcode : Nat
  addr   : Nat
deriving DecidableEq, Repr

/-- An instruction that is to be sampled, since it issued (R522, R523): hall time and cycle of its issue, what it is, and whether
it has waited on a Sketch-protected granule. -/
structure Sampling where
  hall    : Word
  cycle   : Nat
  what    : Issued
  stalled : Bool
deriving DecidableEq, Repr

/-- A hart (R249 to R270): registers, pc, privilege, CSRs by number, vector state, whether it is held, what it is
blocked on, the status of a failed remote store not yet reported (R263), its LR reservation of a line and that of an uncached
address with its bytes and the value read (R254), block-port cursor and staging (R484), and the result OWN_RESULT will return (R354); `lines` and `refused` hold the lines of other modules that the
hart's next vector load has read, and the rack lines whose request was refused, until that instruction completes; `sampling` is
what a trace record will say of the instruction in progress (R523). -/
structure Hart where
  x       : Tab Word
  f       : Tab Word
  v       : Tab (BitVec 128)
  pc      : Word
  priv    : Priv
  csr     : Tab Word
  otnhint : Word
  otnmtcmp : Word
  mtip    : Bool
  vl      : Word
  vtype   : Word
  vstart  : Word
  vxrm    : BitVec 2
  vxsat   : Bool
  fcsr    : BitVec 8
  held    : Bool
  blocked : Option Blocked
  failed  : Option Status
  resv    : Option Nat
  resvAt  : Option (Nat × Nat × Nat)
  cursor  : Word
  staged  : List (Nat × List Byte)
  latch   : Option Nat
  ownResult : Status
  nonce   : BitVec 512
  lines   : Tab (List Byte)
  refused : List (Nat × Status)
  sampling : Option Sampling
deriving DecidableEq, Repr

/-! ### Memory -/

/-- A failed row with its repair record (R295 to R297). -/
structure RowRec where
  stack  : Nat
  row    : Nat
  remaps : Nat
  hard   : Bool
deriving DecidableEq, Repr

/-- A retired device page (R298): pseudo-channel and page number within it. -/
structure RetPage where
  pc   : Nat
  page : Nat
deriving DecidableEq, Repr

/-- Errors, repairs and retirement (R289 to R300, R582). `badWords` names the ECC words marked bad, by address; `rowCe`
counts corrected errors by stack and row, the least recently counted first; `repairing` names rows whose repair is in
progress (stack, row, spare). -/
structure EccSt where
  badWords  : List Nat
  retired   : List RetPage
  rows      : List RowRec
  spareUse  : Tab Nat
  rowCe     : List (Nat × Nat × Nat)
  repairing : List (Nat × Nat)
deriving DecidableEq, Repr

/-- A stack (R285 to R287, R294): throttle step, doubled refresh, samples missed in a row, next line of the patrol scrub. -/
structure StackSt where
  step    : Nat
  doubled : Bool
  missed  : Nat
  scrub   : Nat
  trained : Bool
deriving DecidableEq, Repr

/-- A line of the memory-side cache (R278): module line number, dirty flag, and whether it is a victim whose copies are being
recalled before it leaves (R343). -/
structure CLine where
  line  : Nat
  dirty : Bool
  going : Bool
deriving DecidableEq, Repr

/-- Directory states (R343). -/
inductive DirState where
  | u | s | m | b
deriving DecidableEq, Repr

/-- A request that waits at its home for a recall or a priority copy (R344, R345, R456). -/
inductive HomeReq where
  | rd (p : PktHdr) (size : Nat)
  | wr (p : PktHdr) (data : List Byte)
  | atom (p : PktHdr) (x : TagExt) (opnd cmp : Word)
  | red (p : PktHdr) (x : TagExt) (data : List Byte)
  | cget (a : Agent) (excl : Bool) (tid : BitVec 16) (hint : Nat)
  | bulk (p : PktHdr) (data : List Byte)
  | inner (who : Option (Nat × Nat)) (hint addr : Nat) (data : List Byte)
  /-- An AMO or TAMO of a hart of this module: requester, hint, AOP, address, bytes, operand and compare value. -/
  | amo (h : HartId) (who : Option (Nat × Nat)) (hint aop addr n opnd cmp : Nat)
  | own (slot unit : Nat) (region : Nat)
deriving DecidableEq, Repr

/-- A directory entry (R343): in B, `acks` holds the sharers that have not answered, `fwd` says whether the recall is
FWD, `resent` that it was sent a second time (R346). -/
structure DirEnt where
  st      : DirState
  sharers : BitVec 96
  tid     : BitVec 16
  acks    : BitVec 96
  fwd     : Bool
  wasM    : Bool
  resent  : Bool
deriving DecidableEq, Repr

/-- A line held by a cluster of this module (R341, R342): its state S or M, its bytes, and whether they were modified. -/
structure HeldLine where
  excl  : Bool
  dirty : Bool
  data  : List Byte
deriving DecidableEq, Repr

/-- A line that a cluster of this module has asked another home for: rack line, cluster, whether it asked for the only copy,
its TID and its hint (R253, R344, R347). -/
structure CohAsk where
  line : Nat
  c    : Nat
  excl : Bool
  tid  : BitVec 16
  hint : Nat
deriving DecidableEq, Repr

/-- A transaction that this home has answered and whose requester has not yet sent its final CACK (R348). -/
structure CohOpen where
  slot : Nat
  c    : Nat
  line : Nat
  excl : Bool
  tid  : BitVec 16
  st   : Status
deriving DecidableEq, Repr

/-- The last recall of a line that a cluster of this module has answered, with what it returned (R348). -/
structure CohAns where
  home : Nat
  c    : Nat
  line : Nat
  tid  : BitVec 16
  data : Option (List Byte)
deriving DecidableEq, Repr

/-- Coherence (R340 to R348): directory entries and waiting requests by module line number, the TID given next, the
lines this module's clusters hold by 16·rack line + cluster, the lines asked of other homes, open transactions, and
recalls answered. -/
structure CohSt where
  dir     : Tab DirEnt
  waiting : Tab (List HomeReq)
  nextTid : BitVec 16
  held    : Tab HeldLine
  asked   : List CohAsk
  opened  : List CohOpen
  answered : List CohAns
deriving DecidableEq, Repr

/-- An ownership entry (R353). -/
structure OwnEnt where
  read   : Bool
  pend   : Bool
  lost   : Bool
  region : Nat
  oslot  : Nat
  ounit  : Nat
  oepoch : Nat
deriving DecidableEq, Repr

/-- An acquisition or release (R351, R352): its TID, unit, the other module's slot, region, mode, whether it is a release,
whether it has been granted and is held, and the hart that asked. -/
structure OwnReq where
  tid     : Nat
  unit    : Nat
  slot    : Nat
  region  : Nat
  read    : Bool
  release : Bool
  held    : Bool
  hart    : Option HartId
deriving DecidableEq, Repr

/-- Ownership (R349 to R356): the table by entry number, unanswered pings by owner slot, pings outstanding by TID,
acquisitions this home has not yet answered, and those of this module's own units. -/
structure OwnSt where
  table   : Tab OwnEnt
  pings   : Tab Nat
  pinged  : Tab Nat
  reqs    : List OwnReq
  mine    : List OwnReq
deriving DecidableEq, Repr

/-! ### The fabric -/

/-- A packet as it leaves the module (R309). -/
structure Packet where
  ptype   : Nat
  dslot   : Nat
  plane   : Option Nat
  retry   : Bool
  req     : Nat
  seq     : Nat
  pgen    : Nat
  hint    : Nat
  addr    : Nat
  szst    : Nat
  payload : List (BitVec 128)
deriving DecidableEq, Repr

/-- A point where requesters share a resource (R335, R336): the requesters granted so far, the one granted longest ago first
(those never granted rank above them by index); grants since the last one by wait; the cycle from which each raised request
counts its wait, plus one; and the holder with the grant units it has left. -/
structure Arb where
  last   : List Nat
  grants : Nat
  since  : Tab Nat
  hold   : Option (Nat × Nat)
deriving DecidableEq, Repr

/-- What is still to come of a packet that a flit boundary cuts (R306): its virtual channel, its slots, and whether the next is a
management header (R313). -/
structure CutPacket where
  vc   : Nat
  left : Nat
  mgmt : Bool
deriving DecidableEq, Repr

/-- A Tenon port (R304 to R308, R318); its state of R303 stands in OD 0x6000.01. The state code it had before a retrain, whether
it is disabled, next FSEQ to send and to receive, flits not yet acknowledged, credits by virtual channel, whether it
discards after a bad flit, flits accepted, and the ATOMACKs whose flits are not yet acknowledged, by the FSEQ of the flit;
the packets that wait on each virtual channel and its deficit; the packet of which a flit boundary left slots to come, the slots
received on each channel whose credit is still to be returned, and replays since a flit was last acknowledged. -/
structure Port where
  before   : Nat
  disabled : Bool
  txSeq    : BitVec 12
  rxSeq    : BitVec 12
  unacked  : List Flit
  credits  : Tab Nat
  nakked   : Bool
  accepted : Nat
  acks     : List (BitVec 12 × Packet)
  waiting  : Tab (List Packet)
  deficit  : Tab Int
  cut      : Option CutPacket
  owed     : Tab Nat
  stalls   : Nat
deriving DecidableEq, Repr

/-- A switch plane as the module sees it (R312, R313). -/
structure Plane where
  mapSeq    : Option (BitVec 16)
  reachable : BitVec 72
  lost      : Bool
  src       : BitVec 2
  heard     : Bool
  t1        : Word
  t2        : Word
  offset    : Int
  delay     : Int
  t3        : Word
  tseq      : BitVec 16
  synced    : Bool
deriving DecidableEq, Repr

/-- What an outstanding request was sent for; `gone` is one of a unit that has been reset since (R369). -/
inductive OutFor where
  | hartLoad (h : HartId)
  | hartStore (h : HartId)
  | hartAtom (h : HartId)
  | seqRead (q : SeqId) (line : Nat)
  | seqWrite (q : SeqId) (idx : Nat)
  | seqSignal (q : SeqId) (idx : Nat)
  | abortMsg
  | gone (unit : Nat)
deriving DecidableEq, Repr

/-- An outstanding request (R324, R332): the packet as last sent, what it is for, and the hall time of its first
transmission; `resent` marks a re-send of R324, `timedOut` keeps its SEQ reserved after a timeout (R333). -/
structure Outst where
  pkt      : Packet
  forWhom  : OutFor
  since    : Word
  resent   : Bool
  timedOut : Bool
deriving DecidableEq, Repr

/-- An entry of the atomic replay cache (R328). -/
structure RepEnt where
  slot   : Nat
  req    : Nat
  seq    : Nat
  status : Status
  old    : Word
deriving DecidableEq, Repr

/-- A tag of the strict mode (R419): table (0 to 3 slices, 4 PD), line, requester. -/
structure Tag where
  table : Nat
  line  : Nat
  who   : Nat
deriving DecidableEq, Repr

/-- The fabric (R302 to R339). -/
structure FabricSt where
  ports    : Tab Port
  planes   : Tab Plane
  gen      : Tab Nat
  seenGen  : Tab Nat
  streams  : Tab Nat
  outst    : List Outst
  nextSeq  : Tab Nat
  replay   : List RepEnt
  sepoch   : Tab Nat
  hepoch   : Tab Nat
  held     : List Outst
  discards : Nat
  tags     : List Tag
  delaySeq : BitVec 16
deriving DecidableEq, Repr

/-! ### Hall time, barriers, scribe, ledger -/

/-- The time unit (R432 to R434, R577): when HOLDOVER began, the TIME of the last HTREF frame of a series, the frame that
awaits its edge and when it was taken, the frames of the series so far (at most three are counted), frames in a row that failed,
whether HTREF is lost, and hall time as last saved (R559). -/
structure TimeSt where
  holdSince : Option Word
  htTime    : Option Word
  htPend    : Option Word
  htAt      : Word
  htGood    : Nat
  htBad     : Nat
  htLost    : Bool
  savedHall : Word
deriving DecidableEq, Repr

/-- A barrier object (R427, R428): configuration bytes as stored, GEN, TREL, children that arrived, whether this member
arrived and when, and the TREL of a RELEASE received. -/
structure BarrierSt where
  cfg      : Nat
  gen      : Word
  trel     : Word
  children : List Nat
  arrived  : Option Word
  release  : Option Word
deriving DecidableEq, Repr

/-- Scribe (R435 to R438); `culprit` is the requester (times 2^32) and checkpoint of the first mismatch found here. -/
structure ScribeSt where
  on       : Bool
  running  : Tab Word
  counts   : Tab Nat
  rings    : Tab (List (Nat × Word))
  heldCmp  : Tab (List (Nat × Word))
  exch     : BitVec 32
  silent   : Nat
  mismatch : Bool
  culprit  : Nat
deriving DecidableEq, Repr

/-- A swatch being gathered (R425). -/
structure SwatchAcc where
  layer : Nat
  step  : Word
  sum   : Nat
  elems : Nat
deriving DecidableEq, Repr

/-- The ledger (R439 to R445). -/
structure LedgerSt where
  seq      : Nat
  wptr     : Nat
  isOpen   : Bool
  step     : Word
  entries  : Nat
  crc      : Nat
  lens     : List Nat
  swatches : List SwatchAcc
  settings : Option Word
  epochs   : Tab Nat
  waiting  : List (List Byte)
  heldSince : Option Word
  capOff   : Bool
deriving DecidableEq, Repr

/-! ### Truss -/

/-- A group entry (R374). STATE is 1 FORMING, 2 ACTIVE, 3 DORMANT, 4 LOST (0 FREE is an unlisted entry). With it stand
the member list, this member's LSIG, the LSIG each child sent, the home epochs recorded from peers (each plus one), and the
probes in a row that a peer has not answered. -/
structure Group where
  state   : Nat
  replica : Bool
  istus   : Bool
  resv    : Nat
  rank    : Nat
  gid     : Nat
  epoch   : Nat
  m       : Nat
  b       : Nat
  collSeq : Nat
  mlist   : Nat
  members : List Member
  lsig    : Word
  ups     : List (Nat × Word)
  epochs  : Tab Nat
  probes  : Tab Nat
deriving DecidableEq, Repr

/-- A piece that this member receives or contributes itself (R394 to R397): the rank it came from, its bytes and header,
whether it has verified, and how often it was asked for again. -/
structure Piece where
  pid      : PieceId
  src      : Nat
  bytes    : List Byte
  header   : Option ChunkHeader
  verified : Bool
  resends  : Nat
deriving DecidableEq, Repr

/-- A piece that this member sends (R396, R405): the receiver's rank, its bytes and header with the kept CRC, whether it
was formed by reading an input, and whether it has left. -/
structure SentPiece where
  pid    : PieceId
  dst    : Nat
  bytes  : List Byte
  header : ChunkHeader
  leaf   : Bool
  gone   : Bool
  staged : Bool
deriving DecidableEq, Repr

/-- A part of the output that is known (R389): its chunk, its first element and number of elements, its encoded bytes, and
whether it has been written. -/
structure ResPart where
  chunk   : Nat
  lo      : Nat
  n       : Nat
  bytes   : List Byte
  written : Bool
deriving DecidableEq, Repr

/-- A collective bound to a context (R380 to R406): the group entry, GID and COLLSEQ; the engine that bound it (16 for
Sketch); whether its context was reserved; its parameter block, latched D, inputs and output (reference and descriptor
bytes); whether it has started; the READYs received (rank, hall level, down); ALLTOALL counts of this source, counts
received (plus one), allowances received (plus one) and granted; pieces; the next chunk of the module level and of the hall
level and the leading complete chunks; the completion wave; the failure with the ranks whose ACK is awaited; and the counts
of its record. -/
structure Coll where
  gidx     : Nat
  gid      : Nat
  seq      : Nat
  engine   : Nat
  reserved : Bool
  block    : Nat
  depth    : Nat
  ins      : List (Nat × Nat)
  out      : Nat × Nat
  active   : Bool
  ready    : List (Nat × Bool × Bool)
  cnts     : List Nat
  counts   : Tab Nat
  allow    : Tab Nat
  grants   : List Nat
  pieces   : List Piece
  sent     : List SentPiece
  parts    : List ResPart
  next     : Nat
  hallNext : Nat
  prog     : Nat
  done     : Bool
  doneUps  : List Nat
  upSent   : Bool
  failed   : Option (Status × Nat)
  fwd      : Bool
  acks     : List Nat
  resends  : Nat
  dropped  : Nat
  stalls   : List Nat
deriving DecidableEq, Repr

/-- A message of a collective or formation that this member has not yet joined (R377, R398, R400, R402, R406). -/
inductive EarlyMsg where
  | formUp (lsig : Word) (epoch : BitVec 32)
  | ready (pid : PieceId) (opsig : BitVec 32) (allow : Nat)
  | fail (st : Status) (subject : Nat)
  | doneUp
  | count (n : Nat)
deriving DecidableEq, Repr

/-- An early message with its group, COLLSEQ and sender. -/
structure Early where
  gid  : Nat
  seq  : Nat
  rank : Nat
  msg  : EarlyMsg
deriving DecidableEq, Repr

/-- Truss (R371 to R414). -/
structure TrussSt where
  groups  : Tab Group
  colls   : List Coll
  early   : List Early
deriving DecidableEq, Repr

/-! ### Sketch and launch -/

/-- An accepted arming (R448). -/
structure ArmSt where
  mode    : Nat
  sgidx   : Nat
  rgidx   : Nat
  period  : Word
  extents : List (Nat × Nat)
  area    : Nat
  size    : Nat
  doneObj : ObjId
  record  : Nat
  jobId   : Word
deriving DecidableEq, Repr

/-- A shard entry (R466). -/
structure ShardEnt where
  rank     : Nat
  rack     : Nat
  slot     : Nat
  state    : Nat
  rep      : Bool
  rgid     : Nat
  fstatus  : Status
  length   : Nat
  extsig   : Word
  digest   : BitVec 512
  writer   : Nat
  mismatch : Bool
deriving DecidableEq, Repr

/-- A drain record sent to storage and not yet acknowledged (R464): KIND, OFFSET, payload length, REF, its first message number,
re-sends, and when it was last handed to the transport. -/
structure DrainRec where
  kind   : Nat
  offset : Nat
  length : Nat
  ref    : Nat
  msg    : Nat
  tries  : Nat
  since  : Word
deriving DecidableEq, Repr

/-- Phases of a generation (R454 to R465): arming, armed and waiting for the release, copying, exchange of shard entries,
drain, exchange of drain entries, and rank 0's manifest. -/
inductive GenPhase where
  | arming | armed | copying | exchanging | draining | closing | sealing
deriving DecidableEq, Repr

/-- A sketch generation in progress (R452 to R465): its step and TREL, phase, STATE and FSTATUS, protected granules, the queue
of priority copies, granule digests, when H was complete, its stalls, the gathered shard entries, drain records not yet
acknowledged, payload bytes acknowledged, the outcome of the drain and the rank that caused an abandonment, whether its
exchange is bound, the settings of the release, and the manifest. -/
structure GenSt where
  step     : Word
  trel     : Word
  phase    : GenPhase
  state    : Nat
  fstatus  : Status
  protect  : List Nat
  queue    : List Nat
  digests  : Tab (BitVec 512)
  tcopy    : Word
  stalls   : Nat
  stallCyc : Nat
  ents     : List ShardEnt
  drains   : List DrainRec
  drained  : Nat
  dstatus  : Status
  cause    : Nat
  bound    : Bool
  settings : List Byte
  manifest : List Byte
deriving DecidableEq, Repr

/-- A candidate of a RESTORE (R468): STEP, whether this member holds its shard complete, whether its shape matched, the bytes of
its manifest before the signature, and the shard's bytes as storage delivered them. -/
structure RestoreCand where
  step  : Word
  ok    : Bool
  shape : Bool
  man   : List Byte
  data  : List Byte
deriving DecidableEq, Repr

/-- A RESTORE in progress (R468): its command, the valid candidates left, whether any member has reported a matching shape, and
whether the exchange is bound. -/
structure RestoreSt where
  idx   : Nat
  todo  : List RestoreCand
  shape : Bool
  bound : Bool
deriving DecidableEq, Repr

/-- The Sketch engine (R447 to R469): the arming, the generation in progress, skipped generations that wait for their exchange
(R453), the TREL of the last step release, PREV_STEP, earlier steps that storage may still hold, RELEASE records not yet
acknowledged with the step of the generation that sent them, and a RESTORE in progress. -/
structure SketchSt where
  armed   : Option ArmSt
  gen     : Option GenSt
  skips   : List (Word × Word)
  lastTrel : Word
  prevStep : Word
  relSteps : List Word
  tail     : List (Word × DrainRec)
  restore : Option RestoreSt
deriving DecidableEq, Repr

/-- A job launch (R470 to R474): whether a job is assigned, whether memory is still being zeroed; the manifest's fields; the chunk
digest table, bytes received in order of each chunk, chunks held, digest failures of each, segments of the present chunk
received since the last L_GOT; children with the chunk each is served and the offset it has acknowledged, children that sent
ACK, whether this member has; how many ancestors it has joined, and which ancestor serves it; the TREL of START. -/
structure LaunchSt where
  assigned : Bool
  zeroing  : Bool
  jobId    : Word
  m        : Nat
  image    : Nat
  load     : Nat
  entry    : Word
  step0    : Word
  seed     : Word
  chunk    : Nat
  rank     : Nat
  members  : List Member
  table    : List (BitVec 512)
  partials : Tab (List Byte)
  have_    : List Nat
  retries  : Tab Nat
  segs     : Nat
  children : List Nat
  acked    : List Nat
  ackSent  : Bool
  asked    : Nat
  upper    : Nat
  progress : Tab (Nat × Nat)
  trel     : Option Word
  started  : Bool
  manifest : List Byte
deriving DecidableEq, Repr

/-! ### Dictionary, sessions, transport -/

/-- A change-log record (R502). -/
structure ChRec where
  seq     : Nat
  time    : Word
  index   : Nat
  sub     : Nat
  role    : Nat
  path    : Nat
  applied : Bool
  long    : Bool
  length  : Nat
  source  : BitVec 128
  keyId   : Word
  value   : BitVec 128
deriving DecidableEq, Repr

/-- A change that the module makes and whose record waits for space (R503): entry, bytes, old and new value, and whether the
change itself waits too. -/
structure ChWait where
  index : Nat
  sub   : Nat
  len   : Nat
  old   : Nat
  new   : Nat
  hold  : Bool
deriving DecidableEq, Repr

/-- The latest change: its record, entry and old value, and the clk600 cycle in which the record was durable (R504). -/
structure ChLast where
  seq   : Nat
  index : Nat
  sub   : Nat
  old   : Nat
  cycle : Nat
deriving DecidableEq, Repr

/-- The change log (R502 to R504): records kept, next SEQ, first unexported SEQ, changes of the module that wait for space, and the
latest change. -/
structure ChLogSt where
  recs     : List ChRec
  nextSeq  : Nat
  exported : Nat
  waiting  : List ChWait
  last     : Option ChLast
deriving DecidableEq, Repr

/-- A subscription (R491). -/
structure Sub where
  id       : Nat
  index    : Nat
  sub      : Nat
  periodic : Bool
  period   : Nat
  pending  : Bool
deriving DecidableEq, Repr

/-- A session (R488 to R494): role, path, source, key, highest SEQ, the last 64 responses, staged WRITE bytes by offset, and whether it was granted for launch messages only (R495). -/
structure Session where
  role    : Role
  path    : Path
  source  : BitVec 128
  keyId   : Word
  key     : List Byte
  highSeq : Nat
  kept    : List (Nat × Nat × Status × List Byte)
  stagedEnt : Option (Nat × Nat)
  staged  : List (Nat × List Byte)
  launchOnly : Bool
  subs    : List Sub
  nextSub : Nat
  lastReq : Word
  nonce   : BitVec 512
deriving DecidableEq, Repr

/-- A HELLO answered and not yet opened (R493). -/
structure Hello where
  path   : Path
  source : BitVec 128
  role   : Nat
  nonce  : BitVec 256
  mnonce : Nat
deriving DecidableEq, Repr

/-- Sessions (R492 to R494). -/
structure SessSt where
  table   : Tab Session
  hellos  : List Hello
  next    : Nat
  failures : List (BitVec 128 × Word)
deriving DecidableEq, Repr

/-- A segment sent and not yet covered by an ACK (R498). -/
structure SentSeg where
  seg     : Nat
  msg     : Nat
  offset  : Nat
  total   : Nat
  data    : List Byte
  resends : Nat
deriving DecidableEq, Repr

/-- A message being received (R499): its number, length, place in the ring once every earlier message is known, the pieces
received (offset, bytes, whether they are written), and port, hall time and step counter at its last segment. -/
structure InMsg where
  msg   : Nat
  total : Nat
  start : Option Nat
  segs  : List (Nat × List Byte × Bool)
  port  : Nat
  last  : Word
  step  : Nat
deriving DecidableEq, Repr

/-- A transport flow (R496 to R500); its entry of R496 stands in the dictionary. Received: next SEG expected, those beyond it,
messages not yet signalled, where the next message begins and its number, bytes written, messages signalled, DATA segments
not acknowledged, the CONSUMED last acknowledged. Sent: next SEG and message, place of the next record, segments not covered
and not yet sent, the latest CREDIT, the peer's MDONE. -/
structure FlowSt where
  rxNext   : Nat
  rxSack   : List Nat
  rxMsgs   : List InMsg
  place    : Nat
  placed   : Nat
  written  : Nat
  mdone    : Nat
  unackedRx : Nat
  consumed : Nat
  txSeg    : Nat
  txMsg    : Nat
  txPtr    : Nat
  unacked  : List SentSeg
  backlog  : List SentSeg
  credit   : Option Nat
  peerDone : Nat
deriving DecidableEq, Repr

/-! ### Counters, logs, alarms -/

/-- What a unit counts although R515 gives it no event code: invalid operations, overflows and flushes (R58), Istus low blocks (R54),
NaN stencils (R124), wraps of INT32 combines (R183), corrected reads of built-in tables (R125), and valid sets overwritten before they
were ever active (R90). -/
inductive Tally where
  | invalid | overflow | flush | istusLow | nanStencil | wrap | tableCorrected | unusedSet | codes | lateOutcome | dieFloor
deriving DecidableEq, Repr

/-- Counters, snapshots and traces (R513 to R524): values and overflow bits by 8·unit + k, select words by the same
key, whether they are frozen, the snapshot that is scheduled, the snapshot record that is not yet written, sampling
countdowns by unit; the counts that no event code names, by `tallyKey`; and the trace records that are not yet written, oldest
first, each with its die (R524). -/
structure CounterSt where
  vals    : Tab Nat
  ovf     : Tab Bool
  sel     : Tab (BitVec 32)
  frozen  : Bool
  sched   : Option (Word × Bool)
  latched : Option (List Byte)
  down    : Tab Nat
  tally   : Tab Nat
  traces  : List (Nat × List Byte)
deriving DecidableEq, Repr

/-- A log record (R525). -/
structure LogRec where
  seq    : Nat
  time   : Word
  event  : Nat
  unit   : Nat
  status : Status
  severity : Nat
  detail : Word
  suppressed : Nat
deriving DecidableEq, Repr

/-- An alarm entry (R527). -/
structure Alarm where
  active   : Bool
  lastUnit : Nat
  count    : Nat
  first    : Word
  last     : Word
  detail   : Word
deriving DecidableEq, Repr

/-- The log and the alarm table (R525 to R530): tokens spent and pending suppressed counts by class (13 is the alarm
bucket). -/
structure LogSt where
  recs    : List LogRec
  spent   : Tab Nat
  pend    : Tab Nat
  alarms  : Tab Alarm
deriving DecidableEq, Repr

/-! ### Power and security -/

/-- Conditions that trip the module (R551), with the value of LAST_RESET_CAUSE each gives. -/
inductive TripCause where
  | clockLoss | thermal | input | coolant | overcurrent
deriving DecidableEq, Repr

/-- A response that a disable or enable in progress owes (R508, R510): the function, the session (0 for a row's own), TYPE, SEQ,
status and payload. -/
structure Reply where
  key     : Nat
  session : Nat
  typ     : Nat
  seq     : Nat
  status  : Status
  payload : List Byte
deriving DecidableEq, Repr

/-- The power manager and the pins (R533 to R552, R566 to R577). Voltages in mV, currents in mA, powers in mW,
coolant temperatures in thousandths of a degree, die temperatures in degrees, flow in mL/min; `inputHeld` says that the always-on
island has started, `goal` is the state a start-up sequence is going to (0 none), `blocked` that POWER_UP is refused until a
maintenance reset (R542), `mv` and `ma` the samples of the last millisecond, `dieHot`, `inletBad`, `flowBad`, `overV` and `overI`
count samples in a row beyond a trip's limit, `floors` and `loops` are the two gate levels of each die, `low` the evaluations in a
row below the cap, `absentAt` the cycle since which the conditions of a latched trip are absent; `retest` holds the units reset during a job that have not passed
their self-test (R135), `drains` the disables in progress with their start (R508): 1024·CLASS + INSTANCE, or 0 for
RELEASE_JOB; `owed` is the function whose request is being answered, `replies` the responses that wait for the end of a disable or
enable, `badInputs` the contacts of J6 whose input is in fault (R574). -/
structure PowerSt where
  inputOn   : Bool
  inputHeld : Bool
  modEn     : Bool
  straps    : Option (BitVec 7 × BitVec 10 × Bool)
  strapBad  : Bool
  goal      : Nat
  blocked   : Bool
  recovery  : Bool
  mv        : List Nat
  ma        : List Nat
  dieTemps  : List Nat
  dieHot    : Tab Nat
  floors    : Tab Nat
  loops     : Tab Nat
  low       : Nat
  inlet     : Int
  outlet    : Int
  flow      : Nat
  inletBad  : Nat
  flowBad   : Nat
  leak      : Bool
  overV     : Nat
  overI     : Nat
  trip      : List TripCause
  absentAt  : Option Word
  refOk     : Bool
  unitOff   : Tab Nat
  retest    : List Nat
  drains    : List (Nat × Word)
  zeroAfter : Bool
  owed      : Option Nat
  replies   : List Reply
  badInputs : List Nat
deriving DecidableEq, Repr

/-- A firmware stage in a bank (R553): its SVN and header digest, and whether it verifies. -/
structure FwImg where
  svn    : Nat
  digest : BitVec 512
  good   : Bool
deriving DecidableEq, Repr

/-- The security engine (R553 to R563): measurement registers, fused minimum SVNs by type, images by 4·bank + type,
active and next bank. -/
structure SecSt where
  meas   : Tab (BitVec 512)
  fuses  : Tab Nat
  images : Tab FwImg
  active : Nat
  next   : Nat
deriving DecidableEq, Repr

/-! ### What leaves the module -/

/-- A message the module has sent. -/
inductive Tx where
  /-- A packet given to a Tenon port, or sent on the ridge when `plane` is none (R309). -/
  | pkt (p : Packet)
  /-- Flits sent on a port, first or again, or a NAK (R307). -/
  | flits (port : Nat) (nakAt : Option (BitVec 12)) (resent : List Flit)
  /-- A DELAY_REQ (R312). -/
  | delayReq (plane : Nat) (tseq : BitVec 16)
  /-- A scribe exchange (R437). -/
  | scribe (slot : Nat) (exch : BitVec 32) (entries : List (Nat × Nat × Word)) (mismatch : Bool)
  /-- A dictionary message (R487): session, TYPE, SEQ, STATUS, payload. -/
  | dict (session typ seq : Nat) (st : Status) (payload : List Byte)
  /-- A launch message to a rank (none: the launcher) (R495). -/
  | launchMsg (rank : Option Nat) (typ : Nat) (args : List Nat) (data : List Byte)
  /-- A transport DATA segment (R497). -/
  | segment (flow port : Nat) (s : SentSeg)
  /-- A transport ACK (R497): next SEG, MDONE, CREDIT, SACK. -/
  | segAck (flow next mdone credit : Nat) (sack : Word)
  /-- ANNOUNCE to link-local multicast (R487). -/
  | announce (payload : List Byte)
deriving DecidableEq, Repr

/-- The whole module: everything but the queue of waiting commands. -/
structure Block where
  clk      : ClockSt
  sync     : Tab SyncObj
  /-- Wraps of sync object counts (R204), which no entry publishes. -/
  wraps    : Nat
  seqs     : Tab Seq
  tiles    : Tab TileSt
  dies     : Tab DieSt
  plumb    : Tab SolveSt
  harts    : Tab Hart
  mem      : List Host.Cell
  ecc      : EccSt
  hbm      : Tab StackSt
  cache    : Tab (List CLine)
  coh      : CohSt
  own      : OwnSt
  fab      : FabricSt
  /-- The arbiters of the shared points (R335, R338), by point. -/
  arbs     : Tab Arb
  time     : TimeSt
  barriers : Tab BarrierSt
  scribe   : ScribeSt
  ledger   : LedgerSt
  truss    : TrussSt
  sketch   : SketchSt
  launch   : LaunchSt
  od       : Tab Nat
  chlog    : ChLogSt
  sess     : SessSt
  flows    : Tab FlowSt
  counters : CounterSt
  logs     : LogSt
  power    : PowerSt
  sec      : SecSt
  tx       : List Tx
  free     : Nat
deriving DecidableEq, Repr

/-- The machine: the module, and the commands that wait, first in, first out. -/
structure State extends Block where
  pending : List Instr
deriving DecidableEq, Repr

/-- The module when 64 V is first applied to a slot and nothing has yet happened: the always-on island in OFF-AO with
every dictionary entry at its default (R533, R537, R564), every table empty, and nothing listed in memory. -/
def Block.reset : Block where
  clk := ⟨0, 0, 0, 0⟩
  sync := []
  wraps := 0
  seqs := []
  tiles := []
  dies := []
  plumb := []
  harts := []
  mem := []
  ecc := ⟨[], [], [], [], [], []⟩
  hbm := []
  cache := []
  coh := ⟨[], [], 0, [], [], [], []⟩
  own := ⟨[], [], [], [], []⟩
  fab := ⟨[], [], [], [], [], [], [], [], [], [], [], 0, [], 0⟩
  arbs := []
  time := ⟨none, none, none, 0, 0, 0, false, 0⟩
  barriers := []
  scribe := ⟨false, [], [], [], [], 0, 0, false, 0⟩
  ledger := ⟨0, 0, false, 0, 0, 0, [], [], none, [], [], none, false⟩
  truss := ⟨[], [], []⟩
  sketch := ⟨none, none, [], 0, BitVec.allOnes 64, [], [], none⟩
  launch := ⟨false, false, 0, 0, 0, 0, 0, 0, 0, 0, 0, [], [], [], [], [], 0, [], [], false, 0, 0, [], none, false, []⟩
  od := []
  chlog := ⟨[], 0, 0, [], none⟩
  sess := ⟨[], [], 1, []⟩
  flows := []
  counters := ⟨[], [], [], false, none, none, [], [], []⟩
  logs := ⟨[], [], [], []⟩
  power := ⟨false, false, true, none, false, 0, false, false, [], [], [], [], [], [], 0, 25000, 25000, 6000, 0, 0,
    false, 0, 0, [], none, true, [], [], [], false, none, [], []⟩
  sec := ⟨[], [], [], 0, 0⟩
  tx := []
  free := 0

/-- The machine right after reset: no command waits. -/
def State.reset : State where
  toBlock := Block.reset
  pending := []

end Sys2Proof.Machine
end

