-- ==== Sys2Proof/Machine/OdTable.lean ====
section
/-! DEFINITION. The entries of the object dictionary as the chapters' tables give them: type, access, default, range,
Logged flag (R478, R505 and the tables of R135, R166, R218, R248, R301, R339, R370, R414, R446, R475, R501, R506, R532,
R564). Values are held as little-endian naturals (R14). -/

namespace Sys2Proof.Machine

open Sys2Proof

/-- The range of an entry, on its little-endian value. `special` entries are checked by their own rule. -/
inductive OdRange where
  | any
  | between (lo hi : Nat)
  | oneOf (vals : List Nat)
  | multiple (m : Nat) (hi : Nat)
  | special
deriving DecidableEq, Repr

/-- One row of the dictionary's tables: subindices `lo` to `hi` of `index`, type code and length in bytes (R478), the
roles that may read and write it (bit n is role n of R493; bit 5 the window alone; bit 6 machine-mode harts through the
window), the default, the range, the reserved bits, and Logged. -/
structure OdRow where
  index  : Nat
  lo     : Nat
  hi     : Nat
  typ    : Nat
  len    : Nat
  rd     : Nat
  wr     : Nat
  dflt   : Nat
  range  : OdRange
  resv   : Nat
  logged : Bool
deriving DecidableEq, Repr

/-- Role masks: all five (R481), and those the tables combine. -/
def rAll : Nat := 31
def rJobOp : Nat := 6
def rOpSvc : Nat := 12
def rOp : Nat := 4
def rSec : Nat := 16
def rOpSec : Nat := 20
def rJob : Nat := 2

/-- A read-only entry whose value the module puts there (R477). -/
def odRo (index lo hi typ len dflt : Nat) : OdRow :=
  ⟨index, lo, hi, typ, len, rAll, 0, dflt, .any, 0, false⟩

/-- A logged entry that all roles may read. -/
def odRw (index lo hi typ len wr dflt : Nat) (range : OdRange) : OdRow :=
  ⟨index, lo, hi, typ, len, rAll, wr, dflt, range, 0, true⟩

/-- Area 0x1000 (R506). -/
def odArea1 : List OdRow :=
  [odRo 0x1000 1 1 0x10 16 0x646e6f744f,
   odRo 0x1000 2 2 0x10 16 0x572d30323737544f,
   odRo 0x1000 3 3 0x10 16 0x303030303030303030303030,
   odRo 0x1000 4 4 0x04 4 0,
   odRo 0x1000 5 5 0x03 2 0,
   odRo 0x1000 6 6 0x02 1 0,
   odRo 0x1000 7 7 0x04 4 1,
   odRo 0x1010 1 1 0x02 1 0,
   odRw 0x1010 2 2 0x04 4 rOpSec 100 (.between 10 10000),
   odRw 0x1010 3 3 0x04 4 rOpSec 60 (.between 10 3600),
   odRo 0x1010 4 5 0x05 8 0,
   odRo 0x1020 1 1 0x05 8 0,
   odRo 0x1020 2 2 0x04 4 0,
   ⟨0x1020, 3, 3, 0x0F, 134217728, rOpSec, 0, 0, .any, 0, false⟩,
   odRw 0x1020 4 4 0x05 8 rSec 0 .special,
   ⟨0x1030, 1, 1, 0x05, 8, 32, 32, 0, .any, 0xFF00000000000000, false⟩,
   ⟨0x1030, 2, 2, 0x05, 8, 32, 32, 0, .any, 0, false⟩,
   ⟨0x1030, 3, 3, 0x02, 1, 0, 32, 0, .oneOf [1], 0, false⟩]

/-- Area 0x2000 (R506, R564). -/
def odArea2 : List OdRow :=
  [odRo 0x2000 1 1 0x0D 2 0,
   odRw 0x2000 2 2 0x0D 2 rOpSvc 0 (.oneOf [1, 2, 3, 4, 5, 6]),
   odRo 0x2000 3 4 0x0D 2 0,
   odRo 0x2000 5 5 0x01 1 0,
   odRo 0x2010 1 2 0x0A 4 0,
   odRw 0x2010 3 3 0x04 4 rOpSvc 4200 (.between 1500 4200),
   odRo 0x2010 4 4 0x04 4 4200,
   odRo 0x2010 5 5 0x0F 10 0,
   odRo 0x2010 6 6 0x05 8 0,
   ⟨0x2020, 1, 1, 0x0F, 33554432, 0, 8, 0, .special, 0, true⟩,
   odRo 0x2020 2 2 0x0F 16 0,
   odRw 0x2020 3 3 0x0F 4 rSec 0 .special,
   odRo 0x2030 1 1 0x0F 10 0,
   odRw 0x2030 2 2 0x02 1 rOpSvc 95 .special,
   odRw 0x2030 3 3 0x02 1 rOpSvc 100 .special,
   odRw 0x2030 4 4 0x02 1 rOpSvc 105 .special,
   odRo 0x2040 1 3 0x0A 4 0,
   odRo 0x2040 4 4 0x01 1 0,
   odRw 0x2050 1 1 0x04 4 rJobOp 1000 (.between 50 1000000),
   ⟨0x2100, 1, 1, 0x04, 4, 0, 14, 0, .special, 0xFC00FFE0, true⟩,
   odRw 0x2100 2 2 0x04 4 rOpSvc 2000 (.between 100 100000),
   odRo 0x2100 3 3 0x03 2 0,
   odRo 0x2101 1 1 0x0F 64 0,
   odRo 0x2101 2 4 0x0E 2 0,
   odRo 0x2101 5 5 0x0E 4 0,
   odRo 0x2101 6 6 0x01 1 0]

/-- Area 0x3000 (R301). -/
def odArea3 : List OdRow :=
  [odRw 0x3000 1 1 0x0F 384 rOpSvc 0 .special,
   odRw 0x3010 1 1 0x02 1 rOpSvc 88 .special,
   odRw 0x3010 2 2 0x02 1 rOpSvc 92 .special,
   odRw 0x3010 3 3 0x02 1 rOpSvc 96 .special,
   odRw 0x3010 4 4 0x02 1 rOpSvc 100 .special,
   odRw 0x3010 5 5 0x02 1 rOpSvc 3 (.between 1 10),
   odRo 0x3010 6 7 0x0F 16 0,
   odRw 0x3020 1 1 0x04 4 rOpSvc 86400 (.between 3600 604800),
   odRw 0x3020 2 2 0x03 2 rOpSvc 16 (.between 2 1024),
   odRo 0x3030 1 2 0x05 8 0,
   odRo 0x3030 3 6 0x04 4 0,
   odRo 0x3030 7 8 0x05 8 0,
   odRo 0x3031 1 16 0x0F 32768 0]

/-- Area 0x4000 (R135, R166, R218). -/
def odArea4 : List OdRow :=
  [odRw 0x4310 1 1 0x0D 2 rOpSvc 0 (.oneOf [0, 1]),
   odRo 0x4310 2 2 0x0D 2 1,
   odRo 0x4310 3 3 0x0E 1 1,
   odRo 0x4310 4 4 0x04 4 0,
   odRo 0x4320 1 1 0x04 4 0,
   odRw 0x4330 1 1 0x04 4 rJobOp 0 (.between 0 60000000),
   odRo 0x4330 2 2 0x0F 64 0,
   odRo 0x4330 3 3 0x05 8 0]

/-- The four threshold sets (R248): subindices 5s + 1 to 5s + 5. -/
def odThresholds (s : Nat) : List OdRow :=
  [odRw 0x5110 (5*s+1) (5*s+1) 0x0B 8 rJobOp 0x3d3c25c268497682 (.between 0 0x3ff0000000000000),
   odRw 0x5110 (5*s+2) (5*s+2) 0x0B 8 rJobOp 0x10000000000000 (.between 0 0x7e37e43c8800759c),
   odRw 0x5110 (5*s+3) (5*s+3) 0x0B 8 rJobOp 0x3e45798ee2308c3a (.between 0x10000000000000 0x7e37e43c8800759c),
   odRw 0x5110 (5*s+4) (5*s+5) 0x0B 8 rJobOp 0x3ddb7cdfd9d7bdbb (.between 0 0x3ff0000000000000)]

/-- Area 0x5000 (R248). A non-negative F64 is ordered as its bit pattern. -/
def odArea5 : List OdRow :=
  [odRw 0x5100 1 1 0x0D 2 rJobOp 16 (.oneOf [1, 2, 4, 8, 16]),
   odRw 0x5101 1 16 0x0D 2 rJobOp 0 (.oneOf [0, 1])] ++
  odThresholds 0 ++ odThresholds 1 ++ odThresholds 2 ++ odThresholds 3 ++
  [odRw 0x5120 1 1 0x0B 8 rJobOp 0x426d1a94a2000000 (.between 0x408f400000000000 0x7e37e43c8800759c),
   odRw 0x5120 2 2 0x0B 8 rJobOp 0x3eb0c6f7a0b5ed8d (.between 0x10000000000000 0x3ff0000000000000),
   odRo 0x5130 1 3 0x05 8 0]

/-- Area 0x6000 (R339, R370). -/
def odArea6 : List OdRow :=
  [odRo 0x6000 1 1 0x0F 18 0,
   odRw 0x6000 2 2 0x0F 9 rOp 0 .any,
   odRw 0x6010 2 3 0x02 1 rJobOp 4 (.between 1 255),
   odRw 0x6010 4 4 0x02 1 rJobOp 16 (.between 1 255),
   odRw 0x6010 5 5 0x02 1 rJobOp 32 (.between 1 255),
   odRw 0x6010 6 7 0x02 1 rJobOp 4 (.between 1 255),
   odRw 0x6020 1 1 0x04 4 rOpSvc 10 (.between 1 1000),
   odRw 0x6020 2 2 0x04 4 rOpSvc 100 (.between 10 10000),
   odRw 0x6020 3 3 0x04 4 rOpSvc 5000 (.between 100 1000000),
   odRo 0x6030 1 2 0x05 8 0,
   odRo 0x6030 3 4 0x04 4 0,
   odRo 0x6030 5 7 0x05 8 0,
   odRw 0x6200 1 1 0x02 1 rOpSvc 16 (.between 1 255),
   odRw 0x6200 2 2 0x02 1 rOpSvc 16 (.between 4 64),
   odRw 0x6200 3 3 0x02 1 rOpSvc 8 (.between 1 255),
   odRw 0x6200 4 4 0x02 1 rOpSvc 8 (.between 4 64),
   odRw 0x6200 5 5 0x02 1 rOpSvc 4 (.between 1 255),
   odRw 0x6200 6 6 0x02 1 rOpSvc 16 (.between 4 64),
   odRw 0x6200 7 7 0x02 1 rOpSvc 1 (.between 1 255),
   odRw 0x6200 8 8 0x02 1 rOpSvc 16 (.between 4 64),
   odRo 0x6100 1 1 0x0F 16384 0,
   odRo 0x6100 2 2 0x03 2 0,
   ⟨0x6110, 1, 1, 0x05, 8, 0, 64, 0, .any, (2^37 - 1) * 2^27, true⟩,
   ⟨0x6110, 2, 2, 0x03, 2, 64, 0, 0, .any, 0, false⟩,
   ⟨0x6110, 3, 3, 0x04, 4, 0, rJobOp, 0, .between 0 196607, 0, true⟩,
   odRo 0x6120 1 1 0x05 8 0,
   odRo 0x6120 2 2 0x04 4 0]

/-- The reserved bits of a flow entry (R496) and of a barrier entry (R427). -/
def flowResv : Nat :=
  0xFFF0 + 0xFFFF * 2^48 + 0x3FF * 2^246 + 3 * 2^270 + 3 * 2^286 + (2^176 - 1) * 2^336
def barrierResv : Nat := 0xFC + 0x3FFF * 2^18 + 3 * 2^46 + 3 * 2^62 + (2^48 - 1) * 2^80

/-- Areas 0x7000 and 0x8000 (R501, R506, R414). -/
def odArea7 : List OdRow :=
  [odRo 0x7000 1 1 0x0F 2 0,
   odRw 0x7000 2 3 0x0F 16 rOp 0 .any,
   -- 32 stands for a T1S_PLCA_ID that nothing has set: it reads SLOT mod 32.
   odRw 0x7000 4 4 0x02 1 rOpSvc 32 (.between 0 31),
   odRw 0x7000 5 5 0x01 1 rOpSec 1 (.between 0 1),
   odRw 0x7000 6 6 0x03 2 rOp 1500 (.between 1280 9000),
   odRw 0x7010 1 1 0x04 4 rJobOp 200 (.between 20 100000),
   odRw 0x7010 2 2 0x02 1 rJobOp 8 (.between 1 32),
   odRo 0x7020 1 1 0x05 8 0,
   odRo 0x7020 2 2 0x04 4 0,
   ⟨0x7100, 1, 255, 0x0F, 64, rAll, rJobOp, 0, .special, flowResv, true⟩,
   odRo 0x7101 1 1 0x0F 64 0xA,
   odRw 0x8000 1 1 0x05 8 rJobOp 0 (.multiple 131072 0x5FFFFFFFFF),
   odRo 0x8000 2 2 0x03 2 0,
   odRo 0x8000 3 3 0x03 2 256,
   odRw 0x8010 1 1 0x02 1 rJobOp 4 (.between 2 16),
   odRw 0x8010 2 2 0x04 4 rJobOp 2000 (.between 100 1000000),
   odRw 0x8010 3 3 0x02 1 rJobOp 4 (.between 1 16),
   odRw 0x8010 4 4 0x04 4 rJobOp 200 (.between 20 100000),
   odRo 0x8020 1 1 0x0F 32768 0,
   odRo 0x8030 1 4 0x05 8 0,
   odRo 0x8030 5 6 0x04 4 0,
   odRo 0x8030 7 8 0x05 8 0]

/-- Area 0x9000 (R446). -/
def odArea9 : List OdRow :=
  [odRw 0x9000 1 1 0x01 1 rJobOp 0 (.between 0 1),
   odRw 0x9000 2 2 0x05 8 rJobOp 0 .any,
   odRw 0x9000 3 3 0x05 8 rJob 0 .any,
   odRw 0x9000 4 4 0x04 4 rJobOp 12 (.between 2 1000),
   odRo 0x9000 5 5 0x05 8 0,
   odRw 0x9000 6 6 0x01 1 rJobOp 0 (.between 0 1),
   odRo 0x9000 7 7 0x05 8 0,
   ⟨0x9100, 1, 128, 0x0F, 32, rAll, rJob, 0, .special, barrierResv, true⟩,
   ⟨0x9101, 1, 128, 0x0F, 32, rAll, rJob, 0, .special, barrierResv, true⟩,
   odRw 0x9200 1 1 0x02 1 rJobOp 0xFF (.oneOf (0xFF :: List.range 72)),
   odRw 0x9200 3 3 0x05 8 rJobOp 0 (.between 0 (2^41 - 1)),
   odRw 0x9200 4 4 0x05 8 rJobOp 0 (.between 0 (2^41)),
   odRo 0x9200 5 5 0x0D 2 0,
   odRo 0x9200 6 6 0x05 8 0,
   odRw 0x9300 1 1 0x05 8 rJobOp 0 (.multiple 2097152 0x5FFFFFFFFF),
   odRw 0x9300 2 2 0x05 8 rJobOp 67108864 .special,
   odRw 0x9300 3 3 0x01 1 rJobOp 0 (.between 0 1),
   odRw 0x9300 4 4 0x0D 2 rJobOp 0 (.oneOf [0, 1]),
   odRw 0x9300 5 5 0x04 4 rOpSec 0 .any,
   odRo 0x9300 6 6 0x05 8 0,
   odRw 0x9300 7 7 0x05 8 rJobOp 0 .any,
   odRo 0x9300 8 8 0x0F 16 0,
   odRw 0x9400 1 1 0x0D 2 rOpSvc 0 (.oneOf [0, 1, 2, 3]),
   odRo 0x9400 2 2 0x0D 2 0]

/-- Area 0xA000 (R475). -/
def odAreaA : List OdRow :=
  [odRw 0xA000 1 1 0x05 8 rJobOp 0 (.multiple 8192 0x5FFFFFFFFF),
   odRo 0xA000 2 2 0x0D 2 0,
   odRw 0xA000 3 3 0x04 4 rJobOp 3750 (.between 100 6000),
   odRw 0xA010 1 1 0x0F 18 rOp 0 .any,
   odRw 0xA010 2 2 0x04 4 rOp 100 (.between 1 10000),
   odRo 0xA020 1 3 0x05 8 0,
   odRo 0xA020 4 7 0x04 4 0,
   ⟨0xA100, 1, 1, 0x0F, 8388608, 0, rOp, 0, .special, 0, true⟩,
   odRo 0xA100 2 2 0x0D 2 0,
   odRw 0xA100 3 3 0x04 4 rOp 50 (.between 10 10000),
   odRo 0xA100 4 4 0x04 4 0]

/-- Area 0xB000 (R532). Reads of COUNTER_VALUES and COUNTER_OVF by JOB fall under R517. -/
def odAreaB : List OdRow :=
  [odRw 0xB000 1 1 0x0F 23584 rJobOp 0 .special,
   odRw 0xB000 2 2 0x01 1 rOp 0 (.between 0 1),
   ⟨0xB010, 1, 1, 0x0F, 47168, 15, 0, 0, .any, 0, false⟩,
   ⟨0xB010, 2, 2, 0x0F, 737, 15, 0, 0, .any, 0, false⟩,
   odRw 0xB020 1 1 0x0C 8 rJobOp 0 .any,
   odRw 0xB020 2 2 0x05 8 rJobOp 0 (.multiple 64 (0x6000000000 - 47232)),
   odRw 0xB020 3 3 0x0D 2 rJobOp 0 (.oneOf [0, 1]),
   odRw 0xB020 4 4 0x0C 8 rJobOp 0 .special,
   odRo 0xB020 5 5 0x04 4 0,
   odRw 0xB030 1 1 0x04 4 rJobOp 0 .special,
   ⟨0xB030, 2, 2, 0x0E, 1, rAll, rJobOp, 0, .any, 0xE0, true⟩,
   odRw 0xB030 3 3 0x05 8 rJobOp 0 (.multiple 4096 0x5FFFFFFFFF),
   odRw 0xB030 4 4 0x05 8 rJobOp 0 .special,
   odRo 0xB030 5 5 0x05 8 0,
   odRw 0xB030 6 6 0x05 8 rJobOp 0 .special,
   odRo 0xB030 7 7 0x05 8 0,
   ⟨0xB040, 1, 1, 0x0F, 4194304, 28, 0, 0, .any, 0, false⟩,
   odRw 0xB040 2 2 0x04 4 rOpSvc 100 (.between 1 10000),
   odRw 0xB040 3 3 0x03 2 rOpSvc 64 (.between 1 4096),
   odRo 0xB040 4 5 0x05 8 0,
   odRo 0xB050 1 1 0x0F 8192 0,
   odRo 0xB050 2 2 0x0E 32 0,
   odRo 0xB050 3 3 0x05 8 0,
   ⟨0xB050, 4, 4, 0x03, 2, 0, rOpSvc, 0, .between 0 0x1FF, 0, true⟩]

/-- Area 0xC000 (R506, R564). -/
def odAreaC : List OdRow :=
  [odRw 0xC000 1 1 0x0F 4096 rSec 0 .special,
   odRo 0xC000 2 2 0x0F 8 0,
   odRo 0xC010 1 1 0x0F 4096 0,
   odRw 0xC010 2 8 0x0F 4096 rSec 0 .any,
   ⟨0xC011, 1, 1, 0x0E, 1, rAll, 0, 4, .any, 0xF8, false⟩,
   ⟨0xC011, 2, 8, 0x0E, 1, rAll, rSec, 0, .any, 0xF8, true⟩,
   ⟨0xC020, 1, 64, 0x0F, 16, rAll, rSec, 0, .any, (2^59 - 1) * 2^69, true⟩,
   ⟨0xC030, 1, 1, 0x0F, 64, 0, rAll, 0, .any, 0, true⟩,
   odRo 0xC030 2 2 0x0F 1216 0,
   odRo 0xC030 3 3 0x0F 512 0,
   odRo 0xC040 1 1 0x0D 2 0]

/-- The rows of the area that holds an index (R505). -/
def odArea (index : Nat) : List OdRow :=
  match index / 4096 with
  | 1 => odArea1
  | 2 => odArea2
  | 3 => odArea3
  | 4 => odArea4
  | 5 => odArea5
  | 6 => odArea6
  | 7 => odArea7
  | 8 => odArea7
  | 9 => odArea9
  | 10 => odAreaA
  | 11 => odAreaB
  | 12 => odAreaC
  | _ => []

/-- Whether a row holds an entry. -/
def OdRow.holds (r : OdRow) (index sub : Nat) : Bool :=
  r.index == index && decide (r.lo ≤ sub) && decide (sub ≤ r.hi)

/-- The row of an entry; none when the entry does not exist (R476). -/
def odRow (index sub : Nat) : Option OdRow :=
  (odArea index).find? (fun r => r.holds index sub)

/-- The highest subindex in use of an index (R476). -/
def odHighest (index : Nat) : Nat :=
  (odArea index).foldl (fun m r => if r.index = index ∧ m < r.hi then r.hi else m) 0

/-- The default of an entry. -/
def odDefault (index sub : Nat) : Nat :=
  match odRow index sub with
  | some r => r.dflt
  | none => 0

end Sys2Proof.Machine
end

