-- ==== Sys2Proof/Machine/Ops.lean ====
section
/-! DEFINITION. How a command acts on the module; sparse tables, byte strings, bit fields, the memory list, and the plainest accessors
of the state. -/

namespace Sys2Proof.Machine

open Sys2Proof

/-- A command's effect: on the module alone, the waiting commands as they were. -/
def onBlock (s : State) (f : Block → Host.Outcome Block Fault Refusal) : Host.Outcome State Fault Refusal :=
  match f s.toBlock with
  | .next b => .next { s with toBlock := b }
  | .fault r => .fault r
  | .refused r => .refused r

/-! ### Sparse tables: keys rise strictly, and no entry holds the default -/

/-- Read a table; an unlisted key reads as `d`. -/
def tget {α : Type} (d : α) : List (Nat × α) → Nat → α
  | [], _ => d
  | (k, v) :: t, i => if k = i then v else tget d t i

/-- Every entry of a key taken out. -/
def tdel {α : Type} : List (Nat × α) → Nat → List (Nat × α)
  | [], _ => []
  | (k, v) :: t, i => if k = i then tdel t i else (k, v) :: tdel t i

/-- An entry put before the first key that is not below its own. -/
def tins {α : Type} : List (Nat × α) → Nat → α → List (Nat × α)
  | [], i, v => [(i, v)]
  | (k, w) :: t, i, v => if k < i then (k, w) :: tins t i v else (i, v) :: (k, w) :: t

/-- Write a table, keeping its keys rising; writing the default removes the entry. -/
def tset {α : Type} [DecidableEq α] (d : α) (t : List (Nat × α)) (i : Nat) (v : α) : List (Nat × α) :=
  if v = d then tdel t i else tins (tdel t i) i v

/-- Keys rise strictly from `lo` and no entry is the default. -/
def tabOk {α : Type} [DecidableEq α] (d : α) : Nat → List (Nat × α) → Bool
  | _, [] => true
  | lo, (k, v) :: t => decide (lo ≤ k) && decide (v ≠ d) && tabOk d (k + 1) t

/-- Drop the entries whose key lies in a range. -/
def tclear {α : Type} (t : List (Nat × α)) (lo hi : Nat) : List (Nat × α) :=
  t.filter (fun e => decide (e.1 < lo) || decide (hi ≤ e.1))

/-! ### Bits and bytes (R13, R14) -/

/-- Bits [lo + n - 1 : lo] of a value. -/
def bits (v lo n : Nat) : Nat := (v >>> lo) % 2 ^ n

/-- Bit `k` of a value. -/
def bit (v k : Nat) : Bool := (v >>> k) % 2 == 1

/-- Replace bits [lo + n - 1 : lo]. -/
def setBits (v lo n x : Nat) : Nat :=
  v % 2 ^ lo + (x % 2 ^ n) * 2 ^ lo + (v >>> (lo + n)) * 2 ^ (lo + n)

/-- Set or clear one bit. -/
def setBit (v k : Nat) (b : Bool) : Nat := setBits v k 1 (if b then 1 else 0)

/-- Two's-complement reading of the low `n` bits. -/
def sx (n v : Nat) : Int :=
  let w := v % 2 ^ n
  if w < 2 ^ (n - 1) then (w : Int) else (w : Int) - (2 ^ n : Nat)

/-- Two's-complement writing in `n` bits. -/
def wrapInt (n : Nat) (z : Int) : Nat := (z % ((2 ^ n : Nat) : Int)).toNat

/-- `n` bytes of a value, least significant first. -/
def natLe : Nat → Nat → List Byte
  | 0, _ => []
  | n + 1, v => BitVec.ofNat 8 v :: natLe n (v >>> 8)

/-- The value of bytes, least significant first. -/
def leNat : List Byte → Nat
  | [] => 0
  | b :: t => b.toNat + 256 * leNat t

/-- Zero-pad to `n` bytes. -/
def padTo (n : Nat) (l : List Byte) : List Byte := l ++ List.replicate (n - l.length) 0

/-- `n` bytes of a list from `off`, with zero beyond its end. -/
def slice (l : List Byte) (off n : Nat) : List Byte := padTo n ((l.drop off).take n)

/-- Smallest multiple of `m` at or above `n`. -/
def roundUp (m n : Nat) : Nat := (n + m - 1) / m * m

/-! ### Memory: byte pairs in rising order, an unlisted byte reads zero (R5, R273) -/

/-- What an unlisted address reads as: zero (R273; before the first job assignment DESIGN CHOICE). -/
def memDefault : Byte := 0

/-- The canonical form of memory: addresses rise strictly, and no entry is zero. -/
abbrev Memory.wf (m : List Host.Cell) : Bool := tabOk memDefault 0 m

/-- Read one byte of a memory. -/
def Memory.byte (m : List Host.Cell) (a : Nat) : Byte := tget memDefault m a

/-- Write one byte of a memory. -/
def Memory.set (m : List Host.Cell) (a : Nat) (b : Byte) : List Host.Cell := tset memDefault m a b

/-- Write a byte string from address `a` up. -/
def Memory.write (m : List Host.Cell) : Nat → List Byte → List Host.Cell
  | _, [] => m
  | a, b :: t => Memory.write (Memory.set m a b) (a + 1) t

/-- Read `n` bytes from `a` up. -/
def Memory.read (m : List Host.Cell) : Nat → Nat → List Byte
  | _, 0 => []
  | a, n + 1 => Memory.byte m a :: Memory.read m (a + 1) n

/-- Set every byte of a range to zero. -/
def Memory.zero (m : List Host.Cell) (lo hi : Nat) : List Host.Cell := tclear m lo hi

/-- Read one byte at a module-local address. -/
def memByte (s : Block) (a : Nat) : Byte := Memory.byte s.mem a
/-- Read bytes at a module-local address. -/
def memRead (s : Block) (a n : Nat) : List Byte := Memory.read s.mem a n
/-- Read a little-endian value of `n` bytes. -/
def memLe (s : Block) (a n : Nat) : Nat := leNat (memRead s a n)
/-- Write bytes at a module-local address. -/
def memWrite (s : Block) (a : Nat) (bs : List Byte) : Block := { s with mem := Memory.write s.mem a bs }
/-- Clear a range of memory. -/
def memZero (s : Block) (lo hi : Nat) : Block := { s with mem := Memory.zero s.mem lo hi }

/-! ### The clock -/

/-- Hall time (R18). -/
def hallNow (s : Block) : Word := s.clk.hall
/-- Hall time as a number. -/
def hallNat (s : Block) : Nat := s.clk.hall.toNat

/-! ### Entries of the dictionary as values -/

/-- The key of an entry. -/
def odKey (index sub : Nat) : Nat := index * 256 + sub

/-- The value an entry holds, as a little-endian natural. -/
def odNat (s : Block) (index sub : Nat) : Nat := tget (odDefault index sub) s.od (odKey index sub)

/-- Whether a BOOL or ENUM entry is 1. -/
def odOn (s : Block) (index sub : Nat) : Bool := odNat s index sub == 1

/-- Store an entry's value, with no other effect. -/
def odRaw (s : Block) (index sub v : Nat) : Block :=
  { s with od := tset (odDefault index sub) s.od (odKey index sub) v }

/-- Mark the on-change subscriptions to an entry (R491). -/
def markSubs (s : Block) (index sub : Nat) : Block :=
  { s with sess := { s.sess with table := s.sess.table.map (fun e =>
      (e.1, { e.2 with subs := e.2.subs.map (fun q =>
        if q.index = index ∧ q.sub = sub ∧ q.periodic = false then { q with pending := true } else q) })) } }

/-- The module changes an entry: the value is stored and on-change subscribers are notified. -/
def odPut (s : Block) (index sub v : Nat) : Block := markSubs (odRaw s index sub v) index sub

/-- Bytes an entry holds. -/
def odLen (index sub : Nat) : Nat :=
  match odRow index sub with
  | some r => r.len
  | none => 0

/-- Add to a count entry, modulo its width. -/
def odBump (s : Block) (index sub n : Nat) : Block :=
  odPut s index sub ((odNat s index sub + n) % 2 ^ (8 * odLen index sub))

/-- One byte of an OCTETS entry. -/
def odByte (s : Block) (index sub k : Nat) : Nat := bits (odNat s index sub) (8 * k) 8
/-- Set one byte of an OCTETS entry. -/
def odSetByte (s : Block) (index sub k v : Nat) : Block :=
  odPut s index sub (setBits (odNat s index sub) (8 * k) 8 v)
/-- Set one bit of a BITMAP entry. -/
def odSetBit (s : Block) (index sub k : Nat) (b : Bool) : Block :=
  odPut s index sub (setBit (odNat s index sub) k b)

/-! ### Frequent settings -/

/-- The module's rack slot (OD 0x1000.06). -/
def ownSlot (s : Block) : Nat := odNat s 0x1000 6 % 128
/-- The module's rack (OD 0x1000.05). -/
def ownRack (s : Block) : Nat := odNat s 0x1000 5 % 1024
/-- The home epoch (OD 0x1000.07, R327). -/
def homeEpoch (s : Block) : Nat := odNat s 0x1000 7
/-- The step counter N (OD 0x9000.03). -/
def stepCounter (s : Block) : Nat := odNat s 0x9000 3
/-- Strict mode (OD 0x9000.01). -/
def strictOn (s : Block) : Bool := odOn s 0x9000 1
/-- POWER_STATE: 0 OFF-AO, 1 STANDBY, 2 READY, 3 RUN (R533). -/
def powerState (s : Block) : Nat := odNat s 0x2000 1
/-- A job is assigned to the module (R2): RUN. -/
def jobAssigned (s : Block) : Bool := powerState s == 3

/-! ### Table accessors with their defaults -/

/-- A sync object at reset (R203). -/
def sync0 : SyncObj := ⟨0, false⟩
def syncAt (s : Block) (i : Nat) : SyncObj := tget sync0 s.sync i
def syncPut (s : Block) (i : Nat) (o : SyncObj) : Block := { s with sync := tset sync0 s.sync i o }

/-- A sequencer at reset: n = 0 and RUNNING (R192). -/
def seq0 : Seq := ⟨0, true, true, none, [], []⟩
def seqAt (s : Block) (q : Nat) : Seq := tget seq0 s.seqs q
def seqPut (s : Block) (q : Nat) (x : Seq) : Block := { s with seqs := tset seq0 s.seqs q x }

/-- A weight copy at reset: invalid (R91). -/
def weights0 : WeightSet := ⟨false, false, 0, false, false, none, [], 0, 0, [], []⟩
/-- An empty bank (R83). -/
def bank0 : Bank := ⟨true, [], 0, none, none⟩
/-- A tile at reset. `phys` is the physical tile it runs on: exposed tiles carry their own number before self-test. -/
def tile0 : TileSt := ⟨some 0, none, weights0, weights0, none, bank0, bank0, none, ⟨false, 0, 0, 0, 0⟩, 0, 0⟩
def tileAt (s : Block) (t : Nat) : TileSt := tget tile0 s.tiles t
def tilePut (s : Block) (t : Nat) (x : TileSt) : Block := { s with tiles := tset tile0 s.tiles t x }

/-- The spares of a die before self-test (R25). -/
def die0 : DieSt := ⟨0, 0, 0⟩
def dieAt (s : Block) (d : Nat) : DieSt := tget die0 s.dies d
def diePut (s : Block) (d : Nat) (x : DieSt) : Block := { s with dies := tset die0 s.dies d x }

/-- Send a message: it joins what has left the module. -/
def emit (s : Block) (m : Tx) : Block := { s with tx := s.tx ++ [m] }

/-- The next free value's number: each draw advances the counter. -/
def freeNext (s : Block) : Nat × Block := (s.free, { s with free := s.free + 1 })

/-- A unit to which work comes is powered (R35). -/
def wakeUnit (s : Block) (u : Nat) : Block := { s with power := { s.power with unitOff := tset 0 s.power.unitOff u 0 } }

end Sys2Proof.Machine
end

