-- ==== Sys2Proof/Machine/Digest.lean ====
section
/-! DEFINITION. The digests of the module: CRC-64 (R395), SHA-512 (FIPS 180-4, R9), the counter-based draw (R422) and the
swatch arithmetic (R424). -/

namespace Sys2Proof.Machine

open Sys2Proof

/-! ### CRC-64 (R395): reflected ECMA-182 polynomial, initial value and final XOR all ones -/

/-- The polynomial 0x42F0E1EBA9EA3693 reflected. -/
def crcPoly : Nat := 0xC96C5795D7870F42

/-- Shift out `n` bits. -/
def crcShift : Nat → Nat → Nat
  | 0, c => c
  | n + 1, c => crcShift n (if c % 2 = 1 then (c >>> 1) ^^^ crcPoly else c >>> 1)

/-- Take in one byte. -/
def crcByte (c : Nat) (b : Byte) : Nat := crcShift 8 (c ^^^ b.toNat)

/-- The register before the first byte. -/
def crcInit : Nat := 2 ^ 64 - 1

/-- Continue a running CRC over more bytes; the register is kept without the final XOR. -/
def crcMore (c : Nat) (bs : List Byte) : Nat := bs.foldl crcByte c

/-- The CRC-64 of a byte string. -/
def crc64 (bs : List Byte) : Nat := crcMore crcInit bs ^^^ (2 ^ 64 - 1)

/-! ### SHA-512 (FIPS 180-4, which R9 names) -/

/-- The primes up to 409, which are the first eighty. -/
def shaPrimes : List Nat :=
  (List.range 410).filter (fun n => decide (2 ≤ n) && (List.range n).all (fun d => decide (d < 2) || n % d != 0))

/-- The largest number, of the bits below bit `k` added to `r`, whose n-th power is at most `x`. -/
def rootFloor (n x : Nat) : Nat → Nat → Nat
  | 0, r => r
  | k + 1, r => rootFloor n x k (if (r + 2 ^ k) ^ n ≤ x then r + 2 ^ k else r)

/-- The first 64 bits of the fraction of the n-th root of `p`. -/
def rootFraction (n p : Nat) : Word := BitVec.ofNat 64 (rootFloor n (p * 2 ^ (64 * n)) 70 0)

/-- The working variables, and the chaining value. -/
structure ShaVars where
  a : Word
  b : Word
  c : Word
  d : Word
  e : Word
  f : Word
  g : Word
  h : Word
deriving DecidableEq, Repr

/-- Initial hash value: the square roots of the first eight primes. -/
def shaInit : ShaVars :=
  let r := fun k => rootFraction 2 (shaPrimes.getD k 0)
  ⟨r 0, r 1, r 2, r 3, r 4, r 5, r 6, r 7⟩

def shaPlus (x y : ShaVars) : ShaVars :=
  ⟨x.a + y.a, x.b + y.b, x.c + y.c, x.d + y.d, x.e + y.e, x.f + y.f, x.g + y.g, x.h + y.h⟩

/-- Three rotations of a word, or two and a shift, together. -/
def shaBig (x : Word) (i j k : Nat) : Word := x.rotateRight i ^^^ x.rotateRight j ^^^ x.rotateRight k
def shaSmall (x : Word) (i j k : Nat) : Word := x.rotateRight i ^^^ x.rotateRight j ^^^ (x >>> k)

/-- A step takes the oldest of the sixteen message words `w`; `k` is its constant. -/
def shaStep (k w : Word) (v : ShaVars) : ShaVars :=
  let t := v.h + shaBig v.e 14 18 41 + (v.g ^^^ (v.e &&& (v.f ^^^ v.g))) + k + w
  ⟨t + shaBig v.a 28 34 39 + ((v.a &&& (v.b ||| v.c)) ||| (v.b &&& v.c)), v.a, v.b, v.c, v.d + t, v.e, v.f, v.g⟩

/-- The steps of a block: the sixteen words move on by one each time. -/
def shaSteps : List Word → List Word → ShaVars → ShaVars
  | [], _, v => v
  | k :: ks, ws, v =>
    let w := fun i => ws.getD i 0
    shaSteps ks (ws.tail ++ [w 0 + shaSmall (w 1) 1 8 7 + w 9 + shaSmall (w 14) 19 61 6]) (shaStep k (w 0) v)

/-- Take in one block of 128 bytes, with the cube roots of the eighty primes as constants. -/
def shaTake (v : ShaVars) (blk : List Byte) : ShaVars :=
  shaPlus v (shaSteps (shaPrimes.map (rootFraction 3))
    ((List.range 16).map (fun i => BitVec.ofNat 64 (leNat (slice blk (8 * i) 8).reverse))) v)

/-- A message, a bit 1, zeros, and its length in bits as 16 bytes: whole blocks. -/
def shaMessage (bs : List Byte) : List Byte :=
  bs ++ 0x80 :: List.replicate ((239 - bs.length % 128) % 128) 0 ++ (natLe 16 (8 * bs.length)).reverse

/-- SHA-512 as 64 bytes. -/
def sha512Bytes (bs : List Byte) : List Byte :=
  let m := shaMessage bs
  let v := (List.range (m.length / 128)).foldl (fun v i => shaTake v (slice m (128 * i) 128)) shaInit
  [v.a, v.b, v.c, v.d, v.e, v.f, v.g, v.h].flatMap (fun x => (natLe 8 x.toNat).reverse)

/-- SHA-512 as the value its bytes have in memory order (R14). -/
def sha512 (bs : List Byte) : BitVec 512 := BitVec.ofNat 512 (leNat (sha512Bytes bs))

/-! ### The counter-based draw (R422) -/

/-- Rotate a 32-bit word left. -/
def rol32 (x n : Nat) : Nat := ((x <<< n) % 2 ^ 32) ||| (x >>> (32 - n))

/-- The state of a draw. -/
structure DrawSt where
  x0 : Nat
  x1 : Nat
  x2 : Nat
  x3 : Nat
deriving DecidableEq, Repr

/-- Rounds r to 3 of the draw. -/
def drawRounds (k : List Nat) : List (Nat × Nat × Nat × Nat × Nat) → DrawSt → DrawSt
  | [], d => d
  | (r, a, b, c, e) :: t, d =>
    let m := fun v => v % 2 ^ 32
    let key := fun i => k.getD ((r + i) % 4) 0
    let x0 := m (d.x0 + key 0)
    let x1 := m (d.x1 + key 1)
    let x2 := m (d.x2 + key 2)
    let x3 := m (d.x3 + key 3 + r)
    let x0 := m (x0 + x1)
    let x1 := rol32 x1 a ^^^ x0
    let x2 := m (x2 + x3)
    let x3 := rol32 x3 b ^^^ x2
    let x0 := m (x0 + x3)
    let x3 := rol32 x3 c ^^^ x0
    let x2 := m (x2 + x1)
    let x1 := rol32 x1 e ^^^ x2
    drawRounds k t ⟨x0, x1, x2, x3⟩

/-- The 64-bit draw of job seed S, step N, tensor identifier T, site and element index (R422). -/
def draw (S N T site i : Nat) : Nat :=
  let k0 := bits S 0 32
  let k1 := bits S 32 32
  let k2 := bits N 32 32
  let k3 := k0 ^^^ k1 ^^^ k2 ^^^ 0x1BD11BDA
  let d := drawRounds [k0, k1, k2, k3]
    [(0, 13, 19, 5, 25), (1, 17, 11, 14, 3), (2, 26, 23, 21, 16), (3, 7, 29, 9, 12)]
    ⟨bits i 0 32, (bits i 32 16 + site * 2 ^ 16) % 2 ^ 32, T % 2 ^ 32, bits N 0 32⟩
  let y0 := (d.x0 + k0) % 2 ^ 32
  let y1 := (d.x1 + k1) % 2 ^ 32
  let y2 := (d.x2 + k2) % 2 ^ 32
  let y3 := (d.x3 + k3 + 4) % 2 ^ 32
  (y1 ^^^ y3) * 2 ^ 32 + (y0 ^^^ y2)

/-! ### Swatches (R424) -/

/-- The prime 2^64 - 59 and the base z. -/
def swatchP : Nat := 2 ^ 64 - 59
def swatchZ : Nat := 0x9E3779B97F4A7C15

/-- x^n modulo the prime, by the bits of `n` (`fuel` bits). -/
def powMod : Nat → Nat → Nat → Nat
  | 0, _, _ => 1
  | fuel + 1, x, n =>
    let h := powMod fuel (x * x % swatchP) (n / 2)
    if n % 2 = 1 then x * h % swatchP else h

/-- The contribution of one element word at linear index `i`. -/
def swatchTerm (w i : Nat) : Nat := (w % swatchP + 1) * powMod 64 swatchZ (i + 1) % swatchP

end Sys2Proof.Machine
end

