-- ==== Sys2Proof/Machine/Flags.lean ====
section
/-! DEFINITION. The numeric values of status codes (R511), event codes (R515) and unit numbers (R512). -/

namespace Sys2Proof.Machine

open Sys2Proof

/-- The value of a status code in records, responses and mtval (R511). -/
def statusCode : Status → Nat
  | .ok => 0x0000
  | .malformed => 0x0001
  | .badAddress => 0x0002
  | .aborted => 0x0003
  | .nonfinite => 0x0004
  | .unitReset => 0x0005
  | .noHalt => 0x0006
  | .waitTimeout => 0x0007
  | .layoutInvalid => 0x0008
  | .layoutOverlap => 0x0009
  | .stageShort => 0x000A
  | .odNoEntry => 0x0101
  | .odAccess => 0x0102
  | .odType => 0x0103
  | .odRange => 0x0104
  | .odState => 0x0105
  | .auditFull => 0x0106
  | .session => 0x0107
  | .odTimeout => 0x0108
  | .memUncorrectable => 0x0301
  | .pageRetired => 0x0302
  | .mapUnbalanced => 0x0303
  | .mapBusy => 0x0304
  | .tileAbsent => 0x0401
  | .scaleInvalid => 0x0402
  | .scaleRange => 0x0403
  | .accLimit => 0x0404
  | .formatPair => 0x0405
  | .blockShape => 0x0406
  | .weightsInvalid => 0x0407
  | .scaleMismatch => 0x0408
  | .splitPair => 0x0409
  | .splitMix => 0x040A
  | .splitIncomplete => 0x040B
  | .splitRange => 0x040C
  | .keepMismatch => 0x040D
  | .stencilTable => 0x040E
  | .glazeProgram => 0x040F
  | .maskCount => 0x0410
  | .glazeTable => 0x0411
  | .indexRange => 0x0412
  | .tileReplaced => 0x0413
  | .regularised => 0x0501
  | .deadline => 0x0502
  | .deadlineMid => 0x0503
  | .qpMaxiter => 0x0504
  | .qpInfeasible => 0x0505
  | .plumbDesc => 0x0506
  | .notStarted => 0x0507
  | .plumbBusy => 0x0508
  | .outcomeUnknown => 0x0601
  | .fabricTimeout => 0x0602
  | .barrierTimeout => 0x0603
  | .unreachable => 0x0604
  | .peerDenied => 0x0605
  | .regionOwned => 0x0606
  | .regionLost => 0x0607
  | .ownFull => 0x0608
  | .ownDenied => 0x0609
  | .flowFailed => 0x0701
  | .memberLost => 0x0801
  | .corruptSource => 0x0802
  | .resendLimit => 0x0803
  | .orderMismatch => 0x0804
  | .formMismatch => 0x0805
  | .groupInvalid => 0x0806
  | .groupState => 0x0807
  | .noContext => 0x0808
  | .collDesc => 0x0809
  | .nondet => 0x0901
  | .scribeHalt => 0x0902
  | .replayDiverged => 0x0903
  | .barrierBusy => 0x0904
  | .sketchDesc => 0x0A01
  | .sketchBusy => 0x0A02
  | .sketchArea => 0x0A03
  | .sketchAbandoned => 0x0A04
  | .restoreShape => 0x0A05
  | .restoreIncomplete => 0x0A06
  | .launchVerify => 0x0A07
  | .launchAborted => 0x0A08

/-- Every status code, in the order of R511. -/
def statusList : List Status :=
  [.ok, .malformed, .badAddress, .aborted, .nonfinite, .unitReset, .noHalt, .waitTimeout, .layoutInvalid, .layoutOverlap, .stageShort, .odNoEntry, .odAccess, .odType, .odRange, .odState, .auditFull, .session, .odTimeout, .memUncorrectable, .pageRetired, .mapUnbalanced, .mapBusy, .tileAbsent, .scaleInvalid, .scaleRange, .accLimit, .formatPair, .blockShape, .weightsInvalid, .scaleMismatch, .splitPair, .splitMix, .splitIncomplete, .splitRange, .keepMismatch, .stencilTable, .glazeProgram, .maskCount, .glazeTable, .indexRange, .tileReplaced, .regularised, .deadline, .deadlineMid, .qpMaxiter, .qpInfeasible, .plumbDesc, .notStarted, .plumbBusy, .outcomeUnknown, .fabricTimeout, .barrierTimeout, .unreachable, .peerDenied, .regionOwned, .regionLost, .ownFull, .ownDenied, .flowFailed, .memberLost, .corruptSource, .resendLimit, .orderMismatch, .formMismatch, .groupInvalid, .groupState, .noContext, .collDesc, .nondet, .scribeHalt, .replayDiverged, .barrierBusy, .sketchDesc, .sketchBusy, .sketchArea, .sketchAbandoned, .restoreShape, .restoreIncomplete, .launchVerify, .launchAborted]

/-- The status a value names; unlisted values are reserved and read as ST_MALFORMED. -/
def statusOf (v : Nat) : Status := (statusList.find? (fun c => statusCode c == v)).getD .malformed

/-- Role numbers of R493. -/
def roleNum : Role → Nat
  | .observer => 0
  | .job => 1
  | .operator => 2
  | .service => 3
  | .security => 4

/-- The role a number names. -/
def roleOf : Nat → Option Role
  | 0 => some .observer
  | 1 => some .job
  | 2 => some .operator
  | 3 => some .service
  | 4 => some .security
  | _ => none

/-- Path numbers of R502. -/
def pathNum : Path → Nat
  | .t1s => 0
  | .e0 => 1
  | .e1 => 2
  | .window => 3
  | .module => 4

/-! ### Unit numbers (R512) -/

def unitTile (t : Nat) : Nat := t
def unitHart (h : Nat) : Nat := 512 + h
def unitPlumb (c : Nat) : Nat := 608 + c
def unitSlice (d : Nat) : Nat := 672 + d
def unitHbm (k : Nat) : Nat := 676 + k
def unitPort (p : Nat) : Nat := 692 + p
def unitEth (p : Nat) : Nat := 710 + p
def unitTruss (e : Nat) : Nat := 712 + e
def unitSketch : Nat := 728
def unitSync : Nat := 729
def unitTime : Nat := 736
/-- Names no unit: the module as a whole. -/
def unitNone : Nat := 0xFFFF

/-- The class of a unit, in the order of R515's table; 12 for no unit. -/
def unitClass (u : Nat) : Nat :=
  if u < 512 then 0 else if u < 608 then 1 else if u < 672 then 2 else if u < 676 then 3
  else if u < 692 then 4 else if u < 710 then 5 else if u < 712 then 6 else if u < 728 then 7
  else if u = 728 then 8 else if u = 729 then 9 else if u < 736 then 10 else if u = 736 then 11 else 12

/-- The highest event code that R515 lists for a class. -/
def classEvents (c : Nat) : Nat :=
  match c with
  | 0 => 9 | 1 => 4 | 2 => 3 | 3 => 5 | 4 => 5 | 5 => 4 | 6 => 3 | 7 => 3 | 8 => 3 | 9 => 3 | 10 => 2 | 11 => 3
  | _ => 0

/-- Whether an event code is one that R515 lists for a class: code 0, the class's own, vendor codes and cycles. -/
def eventListed (c code : Nat) : Bool :=
  decide (code ≤ classEvents c) || decide (0x300 ≤ code)

/-- Events marked Logged in R515. -/
def eventLogged (c code : Nat) : Bool :=
  [(0, 9), (1, 4), (2, 3), (3, 5), (4, 5), (5, 4), (6, 3), (7, 2), (8, 3), (9, 3), (11, 3)].contains (c, code)

end Sys2Proof.Machine
end

