-- ==== Sys2Proof/Machine/Access.lean ====
section
/-! DEFINITION. Addresses, their physical places, and what a home checks before an access: mapped ranges (R271, R272),
ownership (R350, R356), retired pages (R298), bad words (R291, R292, R582), the sketch area (R460). -/

namespace Sys2Proof.Machine

open Sys2Proof

/-! ### The map (R271) -/

/-- What a module-local address names. -/
inductive Place where
  | hbm
  | scratch (tile off : Nat)
  | plumb
  | plumbTable
  | window
  | unmapped
deriving DecidableEq, Repr

/-- First address of the scratchpad window of a tile. -/
def scratchBase (t : Nat) : Nat := 0x10000000000 + t * 0x800000
/-- First address of the Plumb local stores and of the Plumb stream tables. -/
def plumbBase : Nat := 0x11000000000
def plumbTableBase : Nat := 0x11004000000
/-- First address of the dictionary window. -/
def windowBase : Nat := 0x1F000000000
/-- One past the last HBM address. -/
def hbmEnd : Nat := 0x6000000000

/-- The place of a module-local address. -/
def placeOf (a : Nat) : Place :=
  if a < hbmEnd then .hbm
  else if 0x10000000000 ≤ a ∧ a < 0x10100000000 then
    .scratch ((a - 0x10000000000) / 0x800000) (a % 0x800000)
  else if plumbBase ≤ a ∧ a < plumbBase + 0x4000000 then .plumb
  else if plumbTableBase ≤ a ∧ a < plumbTableBase + 0x20000 then .plumbTable
  else if windowBase ≤ a ∧ a < windowBase + 0x8000000 then .window
  else .unmapped

/-- A tile number without a physical tile (R25, R26). -/
def tileAbsent (s : Block) (t : Nat) : Bool := (tileAt s t).phys.isNone

/-- Whether memory stands at an address: HBM, a populated scratchpad of a present tile, a Plumb store (R216, R271). -/
def populated (s : Block) (a : Nat) : Bool :=
  match placeOf a with
  | .hbm => true
  | .scratch t off => decide (off < 0x600000) && !tileAbsent s t
  | .plumb => true
  | .plumbTable => true
  | .window => false
  | .unmapped => false

/-- The slot field of a rack physical address (R251) and its module-local part. -/
def rackSlot (a : Nat) : Nat := bits a 41 7
def rackLocal (a : Nat) : Nat := a % 2 ^ 41
/-- The rack address of a module-local address of slot `d`. -/
def rackAddr (d a : Nat) : Nat := d * 2 ^ 41 + a % 2 ^ 41
/-- An own address as a rack address. -/
def ownAddr (s : Block) (a : Nat) : Nat := rackAddr (ownSlot s) a
/-- Whether a rack address is local. -/
def isOwn (s : Block) (a : Nat) : Bool := rackSlot a == ownSlot s && decide (a < 2 ^ 48)

/-- Whether `[a, a + n)` is own HBM; own scratchpad of tile `t`; either (R197). -/
def inHbm (a n : Nat) : Bool := decide (a + n ≤ hbmEnd)
def inScratch (t a n : Nat) : Bool := decide (scratchBase t ≤ a) && decide (a + n ≤ scratchBase t + 0x600000)

/-- Number of the 128-byte line that holds a module-local address. -/
def lineOf (a : Nat) : Nat := a / 128

/-- The lines that `[a, a + n)` touches. -/
def linesOf (a n : Nat) : List Nat :=
  if n = 0 then [] else (List.range ((a + n - 1) / 128 + 1 - a / 128)).map (fun k => a / 128 + k)

/-! ### Pseudo-channels (R274 to R277) -/

/-- Interleave byte of a region. -/
def regionMode (s : Block) (r : Nat) : Nat := odByte s 0x3000 1 r

/-- Pseudo-channel of an HBM address (R275, R276). -/
def channelOf (s : Block) (a : Nat) : Nat :=
  let m := regionMode s (a >>> 30)
  if m < 0x10 then bits a 8 9 ^^^ bits a 17 9
  else 128 * (m - 0x10) + (bits a 8 7 ^^^ bits a 15 7)

/-- Frames of 2 MiB that a region takes on a pseudo-channel (R277). -/
def framesOn (s : Block) (p r : Nat) : Nat :=
  let m := regionMode s r
  if m < 0x10 then 1 else if m - 0x10 = p / 128 then 4 else 0

/-- Frames on a pseudo-channel below a region, ascending by region number (R277). -/
def framesBelow (s : Block) (p : Nat) : Nat → Nat
  | 0 => 0
  | r + 1 => framesBelow s p r + framesOn s p r

/-- Place of an HBM address on its pseudo-channel. -/
def physOf (s : Block) (a : Nat) : Nat :=
  let r := a >>> 30
  let m := regionMode s r
  let f := framesBelow s (channelOf s a) r * 0x200000
  if m < 0x10 then f + bits a 17 13 * 256 + a % 256 else f + bits a 15 15 * 256 + a % 256

/-- The device page of an HBM address (R298). -/
def pageOf (s : Block) (a : Nat) : RetPage := ⟨channelOf s a, physOf s a / 4096⟩

/-- Stack and base die of an HBM address (R22, R274). -/
def stackOf (s : Block) (a : Nat) : Nat := channelOf s a / 32
def dieOf (s : Block) (a : Nat) : Nat := channelOf s a / 128

/-- Base die whose slice or scratchpads hold a module-local address; 4 for PD (R23, R419). -/
def homeDie (s : Block) (a : Nat) : Nat :=
  match placeOf a with
  | .hbm => dieOf s a
  | .scratch t _ => t / 128
  | _ => 4

/-! ### Bad words and retired pages -/

/-- Bytes of an ECC word: 32 in HBM, 16 elsewhere (R289, R582). -/
def eccWord (a : Nat) : Nat := if a < hbmEnd then 32 else 16

/-- Words marked bad are held as numbers of 16-byte units. -/
def unitBad (s : Block) (w : Nat) : Bool := s.ecc.badWords.contains w

/-- Whether a word of `[a, a + n)` is bad: a read of words whose marks a write has cleared meets no check pattern (R291, R292). -/
def wordsBad (s : Block) (a n : Nat) : Bool := s.ecc.badWords.any (fun w => decide (16 * w < a + n) && decide (a < 16 * w + 16))

/-- Whether a word of a 128-byte line is bad. -/
def lineBad (s : Block) (line : Nat) : Bool := s.ecc.badWords.any (fun w => w / 8 == line)

/-- Whether a write of `[a, a + n)` changes part of a bad ECC word and leaves part of it (R292). -/
def partialBad (s : Block) (a n : Nat) : Bool :=
  s.ecc.badWords.any (fun w =>
    let sz := eccWord (16 * w)
    let lo := 16 * w / sz * sz
    let meets := decide (a < lo + sz) && decide (lo < a + n)
    let covers := decide (a ≤ lo) && decide (lo + sz ≤ a + n)
    meets && !covers)

/-- A write clears the marks of the words it replaces whole (R292). -/
def clearBad (s : Block) (a n : Nat) : Block :=
  { s with ecc := { s.ecc with badWords := s.ecc.badWords.filter (fun w =>
      let sz := eccWord (16 * w)
      let lo := 16 * w / sz * sz
      (decide (lo < a) || decide (a + n < lo + sz))) } }

/-- Mark every word of a line bad (R291, R582). -/
def markBad (s : Block) (line : Nat) : Block :=
  let keep := s.ecc.badWords.filter (fun w => w / 8 != line)
  { s with ecc := { s.ecc with badWords := keep ++ (List.range 8).map (fun k => 8 * line + k) } }

/-- Whether an address lies in a retired page (R298). -/
def retiredAt (s : Block) (a : Nat) : Bool :=
  decide (a < hbmEnd) && (!s.ecc.retired.isEmpty) && s.ecc.retired.contains (pageOf s a)

/-! ### Ownership (R350, R353) -/

/-- An owner as entries name it: slot and unit; a requester that owns nothing is none. -/
abbrev Requester := Option (Nat × Nat)

/-- The region number of an HBM address. -/
def regionOf (a : Nat) : Nat := a / 0x200000

/-- The entries in use for a region. -/
def ownEntries (s : Block) (region : Nat) : List OwnEnt :=
  (s.own.table.map (·.2)).filter (fun e => e.region == region)

/-- What ownership says to an access by `who` at address `a` (R350, R356). -/
def ownCheck (s : Block) (who : Requester) (a : Nat) (write : Bool) : Option Status :=
  if hbmEnd ≤ a then none else
  let es := ownEntries s (regionOf a)
  if es.any (·.lost) then some .regionLost
  else if es.isEmpty then none
  else
    let mine := es.any (fun e => who == some (e.oslot, e.ounit))
    if es.any (fun e => !e.read) then (if mine then none else some .regionOwned)
    else if write then some .regionOwned else none

/-! ### The sketch area (R460) -/

/-- The bytes of the sketch area while a generation is in progress. -/
def sketchArea (s : Block) : Option (Nat × Nat) :=
  match s.sketch.armed, s.sketch.gen with
  | some a, some _ => some (a.area, a.area + a.size)
  | _, _ => none

/-- Whether a write meets the sketch area during a generation. -/
def inSketchArea (s : Block) (a n : Nat) : Bool :=
  match sketchArea s with
  | some (lo, hi) => decide (a < hi) && decide (lo < a + n)
  | none => false

/-! ### Shard granules (R449, R456) -/

/-- The shard granule that holds an HBM address, by the armed extents: offset of the extent in the shard plus place. -/
def shardOffset : List (Nat × Nat) → Nat → Nat → Option Nat
  | [], _, _ => none
  | (b, l) :: t, a, acc => if b ≤ a ∧ a < b + l then some (acc + (a - b)) else shardOffset t a (acc + l)

/-- The module address of a shard offset. -/
def shardAddr : List (Nat × Nat) → Nat → Option Nat
  | [], _ => none
  | (b, l) :: t, o => if o < l then some (b + o) else shardAddr t (o - l)

/-- The protected granule that holds an address, while a generation copies (R454, R456). -/
def protectedGranule (s : Block) (a : Nat) : Option Nat :=
  match s.sketch.armed, s.sketch.gen with
  | some ar, some g =>
    match shardOffset ar.extents a 0 with
    | some o => if g.protect.contains (o / 65536) then some (o / 65536) else none
    | none => none
  | _, _ => none

/-! ### The checks of one access -/

/-- How an access uses its line. -/
inductive AccKind where
  | read | write | rmw
deriving DecidableEq, Repr

/-- The status with which a home refuses an access to `[a, a + n)`, which lies in one line: unmapped (R272), lost or
owned (R350, R356), retired (R298), bad (R291, R292), sketch area (R460). -/
def lineStatus (s : Block) (who : Requester) (k : AccKind) (a n : Nat) : Option Status :=
  if !populated s a || !populated s (a + n - 1) then some .badAddress
  else
    match ownCheck s who a (k != .read) with
    | some st => some st
    | none =>
      if retiredAt s a then some .pageRetired
      else if (match k with
        | .read => wordsBad s a n
        | .rmw => wordsBad s a n
        | .write => partialBad s a n) then some .memUncorrectable
      else if (k != .read) && inSketchArea s a n && who != some (ownSlot s, 32) then some .sketchArea
      else none

/-- The pieces of `[a, a + n)` that lie in one line each. -/
def linePieces (a n : Nat) : List (Nat × Nat) :=
  (linesOf a n).map (fun l =>
    let lo := if l * 128 < a then a else l * 128
    let hi := if (l + 1) * 128 < a + n then (l + 1) * 128 else a + n
    (lo, hi - lo))

/-- The first refusal met by an access to `[a, a + n)`, with the address of its line. -/
def accessStatus (s : Block) (who : Requester) (k : AccKind) (a n : Nat) : Option (Status × Nat) :=
  (linePieces a n).findSome? (fun p =>
    match lineStatus s who k p.1 p.2 with
    | some st => some (st, p.1 / 128 * 128)
    | none => none)

end Sys2Proof.Machine
end

