-- ==== Sys2Proof/Machine/Float.lean ====
section
/-! DEFINITION. Binary floating point as exact values that are rounded once (R56 to R60, R66). -/

namespace Sys2Proof.Machine

open Sys2Proof

/-- An exact value: (-1)^neg · m · 2^e, an infinity, or NaN. A zero keeps its sign. -/
inductive FV where
  | nan
  | inf (neg : Bool)
  | fin (neg : Bool) (m : Nat) (e : Int)
deriving DecidableEq, Repr

/-- A binary format: exponent bits, fraction bits, bias (R58). -/
structure FpFmt where
  ebits : Nat
  mbits : Nat
deriving DecidableEq, Repr

def fp32 : FpFmt := ⟨8, 23⟩
def fp64 : FpFmt := ⟨11, 52⟩
def bf16 : FpFmt := ⟨8, 7⟩

/-- Bias, precision and least normal exponent. -/
def fpBias (f : FpFmt) : Nat := 2 ^ (f.ebits - 1) - 1
def fpPrec (f : FpFmt) : Nat := f.mbits + 1
def fpEmin (f : FpFmt) : Int := 1 - (fpBias f : Int)
def fpEmax (f : FpFmt) : Int := fpBias f

/-- The value of an encoding. -/
def fpDecode (f : FpFmt) (v : Nat) : FV :=
  let neg := bit v (f.ebits + f.mbits)
  let ex := bits v f.mbits f.ebits
  let m := v % 2 ^ f.mbits
  if ex = 2 ^ f.ebits - 1 then (if m = 0 then .inf neg else .nan)
  else if ex = 0 then .fin neg m (fpEmin f - f.mbits)
  else .fin neg (m + 2 ^ f.mbits) ((ex : Int) - fpBias f - f.mbits)

/-- The canonical quiet NaN (R58). -/
def fpNan (f : FpFmt) : Nat := (2 ^ f.ebits - 1) * 2 ^ f.mbits + 2 ^ (f.mbits - 1)

/-- Sign bit of an encoding. -/
def fpSign (f : FpFmt) (neg : Bool) : Nat := if neg then 2 ^ (f.ebits + f.mbits) else 0

/-- An infinity. -/
def fpInf (f : FpFmt) (neg : Bool) : Nat := fpSign f neg + (2 ^ f.ebits - 1) * 2 ^ f.mbits

/-- The quotient by 2^k, rounded to nearest, ties to even. -/
def rneShift (m k : Nat) : Nat :=
  if k = 0 then m else
    let q := m >>> k
    let r := m % 2 ^ k
    let half := 2 ^ (k - 1)
    if half < r ∨ (r = half ∧ q % 2 = 1) then q + 1 else q

/-- The integer nearest to num/den, ties to even. -/
def rneDiv (num den : Nat) : Nat :=
  let q := num / den
  let r := num % den
  if den < 2 * r ∨ (2 * r = den ∧ q % 2 = 1) then q + 1 else q

/-- Round m·2^e to `p` bits with no ulp below 2^low; answers the integer significand and its exponent. -/
def roundMag (p : Nat) (low : Int) (m : Nat) (e : Int) : Nat × Int :=
  if m = 0 then (0, low) else
    let top : Int := (Nat.log2 m : Int) + e - p + 1
    let q := if top < low then low else top
    if q ≤ e then (m * 2 ^ (e - q).toNat, q) else (rneShift m (q - e).toNat, q)

/-- Whether a magnitude m·2^e is below 2^k. -/
def belowPow (m : Nat) (e k : Int) : Bool := m == 0 || decide ((Nat.log2 m : Int) + e < k)

/-- An encoding with its events: overflow, flush, invalid operation (R58). -/
structure FpOut where
  val : Nat
  overflow : Bool
  flush : Bool
  invalid : Bool
deriving DecidableEq, Repr

def fpPlain (v : Nat) : FpOut := ⟨v, false, false, false⟩

/-- What a unit counts while it computes: clamped codes and saturated elements (R46, R62), invalid operations, overflows and
flushes (R58), and NaN stencils (R124). -/
structure Ev where
  codes    : Nat
  invalid  : Nat
  overflow : Nat
  flush    : Nat
  nanSten  : Nat
deriving DecidableEq, Repr

def ev0 : Ev := ⟨0, 0, 0, 0, 0⟩
def evAdd (a b : Ev) : Ev :=
  ⟨a.codes + b.codes, a.invalid + b.invalid, a.overflow + b.overflow, a.flush + b.flush, a.nanSten + b.nanSten⟩
def evSum (l : List Ev) : Ev := l.foldl evAdd ev0
/-- `n` clamped codes or saturated elements. -/
def evCodes (n : Nat) : Ev := { ev0 with codes := n }
/-- The events of a result. -/
def evOf (o : FpOut) : Ev := ⟨0, o.invalid.toNat, o.overflow.toNat, o.flush.toNat, 0⟩

/-- Encode a finite value whose significand already fits. -/
def fpPack (f : FpFmt) (neg : Bool) (m : Nat) (q : Int) : FpOut :=
  if m = 0 then fpPlain (fpSign f neg)
  else
    let m1 := if m = 2 ^ fpPrec f then 2 ^ f.mbits else m
    let q1 := if m = 2 ^ fpPrec f then q + 1 else q
    if m1 < 2 ^ f.mbits then fpPlain (fpSign f neg + m1)
    else
      let ex := q1 + f.mbits
      if fpEmax f < ex then ⟨fpInf f neg, true, false, false⟩
      else fpPlain (fpSign f neg + (ex + fpBias f).toNat * 2 ^ f.mbits + (m1 - 2 ^ f.mbits))

/-- Round a value to a format, round to nearest even, keeping subnormals (R66). -/
def fpRound (f : FpFmt) (v : FV) : FpOut :=
  match v with
  | .nan => fpPlain (fpNan f)
  | .inf neg => fpPlain (fpInf f neg)
  | .fin neg m e =>
    let (m1, q) := roundMag (fpPrec f) (fpEmin f - f.mbits) m e
    fpPack f neg m1 q

/-- Round a value with the flush test of R59: a result whose magnitude, rounded with an unbounded exponent, is below the
least normal is zero of its sign. -/
def fpRoundFlush (f : FpFmt) (v : FV) : FpOut :=
  match v with
  | .nan => fpPlain (fpNan f)
  | .inf neg => fpPlain (fpInf f neg)
  | .fin neg m e =>
    if m = 0 then fpPlain (fpSign f neg) else
      let low : Int := (Nat.log2 m : Int) + e - fpPrec f - 1
      let (m1, q) := roundMag (fpPrec f) low m e
      if belowPow m1 q (fpEmin f) then ⟨fpSign f neg, false, true, false⟩ else fpPack f neg m1 q

/-- Rounding of Glaze and of stores: FP32 and BF16 flush, FP64 keeps subnormals (R59). -/
def fpStore (f : FpFmt) (v : FV) : FpOut := if f = fp64 then fpRound f v else fpRoundFlush f v

/-- The result of an operation on operands: a NaN that no operand brings is an invalid operation (R58). -/
def fpResult (f : FpFmt) (args : List FV) (v : FV) : FpOut :=
  { fpStore f v with invalid := decide (v = .nan) && args.all (fun a => decide (a ≠ .nan)) }

/-- The value Glaze reads: FP32 and BF16 subnormals are zero of their sign (R59). -/
def fpGlaze (f : FpFmt) (v : Nat) : FV :=
  match fpDecode f v with
  | .fin neg m e => if f ≠ fp64 ∧ bits v f.mbits f.ebits = 0 then .fin neg 0 e else .fin neg m e
  | x => x

/-! ### Exact arithmetic -/

def fvNeg : FV → FV
  | .nan => .nan
  | .inf n => .inf (!n)
  | .fin n m e => .fin (!n) m e

def fvAbs : FV → FV
  | .nan => .nan
  | .inf _ => .inf false
  | .fin _ m e => .fin false m e

def fvIsNeg : FV → Bool
  | .nan => false
  | .inf n => n
  | .fin n _ _ => n

def fvIsZero : FV → Bool
  | .fin _ m _ => m == 0
  | _ => false

def fvFinite : FV → Bool
  | .fin _ _ _ => true
  | _ => false

/-- An integer as a value; zero is +0. -/
def fvInt (z : Int) (e : Int) : FV := .fin (decide (z < 0)) z.natAbs e

/-- Signed significand of a finite value at exponent `e0`, which is at or below its own. -/
def fvAt (neg : Bool) (m : Nat) (e e0 : Int) : Int :=
  let k : Int := (m : Int) * ((2 ^ (e - e0).toNat : Nat) : Int)
  if neg then -k else k

/-- Exact sum; an exact zero of unlike signs is +0 (round to nearest). -/
def fvAdd (a b : FV) : FV :=
  match a, b with
  | .nan, _ => .nan
  | _, .nan => .nan
  | .inf x, .inf y => if x = y then .inf x else .nan
  | .inf x, _ => .inf x
  | _, .inf y => .inf y
  | .fin n1 m1 e1, .fin n2 m2 e2 =>
    let e0 := if e1 ≤ e2 then e1 else e2
    let z := fvAt n1 m1 e1 e0 + fvAt n2 m2 e2 e0
    if z = 0 then .fin (n1 && n2) 0 e0 else fvInt z e0

/-- Exact product. -/
def fvMul (a b : FV) : FV :=
  match a, b with
  | .nan, _ => .nan
  | _, .nan => .nan
  | .inf x, .inf y => .inf (x != y)
  | .inf x, .fin n m _ => if m = 0 then .nan else .inf (x != n)
  | .fin n m _, .inf y => if m = 0 then .nan else .inf (n != y)
  | .fin n1 m1 e1, .fin n2 m2 e2 => .fin (n1 != n2) (m1 * m2) (e1 + e2)

/-- Whether a < b; false when either is NaN. -/
def fvLt (a b : FV) : Bool :=
  match a, b with
  | .nan, _ => false
  | _, .nan => false
  | .inf x, .inf y => x && !y
  | .inf x, .fin _ _ _ => x
  | .fin _ _ _, .inf y => !y
  | .fin n1 m1 e1, .fin n2 m2 e2 =>
    let e0 := if e1 ≤ e2 then e1 else e2
    decide (fvAt n1 m1 e1 e0 < fvAt n2 m2 e2 e0)

/-- Whether a = b as numbers; zeros are equal, NaN equals nothing. -/
def fvEq (a b : FV) : Bool :=
  match a, b with
  | .nan, _ => false
  | _, .nan => false
  | _, _ => !fvLt a b && !fvLt b a

/-- A quotient num/den · 2^e of naturals with enough bits and a sticky bit to be rounded once to `p` bits. -/
def sticky (p num den : Nat) (e : Int) : Nat × Int :=
  if num = 0 then (0, e) else
    let k := p + 3 + Nat.log2 den - Nat.log2 num
    let q := num * 2 ^ k / den
    let r := num * 2 ^ k % den
    (2 * q + (if r = 0 then 0 else 1), e - k - 1)

/-- A quotient of finite values, exact up to the sticky bit for precision `p`. -/
def fvDiv (p : Nat) (a b : FV) : FV :=
  match a, b with
  | .nan, _ => .nan
  | _, .nan => .nan
  | .inf _, .inf _ => .nan
  | .inf x, .fin n _ _ => .inf (x != n)
  | .fin n _ e, .inf y => .fin (n != y) 0 e
  | .fin n1 m1 e1, .fin n2 m2 e2 =>
    if m2 = 0 then (if m1 = 0 then .nan else .inf (n1 != n2))
    else
      let (m, e) := sticky p m1 m2 (e1 - e2)
      .fin (n1 != n2) m e

/-- Integer square root by bits. -/
def isqrt : Nat → Nat → Nat → Nat
  | 0, _, r => r
  | k + 1, n, r =>
    let c := r + 2 ^ k
    if c * c ≤ n then isqrt k n c else isqrt k n r

/-- A square root, exact up to the sticky bit for precision `p`. -/
def fvSqrt (p : Nat) (a : FV) : FV :=
  match a with
  | .nan => .nan
  | .inf n => if n then .nan else .inf false
  | .fin n m e =>
    if m = 0 then .fin n 0 e
    else if n then .nan
    else
      let odd := if e % 2 = 0 then 0 else 1
      let sh := 2 * (p + 3)
      let w := m * 2 ^ (sh + odd)
      let r := isqrt (Nat.log2 w / 2 + 1) w 0
      .fin false (2 * r + (if r * r = w then 0 else 1)) ((e - odd) / 2 - (p + 3) - 1)

/-! ### Encoded operations -/

/-- FP64 sum, product, fused multiply-add, quotient and square root with one rounding each (R66). -/
def d64 (v : Nat) : FV := fpDecode fp64 v
def add64 (a b : Nat) : Nat := (fpRound fp64 (fvAdd (d64 a) (d64 b))).val
def neg64 (a : Nat) : Nat := if d64 a = .nan then fpNan fp64 else (fpRound fp64 (fvNeg (d64 a))).val
def sub64 (a b : Nat) : Nat := (fpRound fp64 (fvAdd (d64 a) (fvNeg (d64 b)))).val
def mul64 (a b : Nat) : Nat := (fpRound fp64 (fvMul (d64 a) (d64 b))).val
def fma64 (a b c : Nat) : Nat := (fpRound fp64 (fvAdd (fvMul (d64 a) (d64 b)) (d64 c))).val
def div64 (a b : Nat) : Nat := (fpRound fp64 (fvDiv 53 (d64 a) (d64 b))).val
def sqrt64 (a : Nat) : Nat := (fpRound fp64 (fvSqrt 53 (d64 a))).val
def abs64 (a : Nat) : Nat := a % 2 ^ 63
def lt64 (a b : Nat) : Bool := fvLt (d64 a) (d64 b)
def finite64 (a : Nat) : Bool := fvFinite (d64 a)
/-- FP32 sum keeping subnormals (R269). -/
def add32 (a b : Nat) : Nat := (fpRound fp32 (fvAdd (fpDecode fp32 a) (fpDecode fp32 b))).val

/-- Greater or lesser of two values as they are read: −0 orders below +0, and a NaN gives the canonical NaN (R150). -/
def fvExtreme (f : FpFmt) (isMax : Bool) (x y : FV) : Nat :=
  let put := fun v => (fpRound f v).val
  if x = .nan then fpNan f
  else if y = .nan then fpNan f
  else if fvEq x y then
    (if fvIsNeg x = fvIsNeg y then put x else if fvIsNeg x = isMax then put y else put x)
  else if fvLt x y = isMax then put y else put x

/-- MIN and MAX of the Glaze chain, which reads FP32 subnormals as zero (R150). -/
def fpMaxMin (f : FpFmt) (isMax : Bool) (a b : Nat) : Nat := fvExtreme f isMax (fpGlaze f a) (fpGlaze f b)

/-- MIN and MAX of combines and reductions at a home, which have no program precision and keep subnormals (R183, R326). -/
def fpMaxMinKept (f : FpFmt) (isMax : Bool) (a b : Nat) : Nat := fvExtreme f isMax (fpDecode f a) (fpDecode f b)

end Sys2Proof.Machine
end

