-- ==== Sys2Proof/Machine/Report.lean ====
section
/-! DEFINITION. Counters (R513, R514), logs (R525, R526), alarms (R527), and the entries of the ledger (R439 to R441). -/

namespace Sys2Proof.Machine

open Sys2Proof

/-! ### Counters -/

/-- The select word of counter `k` of a unit. -/
def selectOf (s : Block) (u k : Nat) : Nat := (tget 0 s.counters.sel (8 * u + k)).toNat

/-- Whether counter `k` counts the overflows of counter `k - 1` (R513). -/
def chained (s : Block) (u k : Nat) : Bool :=
  decide (k % 2 = 1) && bit (selectOf s u (k - 1)) 11

/-- Add to one counter; answers the number of wraps (R514). -/
def counterAdd (s : Block) (key n : Nat) : Block × Nat :=
  let v := tget 0 s.counters.vals key + n
  let w := v / 2 ^ 48
  let c := { s.counters with vals := tset 0 s.counters.vals key (v % 2 ^ 48) }
  let c := if w = 0 then c else { c with ovf := tset false c.ovf key true }
  ({ s with counters := c }, w)

/-- Count `n` events in counter `k` of a unit when it is selected (R513, R514). -/
def counterEvent (s : Block) (u code n k : Nat) : Block :=
  let w := selectOf s u k
  if bit w 10 ∧ bits w 0 10 = code ∧ code ≠ 0 ∧ !chained s u k then
    let (s1, wraps) := counterAdd s (8 * u + k) n
    if wraps = 0 then s1
    else if k % 2 = 0 ∧ bit w 11 then (counterAdd s1 (8 * u + k + 1) wraps).1 else s1
  else s

/-- Count `n` events of a unit; a frozen module counts nothing (R519). -/
def countEvent (s : Block) (u code n : Nat) : Block :=
  if s.counters.frozen || n == 0 then s
  else (List.range 8).foldl (counterEvent · u code n ·) s

/-- Place of a unit's count of a kind. -/
def tallyKey (unit : Nat) : Tally → Nat
  | .invalid => 16 * unit
  | .overflow => 16 * unit + 1
  | .flush => 16 * unit + 2
  | .istusLow => 16 * unit + 3
  | .nanStencil => 16 * unit + 4
  | .wrap => 16 * unit + 5
  | .tableCorrected => 16 * unit + 6
  | .unusedSet => 16 * unit + 7
  | .codes => 16 * unit + 8
  | .lateOutcome => 16 * unit + 9
  | .dieFloor => 16 * unit + 10

/-- A unit's count of a kind. -/
def tallyOf (s : Block) (unit : Nat) (k : Tally) : Nat := tget 0 s.counters.tally (tallyKey unit k)

/-- Add to a count that no event code names; it wraps at 48 bits and stands while the counters are frozen, as every counter (log 78). -/
def tallyAdd (s : Block) (unit : Nat) (k : Tally) (n : Nat) : Block :=
  if s.counters.frozen || n == 0 then s
  else { s with counters := { s.counters with tally := tset 0 s.counters.tally (tallyKey unit k) ((tallyOf s unit k + n) % 2 ^ 48) } }

/-- Count what a unit's arithmetic brought (R58, R124). -/
def countArith (s : Block) (unit : Nat) (e : Ev) : Block :=
  let s := tallyAdd s unit .invalid e.invalid
  let s := tallyAdd s unit .overflow e.overflow
  tallyAdd (tallyAdd s unit .flush e.flush) unit .nanStencil e.nanSten

/-- Count what an operation of a unit brought whose class has no event for clamped codes and saturated elements (R46, R58, R62). -/
def countOther (s : Block) (unit : Nat) (e : Ev) : Block := tallyAdd (countArith s unit e) unit .codes e.codes

/-- Count what an operation of a tile brought (R46, R58, R62, R124). -/
def countEv (s : Block) (t : Nat) (e : Ev) : Block := countEvent (countArith s (unitTile t) e) (unitTile t) 4 e.codes

/-! ### The ledger's entries (R439 to R441) -/

/-- Form an entry: it takes the next SEQ, joins the CRC of the open step when it belongs to it, and waits to be written to the ring. -/
def ledgerEntry (s : Block) (typ flags : Nat) (step : Nat) (payload : List Byte) : Block :=
  let units := (payload.length + 15) / 16
  let bytes := natLe 1 typ ++ natLe 1 flags ++ natLe 2 units ++ natLe 4 s.ledger.seq ++ natLe 8 step ++
    padTo (16 * units) payload
  let here := decide (step = s.ledger.step.toNat)
  { s with ledger := { s.ledger with
      seq := s.ledger.seq + 1, entries := if here then s.ledger.entries + 1 else s.ledger.entries,
      crc := if here then crcMore s.ledger.crc bytes else s.ledger.crc, waiting := s.ledger.waiting ++ [bytes] } }

/-- An entry of the open step; outside a step the ledger records nothing. -/
def ledgerPut (s : Block) (typ : Nat) (payload : List Byte) : Block :=
  if s.ledger.isOpen then ledgerEntry s typ 0 s.ledger.step.toNat payload else s

/-- A FAULT entry (R441). -/
def ledgerFault (s : Block) (st : Status) (unit detail : Nat) : Block :=
  ledgerPut s 7 (natLe 2 (statusCode st) ++ natLe 2 (Config.faultUnitClass unit) ++ natLe 4 unit ++
    natLe 8 (hallNat s) ++ natLe 8 detail ++ natLe 8 0)

/-! ### The log (R525, R526) -/

/-- Bucket 13 is that of alarm records. -/
def alarmBucket : Nat := 13

/-- One loggable occurrence: it takes a SEQ, and a record when its bucket holds a token. Answers whether it was the
first of its bucket to be suppressed. -/
def logOccur (s : Block) (bucket event unit : Nat) (st : Status) (severity : Nat) (detail : Word) : Block × Bool :=
  let seq := odNat s 0xB040 5
  let s := odPut s 0xB040 5 ((seq + 1) % 2 ^ 64)
  if tget 0 s.logs.spent bucket < odNat s 0xB040 3 then
    let r : LogRec := ⟨seq, hallNow s, event, unit, st, severity, detail, tget 0 s.logs.pend bucket⟩
    ({ s with logs := { s.logs with
        recs := s.logs.recs.filter (fun x => x.seq % 65536 ≠ seq % 65536) ++ [r]
        spent := tset 0 s.logs.spent bucket (tget 0 s.logs.spent bucket + 1)
        pend := tset 0 s.logs.pend bucket 0 } }, false)
  else
    let p := tget 0 s.logs.pend bucket
    let s1 := odBump { s with logs := { s.logs with pend := tset 0 s.logs.pend bucket (p + 1) } } 0xB040 4 1
    (s1, p == 0)

/-! ### Alarms (R527) -/

/-- An alarm never raised. -/
def alarm0 : Alarm := ⟨false, 0, 0, 0, 0, 0⟩

/-- Raise an alarm: its entry, ALARM_TOTAL, ALARM_ACTIVE, its log record, and a FAULT entry of the ledger. -/
def raiseAlarm (s : Block) (code unit : Nat) (st : Status) (detail : Nat) : Block :=
  let e := tget alarm0 s.logs.alarms code
  let now := hallNow s
  let e1 : Alarm := { active := true, lastUnit := unit, count := if e.count + 1 < 2 ^ 32 then e.count + 1 else e.count,
                      first := if e.count = 0 then now else e.first, last := now, detail := BitVec.ofNat 64 detail }
  let s := { s with logs := { s.logs with alarms := tset alarm0 s.logs.alarms code e1 } }
  let s := odBump s 0xB050 3 1
  let s := odSetBit s 0xB050 2 code true
  let s := (logOccur s alarmBucket (0x8000 + code) unit st 2 (BitVec.ofNat 64 detail)).1
  ledgerFault s st unit detail

/-- An event of R515: counted, and logged where the table says so. The first suppressed occurrence of a class raises
alarm 0x14 (R526, R530). -/
def report (s : Block) (unit code n : Nat) (st : Status) (detail : Nat) : Block :=
  let s := countEvent s unit code n
  if eventLogged (unitClass unit) code then
    let sev := if Config.logWarning (unitClass unit) code then 1 else 0
    let (s1, first) := logOccur s (unitClass unit) code unit st sev (BitVec.ofNat 64 detail)
    if first then raiseAlarm s1 0x14 unit .ok (unitClass unit) else s1
  else s

/-- A stream stop is an event of a tile and a FAULT entry of the ledger for every unit (R441, R515). -/
def reportStop (s : Block) (unit : Nat) (st : Status) (detail : Nat) : Block :=
  let s := if unit < 512 then report s unit 9 1 st detail else s
  ledgerFault s st unit detail

/-! ### Keep modes (R135, R136) -/

/-- KEEP_EFFECTIVE takes what KEEP_FORCE_CAUSE asks for. -/
def keepApply (s : Block) : Block :=
  let v := if odNat s 0x4310 3 = 0 then 0 else 1
  if odNat s 0x4310 2 = v then s else odPut s 0x4310 2 v

/-- A cause of NARROW_FORCED is set or cleared: at once when no job runs, else at the next step barrier release (R136). -/
def keepCause (s : Block) (k : Nat) (b : Bool) : Block :=
  let s := if bit (odNat s 0x4310 3) k = b then s else odSetBit s 0x4310 3 k b
  if jobAssigned s then s else keepApply s

/-- The recovery self-test is pending while a spare is tested or a unit reset during a job has not passed its self-test. -/
def keepRecovery (s : Block) : Block :=
  keepCause s 1 (s.tiles.any (fun e => e.2.testing.isSome) || !s.power.retest.isEmpty)

/-! ### Precise sampling (R522 to R524) -/

/-- Whether a unit class is sampled: tiles, cores, Plumb, Truss, Sketch are bits 0 to 4. -/
def sampleOn (s : Block) (cls : Nat) : Bool :=
  decide (odNat s 0xB030 1 ≠ 0) && bit (odNat s 0xB030 2) cls

/-- A unit's countdown: one that has run out, or has not begun, stands at N. -/
def countdown (s : Block) (unit : Nat) : Nat :=
  let d := tget 0 s.counters.down unit
  if d = 0 then odNat s 0xB030 1 else d

/-- Whether the next command or instruction that a unit counts is the one sampled. -/
def sampleNext (s : Block) (cls unit : Nat) : Bool := sampleOn s cls && countdown s unit == 1

/-- One command started or instruction retired: the countdown falls; answers whether this one is sampled. -/
def sampleTick (s : Block) (cls unit : Nat) : Block × Bool :=
  if sampleOn s cls then
    let left := countdown s unit - 1
    ({ s with counters := { s.counters with down := tset 0 s.counters.down unit left } }, left == 0)
  else (s, false)

/-- The trace record of R523. -/
def traceBytes (time : Nat) (unit op : Nat) (stopped remote stalled : Bool) (latency ident addr : Nat) : List Byte :=
  let b := fun (x : Bool) => if x then 1 else 0
  let lat := if latency < 2 ^ 32 then latency else 2 ^ 32 - 1
  natLe 8 time ++ natLe 2 unit ++ natLe 1 op ++ natLe 1 (b stopped + 2 * b remote + 4 * b stalled) ++ natLe 4 lat ++
    natLe 8 ident ++ natLe 8 addr

/-- The die of a unit that is sampled (R22): a base die, PD or FD. -/
def sampleDie (unit : Nat) : Nat := if unit < 512 then unit / 128 else if unit < 672 then 4 else 5

/-- A trace record joins the sample queue of its die, or is dropped and counted when that holds 64 (R524). -/
def traceQueue (s : Block) (unit : Nat) (bs : List Byte) : Block :=
  let d := sampleDie unit
  if 64 ≤ (s.counters.traces.filter (fun e => e.1 == d)).length then odBump s 0xB030 7 1
  else { s with counters := { s.counters with traces := s.counters.traces ++ [(d, bs)] } }

/-- Where the next trace record goes; none (and a drop is counted) when the ring holds only unread records (R524). -/
def traceSlot (s : Block) : Option Nat :=
  let size := odNat s 0xB030 4
  let w := odNat s 0xB030 5
  if size = 0 ∨ size / 32 ≤ w - odNat s 0xB030 6 then none
  else some (odNat s 0xB030 3 + 32 * (w % (size / 32)))

end Sys2Proof.Machine
end

