-- ==== Sys2Proof/Machine/Harts.lean ====
section
/-! DEFINITION. Registers, CSRs and traps of the control cores (R249 to R257, R263, R270). -/

namespace Sys2Proof.Machine

open Sys2Proof

/-- A hart at reset: held, in machine mode, otnhint KEEP, otnmtcmp all ones (R253, R268, R474). -/
def hart0 : Hart :=
  ⟨[], [], [], 0, .machine, [], 0, BitVec.allOnes 64, false, 0, 0x8000000000000000, 0, 0, false, 0, true, none, none, none, none,
   0, [], none, .ok, 0, [], [], none⟩

def hartAt (s : Block) (h : Nat) : Hart := tget hart0 s.harts h
def hartPut (s : Block) (h : Nat) (x : Hart) : Block := { s with harts := tset hart0 s.harts h x }

/-- Read x register `r`; x0 reads zero. -/
def xget (k : Hart) (r : RegId) : Word := if r = 0 then 0 else tget 0 k.x r.toNat
/-- Write x register `r`; a write of x0 is discarded. -/
def xset (k : Hart) (r : RegId) (v : Word) : Hart := if r = 0 then k else { k with x := tset 0 k.x r.toNat v }

/-- Vector register bytes (R250: VLEN = 128). -/
def vget (k : Hart) (r : Nat) : BitVec 128 := tget 0 k.v (r % 32)
def vset (k : Hart) (r : Nat) (v : BitVec 128) : Hart := { k with v := tset 0 k.v (r % 32) v }

/-- A CSR by number. -/
def csrGet (k : Hart) (n : Nat) : Word := tget 0 k.csr n
def csrSet (k : Hart) (n : Nat) (v : Word) : Hart := { k with csr := tset 0 k.csr n v }

/-- Exception causes of the privileged architecture, and cause 24 (R270). -/
def causeLoadMisaligned : Nat := 4
def causeLoadFault : Nat := 5
def causeStoreMisaligned : Nat := 6
def causeStoreFault : Nat := 7
def causeIllegal : Nat := 2
def causeFabric : Nat := 24

/-- Number of a privilege mode in status registers. -/
def privNum : Priv → Nat
  | .user => 0
  | .supervisor => 1
  | .machine => 3

/-- Taking an exception: the pc is saved in xepc, the cause and the value in xcause and xtval, the mode and its interrupt
enable in mstatus, and the pc becomes the base of the trap vector. An exception below machine mode whose medeleg bit is
set goes to supervisor mode (R270 and the privileged architecture of R250). -/
def takeTrap (s : Block) (h cause : Nat) (tval : Word) : Block :=
  let k := hartAt s h
  let ms := (csrGet k 0x300).toNat
  let code := BitVec.ofNat 64 cause
  let k1 :=
    if k.priv ≠ .machine ∧ bit (csrGet k 0x302).toNat cause then
      let ms1 := setBit (setBit (setBit ms 5 (bit ms 1)) 1 false) 8 (k.priv == .supervisor)
      let k1 := csrSet (csrSet (csrSet (csrSet k 0x141 k.pc) 0x142 code) 0x143 tval) 0x300 (BitVec.ofNat 64 ms1)
      { k1 with priv := .supervisor, pc := csrGet k 0x105 &&& ~~~3#64 }
    else
      let ms1 := setBits (setBit (setBit ms 7 (bit ms 3)) 3 false) 11 2 (privNum k.priv)
      let k1 := csrSet (csrSet (csrSet (csrSet k 0x341 k.pc) 0x342 code) 0x343 tval) 0x300 (BitVec.ofNat 64 ms1)
      { k1 with priv := .machine, pc := csrGet k 0x305 &&& ~~~3#64 }
  hartPut s h { k1 with blocked := none, lines := [], refused := [], sampling := none }

/-- Cause 24 is also an event of the core (R515). -/
def trapFabric (s : Block) (h : Nat) (st : Status) : Block :=
  takeTrap (report s (unitHart h) 4 1 st 0) h causeFabric (BitVec.ofNat 64 (statusCode st))

/-- A hart issues an instruction: when it is the one that its countdown samples, its trace record is begun (R522, R523). -/
def noteIssue (s : Block) (h : Nat) (w : Issued) : Block :=
  if sampleNext s 1 (unitHart h) && (hartAt s h).sampling.isNone then
    hartPut s h { hartAt s h with sampling := some ⟨hallNow s, s.clk.cycle, w, false⟩ }
  else s

/-- The first data access of an instruction that is sampled. -/
def noteAccess (s : Block) (h a : Nat) : Block :=
  match (hartAt s h).sampling with
  | some x => if x.what.addr = 0 then hartPut s h { hartAt s h with sampling := some { x with what := ⟨x.what.opcode, a⟩ } } else s
  | none => s

/-- The trace record of a hart's instruction that retires. -/
def traceInstr (s : Block) (h : Nat) (k : Hart) : Block :=
  let x := k.sampling.getD ⟨hallNow s, s.clk.cycle, ⟨0, 0⟩, false⟩
  let a := x.what.addr
  traceQueue s (unitHart h) (traceBytes x.hall.toNat (unitHart h) x.what.opcode false (a != 0 && !isOwn s a) x.stalled
    (s.clk.cycle - x.cycle) k.pc.toNat a)

/-- An instruction retires: pc + 4, vstart 0 (R255), and the count of retired instructions. -/
def retire (s : Block) (h : Nat) (k : Hart) : Block :=
  let s1 := hartPut s h { k with pc := k.pc + 4, vstart := 0, blocked := none, lines := [], refused := [], sampling := none }
  let s2 := countEvent s1 (unitHart h) 1 1
  let (s3, sampled) := sampleTick s2 1 (unitHart h)
  if sampled then traceInstr s3 h k else s3

/-- An instruction retires and writes rd. -/
def retireRd (s : Block) (h : Nat) (rd : RegId) (v : Word) : Block := retire s h (xset (hartAt s h) rd v)

/-- Whether a hart can issue its next instruction. -/
def hartReady (s : Block) (h : Nat) : Bool := !(hartAt s h).held && (hartAt s h).blocked.isNone

/-- A store, atomic or window write that failed after its instruction: the first failure is kept until the hart's next
ordering point (R263, R485). -/
def noteFailed (s : Block) (h : Nat) (st : Status) : Block :=
  let k := hartAt s h
  if k.failed.isSome then s else hartPut s h { k with failed := some st }

/-! ### Values the spec leaves open -/

/-- A value that no rule states, of at most 64 bits: zero, or state that the present job could itself read — memory of the module or a
register of a hart; which of them is a free value (R5, log 2). -/
def openValue (s : Block) (k bits : Nat) : Nat :=
  let v := Config.freeValue (s.free + k)
  let w : Nat :=
    if v % 3 = 0 then 0
    else if v % 3 = 1 then memLe s (v / 3 % (hbmEnd - 8)) 8
    else (xget (hartAt s (v / 3 % 96)) (BitVec.ofNat 5 (v / 288))).toNat
  w % 2 ^ bits

/-- Name under which a hart keeps a part read from another module: apart from the lines its cluster holds. -/
def partKey (a : Nat) : Nat := 2 ^ 60 + a

/-- Sign-extend the low `8·n` bits of a value into a register. -/
def signExt (n v : Nat) : Word := BitVec.ofInt 64 (sx (8 * n) v)

/-! ### Atomics that have been answered (R263, R269, R270, R293) -/

/-- An AMO that its home refuses: cause 24 at the next ordering point; no rule states the old value (log 2). -/
def amoRefused (s : Block) (h : Nat) (rd : RegId) (st : Status) : Block :=
  let s := noteFailed s h st
  retireRd (freeNext s).2 h rd (BitVec.ofNat 64 (openValue s 0 64))

/-- What the answer of an atomic does at its hart: `old` is the value before the operation. -/
def atomDone (s : Block) (h : Nat) (st : Status) (old : Nat) : Block :=
  let value := fun (w : Wid) => match w with
    | .w32 => signExt 4 old
    | .w64 => BitVec.ofNat 64 old
  match (hartAt s h).blocked with
  | some (.tagged rd wid) => if st = .ok then retireRd s h rd (value wid) else trapFabric s h st
  | some (.amo rd wid) => if st = .ok then retireRd s h rd (value wid) else amoRefused s h rd st
  | some (.storeCond rd _ cmp) =>
    if st = .ok then retireRd s h rd (if old = cmp then 0 else 1) else retireRd (noteFailed s h st) h rd 1
  | some (.syncTagged rd) => retireRd s h rd (BitVec.ofNat 64 (statusCode st))
  | _ => s

end Sys2Proof.Machine
end

