-- ==== Sys2Proof/Machine/Arbiter.lean ====
section
/-! DEFINITION. The rotating arbiter of the shared points (R34, R335 to R338). -/

namespace Sys2Proof.Machine

open Sys2Proof

/-! ### Points -/

/-- Names of the points: a pseudo-channel's scheduler, and a Tenon output port. -/
def pointChannel (c : Nat) : Nat := c
def pointPort (k : Nat) : Nat := 65536 + k

/-- At reset ranks follow the index (R335). -/
def arb0 : Arb := ⟨[], 0, [], none⟩
def arbAt (s : Block) (p : Nat) : Arb := tget arb0 s.arbs p
def arbPut (s : Block) (p : Nat) (a : Arb) : Block := { s with arbs := tset arb0 s.arbs p a }

/-! ### Requests -/

/-- A requester raises its request: its wait counts from now (R335). -/
def arbRaise (s : Block) (p w : Nat) : Block :=
  let a := arbAt s p
  if tget 0 a.since w ≠ 0 then s else arbPut s p { a with since := tset 0 a.since w (s.clk.cycle + 1) }

/-- A requester drops its request: a grant it holds ends. -/
def arbDrop (s : Block) (p w : Nat) : Block :=
  let a := arbAt s p
  arbPut s p { a with
    since := tset 0 a.since w 0
    hold := match a.hold with
      | some (v, n) => if v = w then none else some (v, n)
      | none => none }

/-! ### Rounds -/

/-- The least of a list of indices. -/
def leastOf (l : List Nat) : Option Nat := l.foldl (fun b w => match b with
  | none => some w
  | some v => some (min v w)) none

/-- The highest-ranked requester of a list: one never granted, by index, else the one granted longest ago. -/
def arbFirst (a : Arb) (l : List Nat) : Option Nat :=
  match leastOf (l.filter (fun w => !a.last.contains w)) with
  | some w => some w
  | none => a.last.find? (fun w => l.contains w)

/-- The requester with the longest wait, the lowest index among equals. -/
def arbLongest (a : Arb) (l : List Nat) : Option Nat :=
  leastOf (l.filter (fun w => l.all (fun v => decide (tget 0 a.since w ≤ tget 0 a.since v))))

/-- One round (R335): `any` are the requesters that may have the N-th grant, which ignores class and deficit, `elig` those
eligible under the point's own rule (R338). The winner takes the lowest rank. -/
def arbRound (a : Arb) (starve : Nat) (any elig : List Nat) (urgent : Nat → Bool) : Option (Nat × Arb) :=
  let nth := decide (starve ≤ a.grants + 1)
  let pick := if nth then arbLongest a any
    else match arbFirst a (elig.filter urgent) with
      | some w => some w
      | none => arbFirst a elig
  pick.map (fun w => (w, { a with last := a.last.filter (fun v => v != w) ++ [w], grants := if nth then 0 else a.grants + 1 }))

/-- The next grant unit: the holder keeps the point until it drops its request or its burst has passed, and otherwise a round
is held (R335, R337). Answers who is granted. -/
def arbGrant (s : Block) (p burst starve : Nat) (any elig : List Nat) (urgent : Nat → Bool) : Option (Nat × Block) :=
  let a := arbAt s p
  let next (w n : Nat) (a : Arb) : Nat × Block :=
    if n = 0 then (w, arbPut s p { a with hold := none, since := tset 0 a.since w (s.clk.cycle + 1) })
    else (w, arbPut s p { a with hold := some (w, n) })
  let round := (arbRound a starve any elig urgent).map (fun r => next r.1 (burst - 1) r.2)
  match a.hold with
  | some (w, n) => if any.contains w then some (next w (n - 1) a) else round
  | none => round

end Sys2Proof.Machine
end

