-- ==== Sys2Proof/Machine/Link.lean ====
section
/-! DEFINITION. Tenon ports and planes (R302 to R309, R320, R321): where a packet leaves, and the flits that carry it. -/

namespace Sys2Proof.Machine

open Sys2Proof

/-! ### Planes -/

/-- A plane not yet heard of. -/
def plane0 : Plane := ⟨none, 0, false, 0, false, 0, 0, 0, 0, 0, 0, false⟩
def planeAt (s : Block) (k : Nat) : Plane := tget plane0 s.fab.planes k
def planePut (s : Block) (k : Nat) (p : Plane) : Block :=
  { s with fab := { s.fab with planes := tset plane0 s.fab.planes k p } }

/-- Port state of R303, published in OD 0x6000.01. -/
def portState (s : Block) (k : Nat) : Nat := odByte s 0x6000 1 k
/-- A port carries traffic only in UP8, UP6 and UP4 (R303). -/
def portUp (s : Block) (k : Nat) : Bool := decide (2 ≤ portState s k)

/-- Whether plane `k` still serves slot `d`: a port that retrains holds its flits, and only a port that is DOWN loses its
plane (R304, R321; log 20). -/
def planeAlive (s : Block) (k d : Nat) : Bool :=
  portState s k != 0 && !(planeAt s k).lost && bit (planeAt s k).reachable.toNat d

/-- Whether plane `k` is usable toward slot `d` (R321). -/
def planeUsable (s : Block) (k d : Nat) : Bool :=
  portUp s k && !(planeAt s k).lost && bit (planeAt s k).reachable.toNat d

/-- The nominal plane of a request (R320). -/
def nominalPlane (a d : Nat) : Nat :=
  let v := bits a 7 34
  (v ^^^ (v >>> 11) ^^^ (v >>> 22) ^^^ d) % 18

/-- The first usable plane from the nominal one, modulo 18 (R321). -/
def planeFor (s : Block) (a d : Nat) : Option Nat :=
  ((List.range 18).map (fun i => (nominalPlane a d + i) % 18)).find? (fun k => planeUsable s k d)


/-! ### Packets as slots (R309, R310) -/

/-- Virtual channel of a packet type (R310). A CHUNK packet on VC5 is written 0x68 here: only the low six bits are sent. -/
def vcOf (ptype : Nat) : Nat :=
  if ptype = 0x38 then 0
  else if ptype = 0x10 ∨ ptype = 0x11 ∨ ptype = 0x12 ∨ ptype = 0x13 ∨ ptype = 0x16 then 1
  else if ptype = 0x14 ∨ ptype = 0x15 ∨ ptype = 0x17 then 2
  else if ptype = 0x28 then 4
  else if ptype = 0x68 then 5
  else if ptype = 0x30 ∨ ptype = 0x31 then 6
  else if ptype = 0x20 ∨ ptype = 0x21 then 7
  else 3

/-- The header slot of a packet (R309). -/
def headerSlot (s : Block) (p : Packet) : BitVec 128 :=
  BitVec.ofNat 128 (p.ptype % 64 + vcOf p.ptype * 2 ^ 6 + (if p.retry then 2 ^ 9 else 0) + p.dslot % 128 * 2 ^ 10 +
    ownSlot s * 2 ^ 17 + p.req % 1024 * 2 ^ 24 + p.payload.length % 32 * 2 ^ 34 + p.hint % 4 * 2 ^ 39 +
    p.seq % 65536 * 2 ^ 41 + p.pgen % 16 * 2 ^ 57 + p.addr % 2 ^ 41 * 2 ^ 64 + p.szst % 65536 * 2 ^ 112)

/-! ### Flits (R306, R307) -/

/-- A port that has not trained. -/
def port0 : Port := ⟨0, false, 0, 0, [], [], false, 0, [], [], [], none, [], 0⟩
def portAt (s : Block) (k : Nat) : Port := tget port0 s.fab.ports k
def portPut (s : Block) (k : Nat) (p : Port) : Block :=
  { s with fab := { s.fab with ports := tset port0 s.fab.ports k p } }

/-- Slots in DATA flits of fifteen, each padded with NULL slots, from FSEQ `n`. -/
def flitsOf (fack : BitVec 12) : Nat → BitVec 12 → List (BitVec 128) → List Flit
  | 0, _, _ => []
  | fuel + 1, n, ss =>
    if ss.isEmpty then []
    else
      let here := ss.take 15
      ⟨n, fack, .data, 0, 0, true, false, here ++ List.replicate (15 - here.length) 0⟩ ::
        flitsOf fack fuel (n + 1) (ss.drop 15)

/-! ### What a port receives (R308, R310, R313) -/

/-- Packet types that R310 lists; every other one is reserved. -/
def knownPtype (t : Nat) : Bool :=
  decide (t ≤ 0x09) || (decide (0x10 ≤ t) && decide (t ≤ 0x17)) || [0x20, 0x21, 0x28, 0x30, 0x31, 0x38, 0x3E].contains t

/-- A slot of the stream reaches a port: it owes credit for each slot of a packet, and counts packets of a reserved type or MKIND,
which it discards; NULL slots carry nothing. The count of discarded packets goes along. -/
def takeSlot (r : Port × Nat) (w : BitVec 128) : Port × Nat :=
  let p := r.1
  let owe (v : Nat) : Tab Nat := tset 0 p.owed v (tget 0 p.owed v + 1)
  match p.cut with
  | some c =>
    let bad := c.mgmt && bits w.toNat 0 8 != 1 && bits w.toNat 0 8 != 2
    ({ p with owed := owe c.vc, cut := if c.left ≤ 1 then none else some ⟨c.vc, c.left - 1, false⟩ }, r.2 + bad.toNat)
  | none =>
    let t := bits w.toNat 0 6
    if t = 0 then r
    else
      let v := bits w.toNat 6 3
      let n := bits w.toNat 34 5
      ({ p with owed := owe v, cut := if n = 0 ∨ 16 < n then none else some ⟨v, n, t == 0x38⟩ }, r.2 + (!knownPtype t || decide (16 < n)).toNat)

/-- The slots of an accepted flit. -/
def takeSlots (p : Port) (f : Flit) : Port × Nat := if f.kind = .data then f.slots.foldl takeSlot (p, 0) else (p, 0)

/-- The credits that a port owes go back in IDLE flits, one for each virtual channel, as far as the replay buffer has room (R306 to
R308). -/
def returnCredits (s : Block) (k : Nat) : Block :=
  let p := portAt s k
  let vs := (List.range 8).filter (fun v => decide (tget 0 p.owed v ≠ 0))
  if !portUp s k || vs.isEmpty || decide (512 < p.unacked.length + vs.length) then s
  else
    let fs := ((List.range vs.length).zip vs).map (fun e =>
      (⟨p.txSeq + BitVec.ofNat 12 e.1, p.rxSeq - 1, .idle, BitVec.ofNat 3 e.2, BitVec.ofNat 12 (tget 0 p.owed e.2), true, false,
        List.replicate 15 0⟩ : Flit))
    emit (portPut (countEvent s (unitPort k) 1 fs.length) k { p with txSeq := p.txSeq + BitVec.ofNat 12 vs.length, unacked := p.unacked ++ fs, owed := [] }) (.flits k none fs)

/-! ### The output port (R308, R317 to R319, R338) -/

/-- Slots of a packet: its header and its payload (R309). -/
def slotCount (p : Packet) : Nat := 1 + p.payload.length

/-- Packets that wait on a virtual channel of a port. -/
def vcQueue (p : Port) (v : Nat) : List Packet := tget [] p.waiting v

/-- Whether a flit buffer has room for a packet, and the far end has granted its slots (R307, R308). -/
def vcReady (p : Port) (v : Nat) : Bool :=
  match vcQueue p v with
  | [] => false
  | x :: _ => decide (slotCount x ≤ tget 0 p.credits v) && decide (p.unacked.length + (slotCount x + 14) / 15 ≤ 512)

/-- VC0 and VC7 are urgent; the others are weighted (R317). -/
def vcUrgent (v : Nat) : Bool := v == 0 || v == 7

/-- Quantum of a weighted VC: 16 · w (R318). -/
def vcQuantum (s : Block) (v : Nat) : Int := 16 * odNat s 0x6010 (v + 1)

/-- A weighted VC is eligible when its deficit covers its head packet; an urgent one always (R318). -/
def vcEligible (p : Port) (v : Nat) : Bool :=
  vcUrgent v || (match vcQueue p v with
    | [] => false
    | x :: _ => decide ((slotCount x : Int) ≤ tget 0 p.deficit v))

/-- A round of quantum additions: each waiting weighted VC adds its quantum (R318, R319). -/
def addQuanta (s : Block) (k : Nat) (vs : List Nat) : Block :=
  let p := portAt s k
  portPut s k { p with deficit := (vs.filter (fun v => !vcUrgent v)).foldl (fun d v => tset 0 d v (tget 0 d v + vcQuantum s v)) p.deficit }

/-- A granted packet goes out: its slots take credit and deficit, and its flits stay until they are acknowledged; a VC with no
packet left has deficit 0. An ATOMACK is kept until its flit is acknowledged (R307, R318, R330). -/
def sendHead (s : Block) (k v : Nat) : Block :=
  let p := portAt s k
  match vcQueue p v with
  | [] => s
  | x :: t =>
    let n := slotCount x
    let fs := flitsOf (p.rxSeq - 1) (n + 1) p.txSeq (headerSlot s x :: x.payload)
    let d : Int := if t.isEmpty || vcUrgent v then 0 else tget 0 p.deficit v - n
    let s := portPut s k { p with
      txSeq := p.txSeq + BitVec.ofNat 12 fs.length, unacked := p.unacked ++ fs
      credits := tset 0 p.credits v (tget 0 p.credits v - n), waiting := tset [] p.waiting v t, deficit := tset 0 p.deficit v d
      acks := if x.ptype = 0x07 then p.acks ++ [(p.txSeq, x)] else p.acks }
    let s := if t.isEmpty then arbDrop s (pointPort k) v else s
    emit (countEvent s (unitPort k) 1 fs.length) (.flits k none fs)

/-- Grant packets as long as some VC may send (R318, R335, R338). -/
def pumpPort (k : Nat) : Nat → Block → Block
  | 0, s => s
  | fuel + 1, s =>
    let p := portAt s k
    let any := (List.range 8).filter (vcReady p)
    let elig := any.filter (vcEligible p)
    if !portUp s k || any.isEmpty then s
    else
      let s := if elig.any (fun v => !vcUrgent v) then s else addQuanta s k any
      let p := portAt s k
      match arbGrant s (pointPort k) (odNat s 0x6200 7) (odNat s 0x6200 8) any (any.filter (vcEligible p)) vcUrgent with
      | none => pumpPort k fuel s
      | some (v, s1) => pumpPort k fuel (sendHead s1 k v)

/-- Packets of a port that wait. -/
def portWaiting (p : Port) : Nat := p.waiting.foldl (fun n e => n + e.2.length) 0

/-- Let a port send. A quantum is at least 16 slots and a packet at most 17, so few rounds pass without a grant. -/
def runPort (s : Block) (k : Nat) : Block := pumpPort k (64 * (portWaiting (portAt s k) + 1)) s

/-- Give a packet to port `k`: it joins its virtual channel, and goes out when it is granted. -/
def portSend (s : Block) (k : Nat) (x : Packet) : Block :=
  let s := wakeUnit s (unitPort k)
  let p := portAt s k
  let v := vcOf x.ptype
  runPort (arbRaise (portPut s k { p with waiting := tset [] p.waiting v (vcQueue p v ++ [x]) }) (pointPort k) v) k

/-- Send a packet: on its plane's port, or on the ridge when it names none. -/
def sendPkt (s : Block) (p : Packet) : Block :=
  let s := emit s (.pkt p)
  match p.plane with
  | some k => portSend s k p
  | none => s

end Sys2Proof.Machine
end

