-- ==== Sys2Proof/Machine/Home.lean ====
section
/-! DEFINITION. What the home of a line does: the memory-side cache (R278 to R282), error correction and row failures
(R289 to R300), the directory and recalls (R343 to R346), protected granules (R456), and the requests it serves. -/

namespace Sys2Proof.Machine

open Sys2Proof

/-! ### The memory-side cache -/

/-- Count a hit or miss of a slice, and a read or write of a stack (R515). -/
def sliceEvent (s : Block) (a code : Nat) : Block := countEvent s (unitSlice (dieOf s a)) code 1
def stackEvent (s : Block) (a code : Nat) : Block := countEvent s (unitHbm (stackOf s a)) code 1

/-- Key of the set that holds a module line: slice and set. -/
def setKey (s : Block) (line : Nat) : Nat := dieOf s (line * 128) * 65536 + Config.cacheSet line % 65536

/-- A directory entry at reset: U (R343). -/
def dir0 : DirEnt := ⟨.u, 0, 0, 0, false, false, false⟩
def dirAt (s : Block) (line : Nat) : DirEnt := tget dir0 s.coh.dir line
def dirPut (s : Block) (line : Nat) (d : DirEnt) : Block :=
  { s with coh := { s.coh with dir := tset dir0 s.coh.dir line d } }

/-! ### Packets the home sends -/

/-- Bytes as payload slots of 16 bytes. -/
def toSlots : Nat → List Byte → List (BitVec 128)
  | 0, _ => []
  | n + 1, bs => BitVec.ofNat 128 (leNat (bs.take 16)) :: toSlots n (bs.drop 16)

def payloadSlots (bs : List Byte) : List (BitVec 128) := toSlots ((bs.length + 15) / 16) bs

/-- A response travels back on the plane of its request (R320). -/
def respond (s : Block) (p : PktHdr) (ptype seq : Nat) (st : Status) (payload : List (BitVec 128)) : Block :=
  sendPkt s ⟨ptype, p.sslot, some p.plane, false, p.req.toNat, seq, p.pgen.toNat, 0, p.addr.toNat, statusCode st,
    payload⟩

/-- The coherence extension slot (R347). -/
def cohExt (s : Block) (tid cluster kind ounit region : Nat) (data : Bool) : BitVec 128 :=
  BitVec.ofNat 128 (tid % 65536 + cluster * 2 ^ 16 + (if data then 2 ^ 20 else 0) + kind * 2 ^ 21 + ounit * 2 ^ 23 +
    homeEpoch s * 2 ^ 32 + region * 2 ^ 64)

/-- Send a coherence packet to a slot on a usable plane; on the ridge when the slot is the module's own. -/
def sendCohHint (s : Block) (ptype dslot hint line : Nat) (ext : BitVec 128) (st : Status) (data : List Byte) : Block :=
  let plane := if dslot = ownSlot s then none else planeFor s (line * 128) dslot
  sendPkt s ⟨ptype, dslot, plane, false, 0, 0, tget 0 s.fab.gen dslot, hint, line * 128 % 2 ^ 41, statusCode st,
    ext :: payloadSlots data⟩

/-- Send a coherence packet that carries no hint. -/
def sendCoh (s : Block) (ptype dslot line : Nat) (ext : BitVec 128) (st : Status) (data : List Byte) : Block :=
  sendCohHint s ptype dslot 0 line ext st data

/-! ### Recalls -/

/-- Positions of the set bits of a sharer set. -/
def sharerList (v : BitVec 96) : List Nat := (List.range 96).filter (fun k => bit v.toNat k)

/-- Send a recall for a line to the clusters of `targets`: INV or FWD (R344). The line enters B. -/
def startRecall (s : Block) (line : Nat) (fwd : Bool) (targets : BitVec 96) : Block :=
  let d := dirAt s line
  let tid := s.coh.nextTid
  let bay := ownSlot s / 8
  let s := { s with coh := { s.coh with nextTid := tid + 1 } }
  let s := dirPut s line { d with st := .b, tid := tid, acks := targets, fwd := fwd, wasM := d.st == .m, resent := false }
  (sharerList targets).foldl (fun s k =>
    sendCoh (sliceEvent s (line * 128) 4) 0x13 (8 * bay + k / 12) line
      (cohExt s tid.toNat (k % 12) (if fwd then 1 else 0) 0 0 false) .ok []) s

/-! ### Replacement and hints -/

/-- The lines of the cache in a line's set, the most recently used first. -/
def cacheSet (s : Block) (line : Nat) : List CLine := tget [] s.cache (setKey s line)
def cacheSetPut (s : Block) (line : Nat) (ws : List CLine) : Block := { s with cache := tset [] s.cache (setKey s line) ws }

/-- Write back and drop a line of the cache. -/
def cacheDrop (s : Block) (line : Nat) : Block :=
  match (cacheSet s line).find? (fun w => w.line == line) with
  | none => s
  | some w =>
    let s := if w.dirty then stackEvent s (line * 128) 2 else s
    cacheSetPut s line ((cacheSet s line).filter (fun w => w.line != line))

/-- A line must leave the cache: at once when no copy is outside, else after its copies have been recalled as for a write (R343). -/
def evict (s : Block) (line : Nat) : Block :=
  let d := dirAt s line
  if d.st = .u then cacheDrop s line
  else
    let s := cacheSetPut s line ((cacheSet s line).map (fun w => if w.line = line then { w with going := true } else w))
    if d.st = .b then s else startRecall s line false d.sharers

/-- Replacement: when more than `room` lines of a set are there to stay, the least recently used of them leaves (R278). -/
def cacheFit (s : Block) (line room : Nat) : Block :=
  let stay := (cacheSet s line).filter (fun w => !w.going)
  if stay.length ≤ room then s
  else match stay.getLast? with
    | some w => evict s w.line
    | none => s

/-- A line that is in the cache is used under a hint (R279). -/
def cacheHit (s : Block) (w : CLine) (hint : Nat) (write : Bool) : Block :=
  let s := sliceEvent s (w.line * 128) 1
  let w1 := { w with dirty := w.dirty || write }
  let rest := (cacheSet s w.line).filter (fun x => x.line != w.line)
  match hint with
  | 0 => cacheSetPut s w.line (w1 :: rest)
  | 1 => cacheSetPut s w.line ((cacheSet s w.line).map (fun x => if x.line = w.line then w1 else x))
  | _ =>
    let s := if w1.dirty then stackEvent s (w.line * 128) 2 else s
    evict (cacheSetPut s w.line ((cacheSet s w.line).map (fun x => if x.line = w.line then { w with dirty := false } else x))) w.line

/-- A line comes into the cache as the most recently used. -/
def cacheFill (s : Block) (line : Nat) (write full : Bool) : Block :=
  let s := if write && full then s else stackEvent s (line * 128) 1
  cacheFit (cacheSetPut s line (⟨line, write, false⟩ :: cacheSet s line)) line 16

/-- One access to a line of HBM under its hint (R279, R280). The data stand in memory; the cache decides only where an
access is counted and which lines it holds. `full` marks a write of the whole line. -/
def cacheTouch (s : Block) (a hint : Nat) (write full : Bool) : Block :=
  if hbmEnd ≤ a then s else
    let line := lineOf a
    match (cacheSet s line).find? (fun w => w.line == line) with
    | some w => cacheHit s w hint write
    | none =>
      let s := sliceEvent s a 2
      if hint = 0 then cacheFill s line write full else stackEvent s a (if write then 2 else 1)

/-- A combine works on the cached line: an absent line is allocated first, whatever the hint (R282). -/
def cacheCombine (s : Block) (a hint : Nat) : Block :=
  if hbmEnd ≤ a then s else
    let line := lineOf a
    match (cacheSet s line).find? (fun w => w.line == line) with
    | some w => cacheHit s w hint true
    | none =>
      let s := cacheFill (sliceEvent s a 2) line true false
      if hint = 2 then evict (stackEvent s a 2) line else s

/-- A line that a cluster takes stands in the cache, for the directory is inclusive (R343): under KEEP as the most recently
used; else an absent line comes in as the least recently used, and a present one stays there under STREAM and takes that place
under LAST (log 92). -/
def cacheLend (s : Block) (line hint : Nat) : Block :=
  match (cacheSet s line).find? (fun w => w.line == line) with
  | some w =>
    if hint ≤ 1 then cacheHit s w hint false
    else cacheSetPut (sliceEvent s (line * 128) 1) line ((cacheSet s line).filter (fun x => x.line != line) ++ [w])
  | none =>
    let s := sliceEvent s (line * 128) 2
    if hint = 0 then cacheFill s line false false
    else
      let s := cacheFit (stackEvent s (line * 128) 1) line 15
      cacheSetPut s line (cacheSet s line ++ [⟨line, false, false⟩])

/-! ### Corrected and uncorrectable errors -/

/-- Name of a row: its pseudo-channel page and its place in the page (R295). -/
def rowKey (s : Block) (a : Nat) : Nat :=
  let p := pageOf s a
  (p.pc * 196608 + p.page) * 16 + Config.rowInPage p.pc (physOf s a) % 16

/-- The device page of a row. -/
def rowPage (key : Nat) : RetPage := ⟨key / 16 / 196608, key / 16 % 196608⟩

/-- Retired pages of a stack. -/
def retiredCount (s : Block) (stack : Nat) : Nat := (s.ecc.retired.filter (fun p => p.pc / 32 == stack)).length

/-- Retire a page, or raise the table-full alarm (R298, R300). -/
def retirePage (s : Block) (stack : Nat) (p : RetPage) : Block :=
  if s.ecc.retired.contains p then s
  else if retiredCount s stack = 4096 then raiseAlarm s 0x08 (unitHbm stack) .ok 0
  else
    let s := { s with ecc := { s.ecc with retired := s.ecc.retired ++ [p] } }
    let s := odBump s 0x3030 7 4096
    let s := odBump s 0x3030 6 1
    let s := report s (unitHbm stack) 5 1 .ok 0
    raiseAlarm s 0x07 (unitHbm stack) .ok 0

/-- Whether a spare row of a bank group is free: four in each (R296). -/
def freeSpare (s : Block) (key : Nat) : Bool := decide (tget 0 s.ecc.spareUse (Config.bankGroup key) < 4)

/-- A row fails: it takes a spare and its soft repair starts, or its page is retired (R297). -/
def rowFailed (s : Block) (stack key : Nat) : Block :=
  if s.ecc.repairing.any (fun r => r.2 == key) then s else
    let start := fun (s : Block) =>
      let g := Config.bankGroup key
      { s with ecc := { s.ecc with
          repairing := s.ecc.repairing ++ [(stack, key)]
          spareUse := tset 0 s.ecc.spareUse g (tget 0 s.ecc.spareUse g + 1) } }
    match s.ecc.rows.find? (fun r => r.row == key) with
    | none => if freeSpare s key then start s else retirePage s stack (rowPage key)
    | some r =>
      if r.remaps < 2 ∧ freeSpare s key then start s else retirePage s stack (rowPage key)

/-- One corrected error of a row: tracked for 1,024 rows of a stack, the least recently counted leaving first (R295). -/
def rowCorrected (s : Block) (stack key : Nat) : Block :=
  let old := s.ecc.rowCe.filter (fun r => r.1 == stack && r.2.1 == key)
  let n := (old.map (fun r => r.2.2)).foldl (· + ·) 0 + 1
  let others := s.ecc.rowCe.filter (fun r => !(r.1 == stack && r.2.1 == key))
  let mine := others.filter (fun r => r.1 == stack)
  let others := if mine.length < 1024 then others
    else match mine.head? with
      | some v => others.erase v
      | none => others
  if odNat s 0x3020 2 ≤ n then
    rowFailed { s with ecc := { s.ecc with rowCe := others } } stack key
  else { s with ecc := { s.ecc with rowCe := others ++ [(stack, key, n)] } }

/-- Unit number named by an uncorrectable error: the stack's controller, the tile, or the Plumb cluster (R582). -/
def eccUnit (s : Block) (a : Nat) : Nat :=
  match placeOf a with
  | .hbm => unitHbm (stackOf s a)
  | .scratch t _ => unitTile t
  | _ => unitPlumb ((a - plumbBase) / 0x100000 % 64)

/-- What the error code of a word reports when address `a` is read (R290, R291, R582). A word already bad finds no
further error. -/
def eccRead (s : Block) (a : Nat) (e : Ecc) : Block :=
  match e with
  | .clean => s
  | .corrected =>
    let s := odBump s 0x3030 1 1
    if a < hbmEnd then rowCorrected (stackEvent s a 3) (stackOf s a) (rowKey s a) else s
  | .uncorrectable =>
    if unitBad s (a / 16) then s else
      let s := markBad s (lineOf a)
      let s := odBump s 0x3030 2 1
      let s := raiseAlarm s 0x06 (eccUnit s a) .memUncorrectable a
      if a < hbmEnd then rowFailed s (stackOf s a) (rowKey s a) else s

/-- A line whose only copy is lost is marked bad, counted and reported as an uncorrectable error is (R291, R346, R369). -/
def markLost (s : Block) (line : Nat) : Block :=
  raiseAlarm (odBump (markBad s line) 0x3030 2 1) 0x06 (eccUnit s (line * 128)) .memUncorrectable (line * 128)

/-! ### Clusters of this module -/

/-- Key of a line held by a cluster. -/
def heldKey (rackLine c : Nat) : Nat := 16 * rackLine + c

/-- No line. -/
def held0 : HeldLine := ⟨false, false, []⟩
def heldAt (s : Block) (rackLine c : Nat) : HeldLine := tget held0 s.coh.held (heldKey rackLine c)
def heldPut (s : Block) (rackLine c : Nat) (l : HeldLine) : Block :=
  { s with coh := { s.coh with held := tset held0 s.coh.held (heldKey rackLine c) l } }
/-- Whether a cluster holds a line: in S for reads, in M for writes. -/
def holds (s : Block) (rackLine c : Nat) (excl : Bool) : Bool :=
  let l := heldAt s rackLine c
  !l.data.isEmpty && (l.excl || !excl)

/-- A line reaches a cluster of this module: it is installed, or, when the cluster already holds its bytes, only its state
changes; harts that waited for it may issue again (R344). A refusal brings no bytes. -/
def deliverLine (s : Block) (rackLine c : Nat) (excl : Bool) (data : List Byte) : Block :=
  let old := heldAt s rackLine c
  let s := heldPut s rackLine c (if data.isEmpty then old else if old.data.isEmpty then ⟨excl, false, data⟩ else { old with excl := old.excl || excl })
  let s := { s with coh := { s.coh with asked := s.coh.asked.filter (fun q => !(q.line == rackLine && q.c == c)) } }
  { s with harts := s.harts.map (fun e =>
      if e.1 / 8 = c then
        match e.2.blocked with
        | some (.lines need) =>
          let left := need.filter (fun l => l != rackLine)
          (e.1, { e.2 with blocked := if left.isEmpty then none else some (.lines left) })
        | _ => e
      else e) }

/-! ### Operations at the home (R269, R326) -/

/-- Result of an AOP on an element of `n` bytes; none for a reserved code (R326). Bit 3 of `allow` admits ATOM's codes,
RED's are those `red` lists. -/
def aopResult (n aop m x cmp : Nat) : Option Nat :=
  let md := 2 ^ (8 * n)
  let sm := sx (8 * n) m
  let sxx := sx (8 * n) x
  let fmt := if n = 4 then fp32 else fp64
  match aop with
  | 0b00000 => some ((m + x) % md)
  | 0b00001 => some (x % md)
  | 0b00100 => some (m ^^^ (x % md))
  | 0b00101 => some (if m = cmp % md then x % md else m)
  | 0b00110 => some (if n = 4 then add32 m (x % md) else add64 m (x % md))
  | 0b01000 => some (m ||| (x % md))
  | 0b01100 => some (m &&& (x % md))
  | 0b10000 => some (if sm ≤ sxx then m else x % md)
  | 0b10100 => some (if sxx ≤ sm then m else x % md)
  | 0b11000 => some (if m ≤ x % md then m else x % md)
  | 0b11100 => some (if x % md ≤ m then m else x % md)
  | 0b10010 => some (fpMaxMinKept fmt false m (x % md))
  | 0b10110 => some (fpMaxMinKept fmt true m (x % md))
  | _ => none

/-- Codes that ATOM and RED carry (R326), SIGADD and SIGSET apart. -/
def atomAops : List Nat := [0, 1, 4, 5, 6, 8, 12, 16, 20, 24, 28]
def redAops : List Nat := [0, 6, 16, 20, 18, 22]

/-- The strict-mode check of an FP ADD combine (R419): answers the state with the tag taken, or ST_NONDET. -/
def strictCheck (s : Block) (a who : Nat) : Block × Option Status :=
  if !strictOn s then (s, none) else
    let table := homeDie s a
    let line := lineOf a
    let here := s.fab.tags.filter (fun t => t.table == table && t.line == line)
    if here.any (fun t => t.who != who) then
      (if table < 4 then report s (unitSlice table) 5 1 .nondet a else s, some .nondet)
    else if here.any (fun t => t.who == who) then (s, none)
    else if (s.fab.tags.filter (fun t => t.table == table)).length < 65536 then
      ({ s with fab := { s.fab with tags := s.fab.tags ++ [⟨table, line, who⟩] } }, none)
    else
      let s := odBump s 0x9000 5 1
      (if table < 4 then report s (unitSlice table) 5 1 .nondet a else s, some .nondet)

/-- The events of an AOP's arithmetic: those of an FP sum (R58). -/
def aopEv (n aop m x : Nat) : Ev :=
  if aop ≠ 0b00110 then ev0
  else
    let f := if n = 4 then fp32 else fp64
    let a := fpDecode f m
    let b := fpDecode f (x % 2 ^ (8 * n))
    let v := fvAdd a b
    evOf { fpRound f v with invalid := decide (v = .nan) && decide (a ≠ .nan) && decide (b ≠ .nan) }

/-- Whether an INT32 sum wraps (R183). -/
def sumWraps (n aop m x : Nat) : Bool :=
  n == 4 && aop == 0 && decide (sx 32 m + sx 32 x ≠ sx 32 ((m + x) % 2 ^ 32))

/-- Unit that combines at an address: the slice, the tile of a scratchpad, or the cluster of a local store. -/
def homeUnit (s : Block) (a : Nat) : Nat :=
  match placeOf a with
  | .hbm => unitSlice (dieOf s a)
  | .scratch t _ => unitTile t
  | _ => unitPlumb ((a - plumbBase) / 0x100000 % 64)

/-- An element is combined where it stands: the check of the line, the strict check of FP ADD, then the operation; answers the
status and the old value (R282, R419). -/
def combineElem (s : Block) (who : Requester) (tag a n aop x cmp : Nat) : Block × Status × Nat :=
  match lineStatus s who .rmw a n with
  | some st => (s, st, 0)
  | none =>
    let (s, bad) := if aop = 0b00110 then strictCheck s a tag else (s, none)
    match bad with
    | some st => (s, st, 0)
    | none =>
      let m := memLe s a n
      match aopResult n aop m x cmp with
      | none => (s, .malformed, 0)
      | some v => (memWrite (countArith s (homeUnit s a) (aopEv n aop m x)) a (natLe n v), .ok, m)

/-- A request that combines is one access of its line, and one atomic or combine of its slice (R282, R515). -/
def combineSeen (s : Block) (a hint : Nat) : Block :=
  let s := cacheCombine s a hint
  if a < hbmEnd then sliceEvent s a 3 else s

/-- An atomic at its home (R282, R326). -/
def combineAt (s : Block) (who : Requester) (tag hint a n aop x cmp : Nat) : Block × Status × Nat :=
  let r := combineElem s who tag a n aop x cmp
  if r.2.1 = .ok then (combineSeen r.1 a hint, r.2) else r

/-- Elements of one line, in the order given, each with its address; the first refusal ends them (R184, R326). INT32 sums that
wrap are counted (R183). -/
def combineEach (who : Requester) (tag n aop : Nat) : List (Nat × Nat) → Block → Block × Status
  | [], s => (s, .ok)
  | (a, x) :: t, s =>
    let r := combineElem s who tag a n aop x 0
    if r.2.1 = .ok then combineEach who tag n aop t (tallyAdd r.1 (homeUnit s a) .wrap (sumWraps n aop r.2.2 x).toNat)
    else (r.1, r.2.1)

/-- Elements of `n` bytes that stand one after another from an address. -/
def elemsAt (n : Nat) : Nat → List Byte → Nat → List (Nat × Nat)
  | 0, _, _ => []
  | k + 1, bs, a => (a, leNat (bs.take n)) :: elemsAt n k (bs.drop n) (a + n)

/-- A combine of a line's elements as one request: the cache sees it once when an element is applied (R185, R282). -/
def combineAll (s : Block) (who : Requester) (tag hint n aop : Nat) (es : List (Nat × Nat)) : Block × Status :=
  match es with
  | [] => (s, .ok)
  | (a, x) :: t =>
    let r := combineElem s who tag a n aop x 0
    if r.2.1 ≠ .ok then (r.1, r.2.1)
    else combineEach who tag n aop t (tallyAdd (combineSeen r.1 a hint) (homeUnit s a) .wrap (sumWraps n aop r.2.2 x).toNat)

/-! ### Requests at the home -/

/-- Owner unit of a request by its REQ: the cluster of a hart, a Truss engine, Sketch (R315, R347). -/
def requesterOf (slot req : Nat) : Requester :=
  if req < 96 then some (slot, req / 8)
  else if 608 ≤ req ∧ req < 624 then some (slot, 16 + (req - 608))
  else if req = 624 then some (slot, 32)
  else none

/-- Tag of strict mode: source slot and REQ (R419). -/
def strictTag (slot req : Nat) : Nat := slot * 1024 + req

/-- Whether a request changes its line, or asks for the only copy. -/
def reqWrites : HomeReq → Bool
  | .rd _ _ => false
  | .cget _ excl _ _ => excl
  | _ => true

/-- Bit of an agent in SHARERS: bay position and cluster (R343). -/
def sharerBit (a : Agent) : Nat := 12 * (a.slot.val % 8) + a.cluster.val

/-- Whether an agent owns the region of a line under an entry (R342, R350). -/
def agentOwns (s : Block) (a : Agent) (line : Nat) : Bool :=
  (ownEntries s (regionOf (line * 128))).any (fun e => e.oslot == a.slot.val && e.ounit == a.cluster.val && !e.lost)

/-- The replay entry of a tagged request (R328). -/
def replayPut (s : Block) (e : RepEnt) : Block := { s with fab := { s.fab with replay := s.fab.replay ++ [e] } }

/-- The payload of ATOMRSP and REDRSP (R311). -/
def rspSlot (s : Block) (old : Nat) : BitVec 128 := BitVec.ofNat 128 (old % 2 ^ 64 + homeEpoch s * 2 ^ 64)

/-- Write bytes at the home: the marks of whole words are cleared and the cache sees the access (R210, R279, R292). -/
def homeWrite (s : Block) (a hint : Nat) (d : List Byte) : Block :=
  let s := (linePieces a d.length).foldl (fun s p => cacheTouch s p.1 hint true (p.2 == 128)) s
  clearBad (memWrite s a d) a d.length

/-- Read bytes at the home. -/
def homeRead (s : Block) (a hint n : Nat) : Block × List Byte :=
  ((linePieces a n).foldl (fun s p => cacheTouch s p.1 hint false false) s, memRead s a n)

/-- A transaction stays open until the requester's final CACK (R348). -/
def openTx (s : Block) (o : CohOpen) : Block := { s with coh := { s.coh with opened := s.coh.opened ++ [o] } }

/-- Serve a request whose line is free (R325, R329, R344). -/
def homeApply (s : Block) (line : Nat) (r : HomeReq) : Block :=
  match r with
  | .rd p n =>
    match accessStatus s (requesterOf p.sslot p.req.toNat) .read p.addr.toNat n with
    | some (st, _) => respond s p 0x02 0 st []
    | none =>
      let (s, bs) := homeRead s p.addr.toNat p.hint.toNat n
      respond s p 0x02 0 .ok (payloadSlots bs)
  | .wr p d =>
    match accessStatus s (requesterOf p.sslot p.req.toNat) .write p.addr.toNat d.length with
    | some (st, _) => respond s p 0x04 0 st []
    | none => respond (homeWrite s p.addr.toNat p.hint.toNat d) p 0x04 0 .ok []
  | .bulk p d =>
    match accessStatus s (requesterOf p.sslot p.req.toNat) .write p.addr.toNat d.length with
    | some (st, _) => respond s p 0x31 0 st []
    | none => respond (homeWrite s p.addr.toNat p.hint.toNat d) p 0x31 0 .ok []
  | .atom p x opnd cmp =>
    let n := if x.w64 then 8 else 4
    let (s, st, old) := combineAt s (requesterOf p.sslot p.req.toNat) (strictTag p.sslot p.req.toNat) p.hint.toNat p.addr.toNat n
      x.aop.toNat opnd.toNat cmp.toNat
    let s := replayPut s ⟨p.sslot, p.req.toNat, x.seq.toNat, st, BitVec.ofNat 64 old⟩
    respond s p 0x06 x.seq.toNat st [rspSlot s old]
  | .red p x d =>
    let n := if x.w64 then 8 else 4
    let who := requesterOf p.sslot p.req.toNat
    let (s, st) := match accessStatus s who .rmw p.addr.toNat d.length with
      | some (st, _) => (s, st)
      | none => combineAll s who (strictTag p.sslot p.req.toNat) p.hint.toNat n x.aop.toNat (elemsAt n (d.length / n) d p.addr.toNat)
    let s := replayPut s ⟨p.sslot, p.req.toNat, x.seq.toNat, st, 0⟩
    respond s p 0x09 x.seq.toNat st [rspSlot s 0]
  | .cget a excl tid hint =>
    let c := a.cluster.val
    let own := a.slot.val == ownSlot s
    let rackLine := (ownAddr s (line * 128)) / 128
    match lineStatus s (some (a.slot.val, c)) (if excl then .rmw else .read) (line * 128) 128 with
    | some st =>
      if own then deliverLine s rackLine c false []
      else sendCoh (openTx s ⟨a.slot, c, line, excl, tid, st⟩) 0x14 a.slot line (cohExt s tid.toNat c 0 0 0 false) st []
    | none =>
      let s := if agentOwns s a line then cacheTouch s (line * 128) hint false false else cacheLend s line hint
      let data := memRead s (line * 128) 128
      let d := dirAt s line
      let s := if agentOwns s a line then s
        else if excl then dirPut s line { d with st := .m, sharers := BitVec.ofNat 96 (2 ^ sharerBit a), wasM := true }
        else dirPut s line { d with st := .s, sharers := d.sharers ||| BitVec.ofNat 96 (2 ^ sharerBit a) }
      if own then deliverLine s rackLine c excl data
      else sendCoh (openTx s ⟨a.slot, c, line, excl, tid, .ok⟩) 0x14 a.slot line (cohExt s tid.toNat c 0 0 0 true) .ok data
  | .inner who hint a d =>
    match accessStatus s who .write a d.length with
    | some _ => s
    | none => homeWrite s a hint d
  | .amo h who hint aop a n opnd cmp =>
    let (s, st, old) := combineAt s who (strictTag (ownSlot s) h) hint a n aop opnd cmp
    atomDone s h st old
  | .own _ _ _ => s

/-! ### What keeps a request from being served -/

/-- What keeps a request from being served now: a protected granule, a recall it needs, or the repair of a row in the bank group of a
line that is not in the cache (R296, R344, R456). -/
inductive Blocker where
  | free
  | bank
  | granule (j : Nat)
  | recall (fwd : Bool) (targets : BitVec 96)
deriving DecidableEq, Repr

/-- The recall that an access needs of the directory state of its line (R344). -/
def dirBlocker (d : DirEnt) (writes : Bool) (self : Option Nat) : Blocker :=
  let me := match self with
    | some k => BitVec.ofNat 96 (2 ^ k)
    | none => 0
  match d.st with
  | .u => .free
  | .b => .free
  | .s => if writes then (let o := d.sharers &&& ~~~me; if o = 0 then .free else .recall false o) else .free
  | .m => if d.sharers = me then .free else .recall (!writes) d.sharers

/-- Whether a line lies in a bank group under repair, and not in the cache (R296). -/
def bankBusy (s : Block) (line : Nat) : Bool :=
  !s.ecc.repairing.isEmpty &&
    (s.ecc.repairing.any (fun r => Config.bankGroup r.2 == Config.bankGroup (rowKey s (line * 128))) &&
      (cacheSet s line).all (fun w => w.line != line))

/-- What stands in the way of a line once its copies do not. -/
def bankBlocker (s : Block) (line : Nat) (b : Blocker) : Blocker := if b = .free ∧ bankBusy s line then .bank else b

/-- The blocker of a request at a line. -/
def blockerOf (s : Block) (line : Nat) (r : HomeReq) : Blocker :=
  let w := reqWrites r
  let stores := match r with
    | .own _ _ _ => false
    | .cget _ excl _ _ => excl
    | .rd _ _ => false
    | _ => true
  match (if stores then protectedGranule s (line * 128) else none) with
  | some j => .granule j
  | none =>
    let self := match r with
      | .cget a _ _ _ => some (sharerBit a)
      | _ => none
    bankBlocker s line (dirBlocker (dirAt s line) w self)

/-- The requests that wait for a line. -/
def waitingAt (s : Block) (line : Nat) : List HomeReq := tget [] s.coh.waiting line
def waitingPut (s : Block) (line : Nat) (l : List HomeReq) : Block :=
  { s with coh := { s.coh with waiting := tset [] s.coh.waiting line l } }

/-- Ask Sketch for a priority copy of a granule, once (R456, R457). -/
def askCopy (s : Block) (j : Nat) : Block :=
  match s.sketch.gen with
  | some g => if g.queue.contains j then s
    else { s with sketch := { s.sketch with gen := some { g with queue := g.queue ++ [j] } } }
  | none => s

/-- A request that waits on a protected granule is counted (R457). -/
def countStall (s : Block) : Block :=
  let s := odBump s 0xA020 1 1
  match s.sketch.gen with
  | some g => { s with sketch := { s.sketch with gen := some { g with stalls := g.stalls + 1 } } }
  | none => s

/-- Number of the source unit of a request at the schedulers: its slot and REQ, the clusters and the module's own units apart
(R338; log 96). -/
def reqSource (s : Block) (r : HomeReq) : Nat :=
  match r with
  | .rd p _ => 1024 * p.sslot + p.req.toNat
  | .wr p _ => 1024 * p.sslot + p.req.toNat
  | .bulk p _ => 1024 * p.sslot + p.req.toNat
  | .atom p _ _ _ => 1024 * p.sslot + p.req.toNat
  | .red p _ _ => 1024 * p.sslot + p.req.toNat
  | .cget a _ _ _ => 1024 * 128 + 16 * a.slot.val + a.cluster.val
  | .amo h _ _ _ _ _ _ _ => 1024 * ownSlot s + h.val
  | .inner _ _ _ _ => 1024 * ownSlot s + 1023
  | .own slot unit _ => 1024 * 192 + 64 * slot + unit

/-- A requester of this module that is held in reset is masked out of the rounds and keeps its rank (R336). A unit with a request has
work, so none that waits here is powered off (R35). -/
def reqMasked (s : Block) (r : HomeReq) : Bool :=
  match r with
  | .amo h _ _ _ _ _ _ _ => (hartAt s h).held
  | .cget a _ _ _ => a.slot.val == ownSlot s &&
      (List.range 8).all (fun k => (hartAt s (8 * a.cluster.val + k)).held)
  | _ => false

/-- Serve the first request that waits for a line. -/
def serveHead (s : Block) (line : Nat) (r : HomeReq) (t : List HomeReq) : Block :=
  let p := pointChannel (channelOf s (128 * line))
  let w := reqSource s r
  let s := waitingPut s line t
  let more := s.coh.waiting.any (fun e => channelOf s (128 * e.1) == channelOf s (128 * line) && e.2.any (fun x => reqSource s x == w))
  homeApply (if tget 0 (arbAt s p).since w = 0 ∨ more then s else arbDrop s p w) line r

/-- Serve the requests that wait for a line, in arrival order, until one must wait again (R345, R456). -/
def drainLine (line : Nat) : Nat → Block → Block
  | 0, s => s
  | fuel + 1, s =>
    -- No access of a new job is served before the zeroing ends (R273).
    if (dirAt s line).st = .b ∨ s.launch.zeroing then s else
      match waitingAt s line with
      | [] => s
      | r :: t =>
        match blockerOf s line r with
        | .free => drainLine line fuel (serveHead s line r t)
        | .bank => s
        | .granule j => askCopy s j
        | .recall fwd tg => startRecall s line fwd tg

/-- The lines whose first request could be served now, with that request and the rest. -/
def readyHeads (s : Block) : List (Nat × HomeReq × List HomeReq) :=
  s.coh.waiting.filterMap (fun e =>
    match e.2 with
    | [] => none
    | r :: t => if (dirAt s e.1).st ≠ .b ∧ blockerOf s e.1 r = .free ∧ !reqMasked s r then some (e.1, r, t) else none)

/-- Requests of several lines that could be served together go in the order that the arbiters of their pseudo-channels grant them
(R34, R335, R338). -/
def serveReady : Nat → Block → Block
  | 0, s => s
  | fuel + 1, s =>
    let hs := readyHeads s
    match hs with
    | [] => s
    | (l0, _, _) :: _ =>
      let c := channelOf s (128 * l0)
      let here := hs.filter (fun h => channelOf s (128 * h.1) == c)
      let ids := (here.map (fun h => reqSource s h.2.1)).dedup
      match arbGrant s (pointChannel c) (odNat s 0x6200 1) (odNat s 0x6200 2) ids ids (fun _ => false) with
      | none => s
      | some (w, s1) =>
        match here.find? (fun h => reqSource s h.2.1 == w) with
        | some (line, r, t) => serveReady fuel (serveHead s1 line r t)
        | none => s1

/-- Requests that wait at the homes. -/
def waitingCount (s : Block) : Nat := s.coh.waiting.foldl (fun n e => n + e.2.length) 0

/-- Serve every line that has waiting requests. -/
def drainAll (s : Block) : Block :=
  let s := if s.launch.zeroing then s else serveReady (waitingCount s) s
  s.coh.waiting.foldl (fun s e => drainLine e.1 (e.2.length + 1) s) s

/-- A request arrives at its line: it joins the requests that wait there, and is served at once when nothing stands in its
way (R32, R345, R456). -/
def homeAdmit (s : Block) (line : Nat) (r : HomeReq) : Block :=
  let q := waitingAt s line
  let s := match blockerOf s line r with
    | .granule _ => countStall s
    | _ => s
  let s := drainLine line (q.length + 2) (waitingPut s line (q ++ [r]))
  if (waitingAt s line).isEmpty then s else arbRaise s (pointChannel (channelOf s (128 * line))) (reqSource s r)

/-- An answered recall leaves the sharer out; when none is missing, the line leaves B and waiting requests proceed. -/
def recallDone (s : Block) (line : Nat) (d : DirEnt) : Block :=
  if d.acks ≠ 0 then dirPut s line d
  else
    let st : DirState := if d.sharers = 0 then .u else .s
    let s := dirPut s line { d with st := st, tid := 0, wasM := false, fwd := false, resent := false }
    -- A victim leaves the cache once its copies are gone (R343).
    if (cacheSet s line).any (fun w => w.line == line && w.going) then
      if st = .u then (let s := cacheDrop s line; drainLine line ((waitingAt s line).length + 1) s)
      else startRecall s line false d.sharers
    else drainLine line ((waitingAt s line).length + 1) s

/-- A recall answer of one cluster (R344): returned data are written at the home. -/
def recallAnswer (s : Block) (line k : Nat) (data : Option (List Byte)) : Block :=
  let d := dirAt s line
  let s := match data with
    | some bs => clearBad (memWrite (cacheTouch s (line * 128) 0 true true) (line * 128) bs) (line * 128) bs.length
    | none => s
  let me := BitVec.ofNat 96 (2 ^ k)
  let acks := d.acks &&& ~~~me
  let sharers := if d.fwd then d.sharers else d.sharers &&& ~~~me
  recallDone s line { d with acks := acks, sharers := sharers }

/-! ### Accesses by units of this module that hold no copies (R341) -/

/-- What keeps a local unit's access to `[a, a + n)` from being served now, with the line (R344, R456). -/
def unitBlocker (s : Block) (a n : Nat) (write : Bool) : Option (Nat × Blocker) :=
  (linesOf a n).findSome? (fun l =>
    if hbmEnd ≤ l * 128 then none
    else if (dirAt s l).st = .b ∨ !(waitingAt s l).isEmpty then some (l, .free)
    else
      match (if write then protectedGranule s (l * 128) else none) with
      | some j => some (l, .granule j)
      | none =>
        match bankBlocker s l (dirBlocker (dirAt s l) write none) with
        | .free => none
        | b => some (l, b))

/-- Whether a local unit's access can be served now. -/
def unitFree (s : Block) (a n : Nat) (write : Bool) : Bool := (unitBlocker s a n write).isNone

/-- A local unit's access must wait: ask for what it needs; the unit tries again. -/
def unitAsk (s : Block) (a n : Nat) (write : Bool) : Block :=
  match unitBlocker s a n write with
  | none => s
  | some (_, .free) => s
  | some (_, .bank) => s
  | some (_, .granule j) => askCopy s j
  | some (l, .recall fwd tg) => startRecall s l fwd tg

/-- A write that the module itself makes in its own HBM, such as a ledger entry: it is served at the homes of its lines in
their order, under the hint of the unit (R280). -/
def innerWrite (s : Block) (who : Requester) (hint a : Nat) (d : List Byte) : Block :=
  (linePieces a d.length).foldl (fun s p => homeAdmit s (lineOf p.1) (.inner who hint p.1 ((d.drop (p.1 - a)).take p.2))) s

end Sys2Proof.Machine
end

