-- ==== Sys2Proof/Machine/Fabric.lean ====
section
/-! DEFINITION. The sending side of Tenon: ordered streams (R322, R323), outstanding requests, tagged requests (R328 to R333). -/

namespace Sys2Proof.Machine

open Sys2Proof

/-! ### Ordered streams -/

/-- Key of an ordered stream: requester, destination and line (R322). -/
def streamKey (req d a : Nat) : Nat := (req * 128 + d) * 2 ^ 34 + bits a 7 34

/-! ### Outstanding requests -/

/-- Packet types that are tagged requests (R328). -/
def isTagged (ptype : Nat) : Bool := ptype == 0x05 || ptype == 0x08 || ptype == 0x3E

/-- The timeout of a request to a slot, in nanoseconds (R332). -/
def reqLimit (s : Block) (d : Nat) : Nat :=
  1000 * (if d / 8 = ownSlot s / 8 then odNat s 0x6020 1 else odNat s 0x6020 2)

/-- A request that must wait: its ordered stream has a re-sent request outstanding (R324), or 4,096 tagged requests to the
destination are not yet released (R328). -/
def mustWait (s : Block) (p : Packet) : Bool :=
  s.fab.outst.any (fun o => o.resent && o.pkt.req == p.req && o.pkt.dslot == p.dslot &&
      o.pkt.addr / 128 == p.addr / 128 && !o.timedOut) ||
  s.fab.held.any (fun o => o.pkt.req == p.req && o.pkt.dslot == p.dslot && o.pkt.addr / 128 == p.addr / 128) ||
  (isTagged p.ptype &&
    decide (4096 ≤ (s.fab.outst.filter (fun o => isTagged o.pkt.ptype && o.pkt.dslot == p.dslot)).length))

/-- The plane of an ordered stream with requests outstanding stays; another is chosen afresh (R323). -/
def streamPlane (s : Block) (req d a : Nat) : Option Nat :=
  let k := streamKey req d a
  let cur := tget 0 s.fab.streams k
  if cur ≠ 0 ∧ planeAlive s (cur - 1) d then some (cur - 1) else planeFor s a d

/-- A stream takes a plane; a change from another plane is counted (R323). -/
def setStreamPlane (s : Block) (key k : Nat) : Block :=
  let cur := tget 0 s.fab.streams key
  let s := { s with fab := { s.fab with streams := tset 0 s.fab.streams key (k + 1) } }
  if cur = 0 ∨ cur = k + 1 then s else report (odBump s 0x6030 4 1) (unitPort (cur - 1)) 4 1 .ok key

/-- Put a request on its plane. -/
def launchReq (s : Block) (o : Outst) : Block :=
  match streamPlane s o.pkt.req o.pkt.dslot o.pkt.addr with
  | none => { s with fab := { s.fab with held := s.fab.held ++ [o] } }
  | some k =>
    let pkt := { o.pkt with plane := some k, pgen := tget 0 s.fab.gen o.pkt.dslot }
    let key := streamKey o.pkt.req o.pkt.dslot o.pkt.addr
    let s := setStreamPlane s key k
    sendPkt { s with fab := { s.fab with outst := s.fab.outst ++ [{ o with pkt := pkt }] } } pkt

/-- Send a request of this module to another slot: refused with ST_BAD_ADDRESS for no slot, with ST_UNREACHABLE when no
plane is usable (R206, R321); otherwise it leaves, or waits under R324 and R328. Tagged requests take the next SEQ. -/
def sendReq (s : Block) (ptype d req addr hint szst : Nat) (payload : List (BitVec 128)) (whom : OutFor) :
    Block × Status :=
  if 72 ≤ d then (s, .badAddress)
  else if (planeFor s addr d).isNone then (s, .unreachable)
  else
    let tagged := isTagged ptype
    let key := req * 128 + d
    let seq := if tagged then tget 0 s.fab.nextSeq key else 0
    let s := if tagged then { s with fab := { s.fab with nextSeq := tset 0 s.fab.nextSeq key ((seq + 1) % 65536) } } else s
    let pkt : Packet := ⟨ptype, d, none, false, req, seq, 0, hint, addr % 2 ^ 41, szst, payload⟩
    let o : Outst := ⟨pkt, whom, hallNow s, false, false⟩
    if mustWait s pkt then ({ s with fab := { s.fab with held := s.fab.held ++ [o] } }, .ok)
    else (launchReq s o, .ok)

/-- The extension slot of a tagged request (R311). -/
def tagExt (s : Block) (d aop : Nat) (w64 : Bool) : BitVec 128 :=
  BitVec.ofNat 128 (aop + (if w64 then 32 else 0) + tget 0 s.fab.hepoch d * 2 ^ 32 + homeEpoch s * 2 ^ 64)

/-- Send an ATOM (R310, R326). -/
def sendAtom (s : Block) (d req addr hint aop : Nat) (w64 : Bool) (opnd cmp : Nat) (whom : OutFor) : Block × Status :=
  sendReq s 0x05 d req addr hint 0 [tagExt s d aop w64, BitVec.ofNat 128 (opnd % 2 ^ 64 + (cmp % 2 ^ 64) * 2 ^ 64)] whom

/-- Send an ABORT message for a sync object of another module (R314). -/
def sendAbort (s : Block) (d req obj : Nat) : Block :=
  (sendReq s 0x3E d req obj 0 0 [tagExt s d 0 false] .abortMsg).1

/-- Send a remote read of one line piece (R325). -/
def sendRead (s : Block) (d req addr hint n : Nat) (whom : OutFor) : Block × Status :=
  sendReq s 0x01 d req addr hint (n - 1) [] whom

/-- Send a remote write within one line (R325). -/
def sendWrite (s : Block) (d req addr hint : Nat) (data : List Byte) (whom : OutFor) : Block × Status :=
  sendReq s 0x03 d req addr hint (data.length - 1) (payloadSlots data) whom

/-- Send a remote combine of data within one line (R326). -/
def sendRed (s : Block) (d req addr hint aop : Nat) (w64 : Bool) (data : List Byte) (whom : OutFor) : Block × Status :=
  sendReq s 0x08 d req addr hint (data.length - 1) (tagExt s d aop w64 :: payloadSlots data) whom

/-- Send held requests that need wait no longer, in issue order. -/
def releaseHeld (s : Block) : Block :=
  let q := s.fab.held
  q.foldl (fun s o => if mustWait s o.pkt then { s with fab := { s.fab with held := s.fab.held ++ [o] } } else launchReq s o)
    { s with fab := { s.fab with held := [] } }

/-- Release a tagged request: ATOMACK to the home (R330). The port keeps it until its flit is acknowledged, so that it can go
again on a substitute plane. -/
def sendAtomAck (s : Block) (d req seq addr : Nat) : Block :=
  match planeFor s addr d with
  | none => s
  | some k =>
    let pkt : Packet := ⟨0x07, d, some k, false, req, seq, tget 0 s.fab.gen d, 0, addr, 0, []⟩
    sendPkt s pkt

end Sys2Proof.Machine
end

