-- ==== Sys2Proof/Machine/Sync.lean ====
section
/-! DEFINITION. Sync objects (R203 to R207), barriers (R427 to R431), the ledger's ring (R439, R442), the start of a sketch
generation (R452 to R454), and the end of a stream (R192 to R195, R215). -/

namespace Sys2Proof.Machine

open Sys2Proof

/-! ### Writing ledger entries to the ring (R439, R442) -/

/-- Bytes of the ring that hold no unexported entry. -/
def ledgerFree (s : Block) : Nat := odNat s 0x9300 2 - s.ledger.lens.foldl (· + ·) 0

/-- Place one entry at the write pointer; an entry may cross the ring's end. -/
def ledgerPlace (s : Block) (e : List Byte) : Block :=
  let size := odNat s 0x9300 2
  let base := odNat s 0x9300 1
  let off := s.ledger.wptr % size
  let head := e.take (size - off)
  let tail := e.drop (size - off)
  let s := innerWrite s none 0 (base + off) head
  let s := if tail.isEmpty then s else innerWrite s none 0 base tail
  { s with ledger := { s.ledger with wptr := s.ledger.wptr + e.length, lens := s.ledger.lens ++ [e.length] } }

/-- The oldest entries given up so that `need` bytes are free: how many, and the lengths left. -/
def ledgerDrop (size need : Nat) : List Nat → Nat → Nat × List Nat
  | [], n => (n, [])
  | l :: t, n => if (l :: t).foldl (· + ·) 0 + need ≤ size then (n, l :: t) else ledgerDrop size need t (n + 1)

/-- Write the waiting entries while the ring takes them; under WRAP the oldest unexported ones give way and a GAP entry
tells how many (R442). -/
def ledgerFlushN : Nat → Block → Block
  | 0, s => s
  | fuel + 1, s =>
    match s.ledger.waiting with
    | [] => s
    | e :: rest =>
      if e.length ≤ ledgerFree s then
        ledgerFlushN fuel (ledgerPlace { s with ledger := { s.ledger with waiting := rest } } e)
      else if odNat s 0x9300 4 = 1 then
        let (n, left) := ledgerDrop (odNat s 0x9300 2) (e.length + 32) s.ledger.lens 0
        let s := { s with ledger := { s.ledger with lens := left, waiting := rest } }
        let s := odPut s 0x9300 5 ((odNat s 0x9300 5 + n) % 2 ^ 32)
        let s := ledgerPlace s e
        ledgerFlushN fuel (ledgerPut s 9 (natLe 8 n ++ natLe 8 0))
      else s

/-- Write the waiting entries of the ledger. -/
def ledgerFlush (s : Block) : Block := ledgerFlushN (2 * s.ledger.waiting.length + 2) s

/-! ### Groups and their formation tree (R374, R377) -/

def group0 : Group := ⟨0, false, false, 0, 0, 0, 0, 0, 0, 0, 0, [], 0, [], [], []⟩
def groupAt (s : Block) (i : Nat) : Group := tget group0 s.truss.groups i
def groupPut (s : Block) (i : Nat) (g : Group) : Block :=
  { s with truss := { s.truss with groups := tset group0 s.truss.groups i g } }
/-- The entry that holds a GID. -/
def groupByGid (s : Block) (gid : Nat) : Option (Nat × Group) :=
  s.truss.groups.find? (fun e => e.2.gid == gid && e.2.state != 0)
/-- Parent of rank r > 0. -/
def treeParent (r : Nat) : Nat := (r - 1) / 8
/-- Children of a rank. -/
def treeChildren (m r : Nat) : List Nat := ((List.range 8).map (fun k => 8 * r + k + 1)).filter (fun c => decide (c < m))

/-! ### Members and planes (R375, R392, R393) -/

/-- No member. -/
def member0 : Member := ⟨0, 127, false⟩
/-- The member of a rank. -/
def memberAt (g : Group) (rank : Nat) : Member := g.members.getD rank member0

/-- A plane usable toward a member: for another rack, one whose port carries traffic and whose switch is heard (R321, R393). -/
def memberPlane (s : Block) (m : Member) (k : Nat) : Option Nat :=
  ((List.range 18).map (fun i => (k + i) % 18)).find? (fun p =>
    if m.rack.toNat = ownRack s then planeUsable s p m.slot.toNat else portUp s p && !(planeAt s p).lost)

/-- Nominal plane of packet `j` of a piece (R392). -/
def railPlane (rails j srank drank : Nat) : Nat := ((j % rails) * 18 / rails + (srank + drank) % (18 / rails)) % 18

/-! ### Starting a sketch generation (R452 to R454) -/

/-- Whether a release with this TREL triggers a sketch of step `n` (R452). -/
def sketchTriggers (s : Block) (n trel : Nat) : Bool :=
  match s.sketch.armed with
  | some a =>
    if a.mode = 1 then n % a.period.toNat == 0
    else if a.mode = 2 then decide (s.sketch.lastTrel.toNat / a.period.toNat < trel / a.period.toNat)
    else false
  | none => false

/-- Length of the shard in bytes (R449). -/
def shardLength (a : ArmSt) : Nat := a.extents.foldl (fun n e => n + e.2) 0

/-- Whether a module line belongs to the shard. -/
def lineInShard (a : ArmSt) (line : Nat) : Bool := (shardOffset a.extents (line * 128) 0).isSome

/-- A generation as its trigger begins it. -/
def newGen (step trel : Word) (phase : GenPhase) (state : Nat) (st : Status) (protect : List Nat) : GenSt :=
  ⟨step, trel, phase, state, st, protect, [], [], 0, 0, 0, [], [], 0, .ok, 0xFFFFFFFF, false, [], []⟩

/-- Arming begins: every shard granule is protected and every shard line held in M is recalled to S (R454). A trigger that
falls while a generation is in progress is skipped (R453). -/
def beginArming (s : Block) (trel : Nat) : Block :=
  match s.sketch.armed, s.sketch.gen with
  | some a, none =>
    let g := newGen (BitVec.ofNat 64 (stepCounter s)) (BitVec.ofNat 64 trel) .arming 0 .ok (List.range (shardLength a / 65536))
    let s := { s with sketch := { s.sketch with gen := some g } }
    let s := odPut s 0xA000 2 2
    let lines := (s.coh.dir.filter (fun e => e.2.st == .m && lineInShard a e.1)).map (·.1)
    lines.foldl (fun s l => startRecall s l true (dirAt s l).sharers) s
  | some _, some _ =>
    let skip := (BitVec.ofNat 64 (stepCounter s), BitVec.ofNat 64 trel)
    odBump { s with sketch := { s.sketch with skips := s.sketch.skips ++ [skip] } } 0xA020 6 1
  | none, _ => s

/-! ### Barriers (R427, R428) -/

def barrier0 : BarrierSt := ⟨2 ^ 64, 0, 0, [], none, none⟩
def barrierAt (s : Block) (b : Nat) : BarrierSt := tget barrier0 s.barriers b
def barrierPut (s : Block) (b : Nat) (x : BarrierSt) : Block := { s with barriers := tset barrier0 s.barriers b x }
/-- Fields of a barrier entry (R427). -/
def barrierEn (x : BarrierSt) : Bool := bit x.cfg 0
def barrierStep (x : BarrierSt) : Bool := bit x.cfg 1
def barrierGidx (x : BarrierSt) : Nat := bits x.cfg 8 10
def barrierArriveObj (x : BarrierSt) : Nat := bits x.cfg 32 14
def barrierReleaseObj (x : BarrierSt) : Nat := bits x.cfg 48 14
def barrierParties (x : BarrierSt) : Nat := bits x.cfg 64 16

/-- Generation number carried in packets: that of the generation in progress. -/
def barrierGen10 (x : BarrierSt) : BitVec 10 := BitVec.ofNat 10 (x.gen.toNat + 1)

/-- A BARRIER packet to a member: requester 625, one payload slot (R315, R429). -/
def barrierSend (s : Block) (g : Group) (drank : Nat) (release : Bool) (gen10 : BitVec 10) (trel : Word) : Block :=
  let m := memberAt g drank
  let slot := g.gid % 2 ^ 32 + ownRack s * 2 ^ 32 + m.rack.toNat * 2 ^ 42 + gen10.toNat * 2 ^ 52 +
    (if release then 2 ^ 62 else 0) + trel.toNat * 2 ^ 64
  match memberPlane s m (railPlane 1 0 g.rank drank) with
  | none => s
  | some k => sendPkt s ⟨0x20, m.slot.toNat, some k, false, 625, 0, tget 0 s.fab.gen m.slot.toNat, 0, 0, 0, [BitVec.ofNat 128 slot]⟩

/-- An arrival as it is kept: the child's rank and the generation it arrives at. -/
def arrivalKey (gen10 : BitVec 10) (rank : Nat) : Nat := gen10.toNat * 2 ^ 20 + rank

/-- A release is set: it goes down the tree, and a triggering step release begins arming (R428, R454). -/
def barrierReleaseSet (s : Block) (b : Nat) (trel : Word) : Block :=
  let x := barrierAt s b
  let g := groupAt s (barrierGidx x)
  let s := barrierPut s b { x with release := some trel }
  let s := (treeChildren g.m g.rank).foldl (fun s c => barrierSend s g c true (barrierGen10 x) trel) s
  if barrierStep x && sketchTriggers s (stepCounter s) trel.toNat then beginArming s trel.toNat else s

/-- A member that has arrived and holds its children's arrivals tells its parent; rank 0 sets TREL (R428). -/
def barrierUp (s : Block) (b : Nat) : Block :=
  let x := barrierAt s b
  let g := groupAt s (barrierGidx x)
  if barrierEn x ∧ x.arrived.isSome ∧ x.release.isNone ∧ (treeChildren g.m g.rank).all (fun c => x.children.contains (arrivalKey (barrierGen10 x) c)) then
    if g.rank = 0 then barrierReleaseSet s b (BitVec.ofNat 64 (hallNat s + 1000 * odNat s 0x9000 4))
    else barrierSend s g (treeParent g.rank) false (barrierGen10 x) 0
  else s

/-- The member arrives when the count of ARRIVE reaches PARTIES · (GEN + 1) (R428). -/
def barrierCount (s : Block) (obj b : Nat) : Block :=
  let x := barrierAt s b
  if barrierEn x ∧ barrierArriveObj x = obj ∧ x.arrived.isNone ∧
      barrierParties x * (x.gen.toNat + 1) ≤ (syncAt s obj).count.toNat then
    barrierUp (barrierPut s b { x with arrived := some (hallNow s) }) b
  else s

/-- Every barrier whose ARRIVE object changed. -/
def barrierCheck (s : Block) (obj : Nat) : Block :=
  (s.barriers.map (·.1)).foldl (fun s b => barrierCount s obj b) s

/-! ### Signals (R204) -/

/-- SIGNAL ADD: dropped and counted on an aborted object. -/
def signalAdd (s : Block) (obj : Nat) (v : Word) : Block :=
  let o := syncAt s obj
  if o.aborted then report (odBump s 0x4330 3 1) unitSync 3 1 .aborted obj
  else
    let s := { s with wraps := s.wraps + (o.count.toNat + v.toNat) / 2 ^ 64 }
    barrierCheck (countEvent (syncPut s obj { o with count := o.count + v }) unitSync 1 1) obj

/-- The sequencer whose launch object this is: tiles 0 to 511, Plumb groups, Truss engines, Sketch (R190, R224, R371,
R447). -/
def launchSeq (obj : Nat) : Option Nat := if obj < 545 then some obj else none

/-- A STOPPED sequencer returns to RUNNING with n := v (R195). -/
def restartSeq (s : Block) (obj : Nat) (v : Word) : Block :=
  match launchSeq obj with
  | none => s
  | some q =>
    let x := seqAt s q
    if x.running then s
    else
      let s := seqPut s q { x with running := true, n := v.toNat }
      if q < 512 then odSetBit s 0x4330 2 q false else s

/-- SIGNAL SET: the count takes VALUE, the abort flag clears, and a STOPPED sequencer restarts. -/
def signalSet (s : Block) (obj : Nat) (v : Word) : Block :=
  let s := countEvent (syncPut s obj ⟨v, false⟩) unitSync 1 1
  barrierCheck (restartSeq s obj v) obj

/-! ### Streams: their commands in memory, and their ends -/

/-- Kinds of sequencers. -/
def isTileSeq (q : Nat) : Bool := decide (q < 512)
def isPlumbSeq (q : Nat) : Bool := decide (512 ≤ q) && decide (q < 528)
def isTrussSeq (q : Nat) : Bool := decide (528 ≤ q) && decide (q < 544)

/-- Number of Plumb groups G (R221). -/
def plumbGroups (s : Block) : Nat := odNat s 0x5100 1

/-- Unit number that stands for a sequencer: a Plumb group by its first cluster (R225). -/
def seqUnit (s : Block) (q : Nat) : Nat :=
  if isTileSeq q then unitTile q
  else if isPlumbSeq q then unitPlumb ((q - 512) * (64 / plumbGroups s))
  else if isTrussSeq q then unitTruss (q - 528) else unitSketch

/-- Units of a sequencer: a Plumb group's are its clusters (R220). -/
def seqUnits (s : Block) (q : Nat) : List Nat :=
  if isPlumbSeq q then (List.range (64 / plumbGroups s)).map (fun k => seqUnit s q + k) else [seqUnit s q]

/-- REQ of a sequencer's fabric requests (R315). -/
def seqReq (q : Nat) : Nat :=
  if isTileSeq q then 96 + q
  else if isPlumbSeq q then Config.plumbReq (q - 512)
  else if isTrussSeq q then 608 + (q - 528) else 624

/-- Owner unit of a sequencer's accesses (R347). -/
def seqOwner (s : Block) (q : Nat) : Requester :=
  if isTrussSeq q then some (ownSlot s, 16 + (q - 528)) else if q = 544 then some (ownSlot s, 32) else none

/-- Class of a sequencer for sampling: tiles, Plumb, Truss, Sketch (R522). -/
def seqClass (q : Nat) : Nat :=
  if isTileSeq q then 0 else if isPlumbSeq q then 2 else if isTrussSeq q then 3 else 4

/-- Whether `[a, a + n)`, a rack address, lies in the memory that a sequencer's blocks, bases and records may use: the
tile's own scratchpad or own HBM; for Plumb HBM, local stores and stream tables; else HBM (R197, R224, R371, R447). -/
def seqMem (s : Block) (q a n : Nat) : Bool :=
  let l := rackLocal a
  isOwn s a &&
    (inHbm l n || (isTileSeq q && inScratch q l n) ||
      (isPlumbSeq q && ((decide (plumbBase ≤ l) && decide (l + n ≤ plumbBase + 0x4000000)) ||
        (decide (plumbTableBase ≤ l) && decide (l + n ≤ plumbTableBase + 0x20000)))))

/-- Opcode of a command. -/
def cmdOpcode (w : BitVec 128) : Nat := bits w.toNat 0 8
/-- A field of a command. -/
def cmdBits (w : BitVec 128) (lo n : Nat) : Nat := bits w.toNat lo n

/-- Word `i` of a stream, as memory holds it. -/
def streamWord (s : Block) (st : StreamSt) (i : Nat) : BitVec 128 :=
  BitVec.ofNat 128 (memLe s (rackLocal st.base + 16 * i) 16)

/-- Word `i` of a stream as the sequencer sees it: from its window when it has fetched it (R193). -/
def streamCmd (s : Block) (st : StreamSt) (i : Nat) : BitVec 128 :=
  match st.win.find? (fun c => c.idx == i) with
  | some c => c.word
  | none => streamWord s st i

/-- A target of an abort: another module's slot, or none, and the object. -/
abbrev AbortTarget := Option Nat × Nat

/-- Whether a sequencer can read command `i` of its stream: it has been fetched, or its home answers the read. -/
def cmdReadable (s : Block) (q : Nat) (st : StreamSt) (i : Nat) : Bool :=
  st.win.any (fun c => c.idx == i) || (accessStatus s (seqOwner s q) .read (rackLocal st.base + 16 * i) 16).isNone

/-- The targets of SIGNALs from index `i` on, up to HALT or `k` commands (R215); a HALT with reserved bits set, which would
itself stop the stream, does not end the scan, and a command that cannot be read does (DEDUCED, log 23). -/
def scanTargets (s : Block) (q : Nat) (st : StreamSt) : Nat → Nat → List AbortTarget
  | 0, _ => []
  | k + 1, i =>
    let w := streamCmd s st i
    if w = 1 ∨ !cmdReadable s q st i then []
    else if cmdOpcode w = 4 then
      let rmt := bit w.toNat 37 && decide (cmdBits w 30 7 ≠ ownSlot s)
      (if rmt then some (cmdBits w 30 7) else none, cmdBits w 16 14) :: scanTargets s q st k (i + 1)
    else scanTargets s q st k (i + 1)

/-- The completion record (R195). -/
def recordBytes (s : Block) (st : Status) (idx : Nat) (warn : Status) (n : Nat) (detail : Nat) : List Byte :=
  natLe 2 (statusCode st) ++ natLe 3 idx ++ natLe 2 (statusCode warn) ++ natLe 1 0 ++ natLe 8 (hallNat s) ++
    natLe 8 n ++ natLe 8 detail

/-- Write the completion record when the entry names one in the memory it may use. -/
def writeRecord (s : Block) (q : Nat) (x : StreamSt) (st : Status) (idx n detail : Nat) : Block :=
  if x.record = 0 ∨ x.record % 32 ≠ 0 ∨ !seqMem s q x.record 32 then s
  else innerWrite s (seqOwner s q) 0 (rackLocal x.record) (recordBytes s st idx x.warn n detail)

/-- A stream ends with HALT: record, DONE, n + 1 (R192). -/
def endStreamOk (s : Block) (q idx : Nat) : Block :=
  let x := seqAt s q
  match x.stream with
  | none => s
  | some st =>
    let s := writeRecord s q st .ok idx x.n 0
    let s := seqPut s q { x with stream := none, n := x.n + 1, lines := [], refused := [] }
    if st.doneEn then signalAdd s st.doneObj.toNat 1 else s

/-- A stopped stream whose started commands have completed ends: record, STOPPED, n + 1. Answers what it aborts: the
targets of its later SIGNALs and DONE; a Plumb stream aborts nothing (R192, R215, R224). A stream that ran off its end has no
command left to scan (R193). -/
def endStreamStop (s : Block) (q : Nat) : Block × List AbortTarget :=
  let x := seqAt s q
  match x.stream with
  | none => (s, [])
  | some st =>
    match st.stop with
    | none => (s, [])
    | some p =>
      let targets := if isPlumbSeq q then []
        else (if p.status = .noHalt then [] else scanTargets s q st (st.ncmd - p.idx) p.idx) ++ (if st.doneEn then [(none, st.doneObj.toNat)] else [])
      let s := writeRecord s q st p.status p.idx x.n p.detail.toNat
      let s := seqPut s q { x with stream := none, n := x.n + 1, running := false, lines := [], refused := [] }
      let s := if isTileSeq q then odSetBit s 0x4330 2 q true else s
      let s := if isTileSeq q then
          let t := tileAt s q
          tilePut s q { t with swatch := { t.swatch with on := false } }
        else s
      (reportStop s (seqUnit s q) p.status p.detail.toNat, targets)

/-- Whether a command stands ahead of the stop of its stream, if there is one. -/
def beforeStop (st : StreamSt) (i : Nat) : Bool :=
  match st.stop with
  | some p => decide (i < p.idx)
  | none => true

/-- Whether a stopped stream still has commands to carry out: started ones, and those ahead of the stop that its sequencer
may still start, so that the stop is the earliest in command order (R208, R215). -/
def leftToDo (x : Seq) (st : StreamSt) : Bool :=
  st.win.any (fun c => c.phase == .started || (c.phase == .fetched && x.intake && beforeStop st c.idx))

/-- Mark the stop of a stream at a command: the earliest in command order stands (R215). Later commands are not started. -/
def markStop (x : Seq) (idx : Nat) (status : Status) (detail : Nat) : Seq :=
  match x.stream with
  | none => x
  | some st =>
    let p : StopSt := ⟨idx, status, BitVec.ofNat 64 detail⟩
    let p1 := match st.stop with
      | some o => if o.idx ≤ idx then o else p
      | none => p
    { x with stream := some { st with stop := some p1, waiting := none } }

/-- Set one abort flag, or send its ABORT to the other module (R207). -/
def abortOne (q : Nat) (s : Block) (t : AbortTarget) : Block :=
  match t.1 with
  | some d => sendAbort s d (seqReq q) t.2
  | none => syncPut s t.2 { syncAt s t.2 with aborted := true }

/-- A hart that waits on an aborted object goes on with ABORTED in rd (R266). -/
def abortHarts (s : Block) : Block :=
  (s.harts.map (·.1)).foldl (fun s h =>
    match (hartAt s h).blocked with
    | some (.syncWait rd obj _ _) =>
      if (syncAt s obj.toNat).aborted then retireRd s h rd (BitVec.ofNat 64 (statusCode .aborted)) else s
    | _ => s) s

/-- Stop the stream of a sequencer whose pending WAIT names an aborted object; answers what the stream's end aborts. -/
def abortWait (s : Block) (q : Nat) : Block × List AbortTarget :=
  let x := seqAt s q
  match x.stream with
  | none => (s, [])
  | some st =>
    match st.waiting with
    | none => (s, [])
    | some w =>
      if (syncAt s w.obj.toNat).aborted then
        let x1 := markStop x w.idx .aborted 0
        let s := seqPut s q x1
        match x1.stream with
        | some st1 => if leftToDo x1 st1 then (s, []) else endStreamStop s q
        | none => (s, [])
      else (s, [])

/-- Stop every stream that waits on an aborted object. -/
def abortWaits (s : Block) : Block × List (Nat × AbortTarget) :=
  (s.seqs.map (·.1)).foldl (fun acc q =>
    let (s1, t) := abortWait acc.1 q
    (s1, acc.2 ++ t.map (fun y => (q, y)))) (s, [])

/-- Set abort flags, and spread them through the streams that wait on them (R205, R215). -/
def abortSpread : Nat → List (Nat × AbortTarget) → Block → Block
  | 0, ts, s => abortHarts (ts.foldl (fun s t => abortOne t.1 s t.2) s)
  | fuel + 1, ts, s =>
    let s := abortHarts (ts.foldl (fun s t => abortOne t.1 s t.2) s)
    let (s1, more) := abortWaits s
    if more.isEmpty then s1 else abortSpread fuel more s1

/-- Abort objects on behalf of sequencer `q`. -/
def abortTargets (s : Block) (q : Nat) (ts : List AbortTarget) : Block :=
  abortSpread (s.seqs.length + 1) (ts.map (fun t => (q, t))) s

/-- Abort a local object. -/
def abortObj (s : Block) (obj : Nat) : Block := abortTargets s 544 [(none, obj)]

/-- End a stopped stream once nothing of it is left to carry out, with everything its end aborts. -/
def finishStop (s : Block) (q : Nat) : Block :=
  let x := seqAt s q
  match x.stream with
  | none => s
  | some st =>
    if st.stop.isSome && !leftToDo x st then
      let (s1, ts) := endStreamStop s q
      abortTargets s1 q ts
    else s

/-- Stop the stream of a sequencer at a command. -/
def stopStream (s : Block) (q idx : Nat) (status : Status) (detail : Nat) : Block :=
  finishStop (seqPut s q (markStop (seqAt s q) idx status detail)) q

end Sys2Proof.Machine
end

