-- ==== Sys2Proof/Machine/Operands.lean ====
section
/-! DEFINITION. Operand forms of the tile commands: tensor references (R198), layout descriptors (R167 to R172), element
addresses (R168 to R171), spans (R187, R209), and how a command's bytes are read and written (R209, R210, R325). -/

namespace Sys2Proof.Machine

open Sys2Proof

/-- Why a command ends its stream: its status and DETAIL (R195, R215). -/
structure Stop where
  st     : Status
  detail : Nat
deriving DecidableEq, Repr

/-- Pass when the condition holds, else stop with the status and DETAIL 0. -/
def need (c : Bool) (st : Status) : Except Stop Unit := if c then .ok () else .error ⟨st, 0⟩

/-! ### Layout descriptors (R167) -/

/-- A layout descriptor: `ext` holds the extents and `stride` the strides of dimensions 0 to NDIM − 1. -/
structure Desc where
  fmt    : Nat
  ndim   : Nat
  rdim   : Nat
  sq     : Bool
  sqdim  : Nat
  kind   : Nat
  tile   : Nat
  tr     : Nat
  tc     : Nat
  xdim   : Nat
  base   : Nat
  sbase  : Nat
  ext    : List Nat
  stride : List Nat
deriving DecidableEq, Repr

/-- Word d of a descriptor. -/
def descDim (v d : Nat) : Nat := bits v (128 + 64 * d) 64

/-- The fields of 64 descriptor bytes. -/
def descOf (v : Nat) : Desc :=
  let n := bits v 5 3
  { fmt := bits v 0 5, ndim := n, rdim := bits v 8 3, sq := bit v 11, sqdim := bits v 12 3, kind := bits v 15 3,
    tile := bits v 18 2, tr := bits v 20 3, tc := bits v 23 3, xdim := bits v 26 3, base := bits v 32 48,
    sbase := bits v 80 48,
    ext := (List.range n).map (fun d => bits (descDim v d) 0 24 + 1),
    stride := (List.range n).map (fun d => bits (descDim v d) 24 40) }

/-- Reserved fields and encodings of a descriptor (R15, R45, R167). -/
def descReserved (v : Nat) : Bool :=
  let n := bits v 5 3
  decide (bits v 0 5 > 0x10) || n == 0 || n == 7 || decide (bits v 15 3 > 4) || bits v 18 2 == 3 || bits v 29 3 != 0 ||
    (List.range 6).any (fun d => decide (n ≤ d) && descDim v d != 0)

/-- Bits of one element or keep code (R44, R126). -/
def fmtBits (fmt : Nat) : Nat :=
  if fmt < 4 then 8 else if fmt < 8 then 4 else if fmt < 10 then 16 else if fmt < 13 then 8
  else if fmt = 13 then 16 else if fmt = 15 then 64 else 32
def elemBits (d : Desc) : Nat :=
  if d.kind = 1 then 1 else if d.kind = 2 then 2 else if d.kind = 3 then 8 else fmtBits d.fmt

/-- Formats with block scales (FMT 0x00 to 0x0B), and the Istus ones. -/
def blockScaled (fmt : Nat) : Bool := decide (fmt < 12)
def isIstus (fmt : Nat) : Bool := fmt == 10 || fmt == 11
def isG16 (fmt : Nat) : Bool := fmt == 8 || fmt == 9
def is4bit (fmt : Nat) : Bool := decide (4 ≤ fmt) && decide (fmt < 8)
def isUnsignedFmt (fmt : Nat) : Bool := fmt == 2 || fmt == 3 || fmt == 6 || fmt == 7

/-- Block length of a block-scaled format. -/
def blockLen (fmt : Nat) : Nat := if fmt % 2 = 0 then 16 else 32

/-- Extent and stride of a dimension; a dimension the tensor does not have counts one element. -/
def extOf (d : Desc) (k : Nat) : Nat := d.ext.getD k 1
def strideOf (d : Desc) (k : Nat) : Nat := d.stride.getD k 0

/-- A packed tensor: elements narrower than a byte (R168). -/
def packed (d : Desc) : Bool := decide (elemBits d < 8)

/-- Bytes of an element, for elements of a byte or more. -/
def elemBytes (d : Desc) : Nat := elemBits d / 8

/-- Address of element 0: after the keep header for kinds 1 to 3. -/
def elemBase (d : Desc) : Nat := if 1 ≤ d.kind ∧ d.kind ≤ 3 then d.base + 32 else d.base

/-- A coordinate of a list. -/
def at_ (c : List Nat) (k : Nat) : Nat := c.getD k 0

/-- Σ i_d · STRIDE_d over the dimensions from `k`. -/
def strideSum (d : Desc) (c : List Nat) (k : Nat) : Nat :=
  (List.range d.ndim).foldl (fun a j => if k ≤ j then a + at_ c j * strideOf d j else a) 0

/-- Place of an element within its tile (R169, R170), in bytes. -/
def inTile (d : Desc) (i0 i1 : Nat) : Nat :=
  let tr := 2 ^ d.tr
  let tc := 2 ^ d.tc
  if d.tile = 2 then
    let i := i1 % 128
    let j := i0 % 128
    256 * i + 16 * ((i / 4 + j / 8) % 16) + 2 * (j % 8)
  else ((i1 % tr) * tc + i0 % tc) * elemBytes d

/-- Byte address and bit offset of an element (R47, R126, R168 to R170). -/
def elemPos (d : Desc) (c : List Nat) : Nat × Nat :=
  if d.tile = 0 then
    if packed d then
      (elemBase d + strideSum d c 1 + at_ c 0 * elemBits d / 8, at_ c 0 * elemBits d % 8)
    else (elemBase d + strideSum d c 0, 0)
  else
    (elemBase d + strideSum d c 2 + at_ c 0 / 2 ^ d.tc * strideOf d 0 + at_ c 1 / 2 ^ d.tr * strideOf d 1 +
      inTile d (at_ c 0) (at_ c 1), 0)

/-- Extents of the scale array: RDIM, and SQDIM of a square-block tensor, count blocks (R171). -/
def scaleExt (d : Desc) (k : Nat) : Nat :=
  if k = d.rdim ∨ (d.sq ∧ k = d.sqdim) then (extOf d k + blockLen d.fmt - 1) / blockLen d.fmt else extOf d k
def scaleCoord (d : Desc) (c : List Nat) (k : Nat) : Nat :=
  if k = d.rdim ∨ (d.sq ∧ k = d.sqdim) then at_ c k / blockLen d.fmt else at_ c k

/-- A dense index, dimension 0 fastest: Σ i_k · Π_(e<k) extent_e. -/
def denseIndex (n : Nat) (i e : Nat → Nat) : Nat :=
  ((List.range n).foldl (fun (a : Nat × Nat) k => (a.1 + i k * a.2, a.2 * e k)) (0, 1)).1

/-- Address of the scale byte of an element's block (R171). -/
def scalePos (d : Desc) (c : List Nat) : Nat := d.sbase + denseIndex d.ndim (scaleCoord d c) (scaleExt d)

/-- Bytes of the scale array. -/
def scaleCount (d : Desc) : Nat := (List.range d.ndim).foldl (fun a k => a * scaleExt d k) 1

/-- Address of the exponent of a slice plane (R96, R171). -/
def expPos (d : Desc) (c : List Nat) : Nat := d.sbase + 2 * at_ c d.xdim

/-- Linear index of an element (R173). -/
def linIndex (d : Desc) (c : List Nat) : Nat := denseIndex d.ndim (at_ c) (extOf d)

/-- Number of elements. -/
def elemCount (d : Desc) : Nat := d.ext.foldl (· * ·) 1

/-- Whether a coordinate lies within the extents; a dimension the tensor lacks has extent 1. -/
def inside (d : Desc) (c : List Nat) : Bool := (List.range 6).all (fun k => decide (at_ c k < extOf d k))

/-- The coordinates of a linear index. -/
def coordOf : List Nat → Nat → List Nat
  | [], _ => []
  | e :: t, i => i % e :: coordOf t (i / e)

/-- Add `n` to coordinate `k`. -/
def bumpCoord (c : List Nat) (k n : Nat) : List Nat := c.set k (at_ c k + n)

/-- Whether a tensor has a scale array or an exponent vector (R171). -/
def hasScale (d : Desc) : Bool := (d.kind == 0 && blockScaled d.fmt) || d.kind == 4

/-- One past the last element byte; whole edge tiles belong to a tiled tensor (R169, R187). -/
def elemEnd (d : Desc) : Nat :=
  let last := d.ext.map (· - 1)
  if d.tile = 0 then
    if packed d then elemBase d + strideSum d last 1 + (extOf d 0 * elemBits d + 7) / 8
    else elemBase d + strideSum d last 0 + elemBytes d
  else
    let size := if d.tile = 2 then 32768 else 2 ^ d.tr * 2 ^ d.tc * elemBytes d
    elemBase d + strideSum d last 2 + at_ last 0 / 2 ^ d.tc * strideOf d 0 + at_ last 1 / 2 ^ d.tr * strideOf d 1 + size

/-- One past the last byte of the scale array or exponent vector. -/
def scaleEnd (d : Desc) : Nat := if d.kind = 4 then d.sbase + 2 * extOf d d.xdim else d.sbase + scaleCount d

/-- The span of a tensor: from the lowest to the highest byte of its elements, scales, exponents and header (R187). -/
def descSpan (d : Desc) : Span :=
  if hasScale d then ⟨min d.base d.sbase, max (elemEnd d) (scaleEnd d)⟩ else ⟨d.base, elemEnd d⟩

/-- Whether two spans intersect. -/
def meets (a b : Span) : Bool := decide (a.lo < b.hi) && decide (b.lo < a.hi)

/-- Whether rack bytes `[lo, hi)` lie in the HBM, the populated part of one scratchpad window, or the Plumb local stores
of one module (R172). -/
def tensorMem (lo hi : Nat) : Bool :=
  let a := rackLocal lo
  let n := hi - lo
  decide (rackSlot lo < 72) && decide (hi ≤ 2 ^ 48) && rackSlot lo == rackSlot (hi - 1) &&
    (decide (a + n ≤ hbmEnd) ||
      (match placeOf a with
        | .scratch t _ => decide (a + n ≤ scratchBase t + 0x600000)
        | .plumb => decide (a + n ≤ plumbBase + 0x4000000)
        | _ => false))

/-- Extents with dimensions 0 and 1 of a tiled tensor rounded up to whole tiles: edge tiles are stored whole (R169, R170). -/
def wholeExt (d : Desc) : List Nat :=
  match d.tile, d.ext with
  | 0, _ => d.ext
  | 2, e0 :: e1 :: t => roundUp 128 e0 :: roundUp 128 e1 :: t
  | _, e0 :: e1 :: t => roundUp (2 ^ d.tc) e0 :: roundUp (2 ^ d.tr) e1 :: t
  | _, e => e

/-- Every byte of the tensor stands in memory that a descriptor may name. -/
def descInMem (d : Desc) : Bool :=
  (tensorMem d.base (elemEnd d) ||
    (tensorMem d.base (elemBase d + 1) && (List.range ((wholeExt d).foldl (· * ·) 1)).all (fun i =>
      let a := (elemPos d (coordOf (wholeExt d) i)).1
      tensorMem a (a + max 1 (elemBytes d))))) &&
  (!hasScale d || tensorMem d.sbase (scaleEnd d))

/-- STRIDE 0 of a destination along a dimension of more than one element, or more than one tile (R172). -/
def zeroStride (d : Desc) : Bool :=
  (List.range d.ndim).any (fun k =>
    strideOf d k == 0 && !(k == 0 && packed d) &&
      (if d.tile = 0 then decide (1 < extOf d k)
       else if k = 0 then decide (2 ^ d.tc < extOf d k)
       else if k = 1 then decide (2 ^ d.tr < extOf d k)
       else decide (1 < extOf d k)))

/-- The checks of R172. `dst` marks a destination. -/
def descValid (d : Desc) (dst : Bool) : Bool :=
  decide (d.rdim < d.ndim) &&
  (if d.sq then d.sqdim != d.rdim && decide (d.sqdim < d.ndim) && blockScaled d.fmt else d.sqdim == 0) &&
  (if 1 ≤ d.kind ∧ d.kind ≤ 3 then d.fmt == 0 else true) &&
  (if d.kind = 4 then (d.fmt == 0 || d.fmt == 2) && d.xdim != d.rdim && decide (d.xdim < d.ndim) else d.xdim == 0) &&
  ((d.sbase != 0) == hasScale d) &&
  (packed d || (d.base % elemBytes d == 0 && d.stride.all (fun x => x % elemBytes d == 0))) &&
  (!packed d || (strideOf d 0 == 0 && d.tile == 0)) &&
  (d.tile != 2 || (d.kind == 0 && isG16 d.fmt && d.tr == 7 && d.tc == 7 && d.base % 32768 == 0 &&
    (match placeOf (rackLocal d.base) with | .scratch _ _ => true | _ => false))) &&
  (!dst || !zeroStride d) && descInMem d

/-! ### Reading bytes at rack addresses -/

/-- One byte that sequencer `q` reads: own memory, or a line of another module that it has fetched. -/
def rackByte (s : Block) (q a : Nat) : Byte :=
  if isOwn s a then memByte s (rackLocal a) else (tget [] (seqAt s q).lines (a / 128)).getD (a % 128) 0

/-- Bytes from a rack address up. -/
def rackBytes (s : Block) (q : Nat) : Nat → Nat → List Byte
  | _, 0 => []
  | a, n + 1 => rackByte s q a :: rackBytes s q (a + 1) n

/-- A little-endian value at a rack address. -/
def rackLe (s : Block) (q a n : Nat) : Nat := leNat (rackBytes s q a n)

/-- The refusal of a read by a sequencer: of own bytes, or of a line that another module's home has refused. -/
def readStop (s : Block) (q a n : Nat) : Except Stop Unit :=
  if isOwn s a then
    match accessStatus s (seqOwner s q) .read (rackLocal a) n with
    | some (st, l) => .error ⟨st, ownAddr s l⟩
    | none => .ok ()
  else
    match (seqAt s q).refused.find? (fun r => (linesOf a n).contains r.1) with
    | some r => .error ⟨r.2, 128 * r.1⟩
    | none => .ok ()

/-- Read a value, or stop at the refused line (R293). -/
def readLe (s : Block) (q a n : Nat) : Except Stop Nat := do
  readStop s q a n
  return rackLe s q a n

/-- Whether a rack address names memory that stands there: own populated bytes, or a slot of the rack. -/
def rackPopulated (s : Block) (a : Nat) : Bool :=
  if isOwn s a then populated s (rackLocal a) else decide (a < 2 ^ 48) && decide (rackSlot a < 72)

/-! ### Tensor references (R198) -/

/-- A tensor that a command names: its reference's fields and its descriptor. -/
structure Tensor where
  addr   : Nat
  eref   : Nat
  hint   : Nat
  tscale : Nat
  tid    : Nat
  d      : Desc
deriving DecidableEq, Repr

/-- Whether a reference's TSCALE is a tensor scale (R50), an N8 scale of a forward keep tensor, or must be 0 (R198). -/
inductive TsUse where
  | natural | keepScale | zero
deriving DecidableEq, Repr

/-- A finite, non-zero, normal FP32 value (R50). -/
def scaleValid (v : Nat) : Bool := bits v 23 8 != 0 && bits v 23 8 != 255

/-- Whether a descriptor's tensor carries a tensor scale. -/
def carriesScale (u : TsUse) (d : Desc) : Bool :=
  match u with
  | .natural => d.kind == 0 && (decide (d.fmt < 10) || d.fmt == 12)
  | .keepScale => true
  | .zero => false

/-- The reference and descriptor of 16 TREF bytes; none when DESC is 0. -/
def trefRead (s : Block) (q v : Nat) (u : TsUse) (dst : Bool) : Except Stop (Option Tensor) := do
  let desc := bits v 0 48
  if desc = 0 then
    need (v == 0) .malformed
    return none
  need (bits v 58 6 == 0 && bits v 56 2 != 3) .malformed
  need (desc % 64 == 0 && rackPopulated s desc && rackPopulated s (desc + 63)) .badAddress
  let dv ← readLe s q desc 64
  need (!descReserved dv) .malformed
  let d := descOf dv
  need (descValid d dst) .layoutInvalid
  let eref := bits v 48 8
  let ts := bits v 64 32
  let istus := d.kind == 0 && isIstus d.fmt
  need (if istus then eref != 0 && eref != 255 else eref == 0) .malformed
  if carriesScale u d then need (scaleValid ts) .scaleInvalid else need (ts == 0) .malformed
  return some ⟨desc, eref, bits v 56 2, ts, bits v 96 32, d⟩

/-- A tensor the command needs (R198). -/
def trefNeed (s : Block) (q v : Nat) (u : TsUse) (dst : Bool) : Except Stop Tensor := do
  match ← trefRead s q v u dst with
  | some t => return t
  | none => .error ⟨.layoutInvalid, 0⟩

/-- FP32 pattern of the tensor scale of a tensor: EREF gives an Istus tensor's (R54). -/
def scaleBits (t : Tensor) : Nat := if t.d.kind = 0 ∧ isIstus t.d.fmt then t.eref * 2 ^ 23 else t.tscale

/-! ### Elements -/

/-- Bytes that hold an element. -/
def elemSpan (d : Desc) (c : List Nat) : Nat × Nat := ((elemPos d c).1, max 1 (elemBytes d))

/-- The code of an element as memory holds it. -/
def rawElem (s : Block) (q : Nat) (d : Desc) (c : List Nat) : Except Stop Nat := do
  let p := elemPos d c
  let v ← readLe s q p.1 (max 1 (elemBytes d))
  return if packed d then bits v p.2 (elemBits d) else v

/-- The integer of a code, and whether it was clamped (R46). -/
def intCode (fmt raw : Nat) : Int × Bool :=
  let n := fmtBits fmt
  if isUnsignedFmt fmt then (raw, false)
  else
    let z := sx n raw
    if z = -((2 ^ (n - 1) : Nat) : Int) then (z + 1, true) else (z, false)

/-- A scaled element as the units read it: integer code, B8 code, clamped, of an Istus low block (R46, R54). -/
structure Scaled where
  code    : Int
  b8      : Nat
  clamped : Bool
  low     : Bool
deriving DecidableEq, Repr

/-- Signed RNE division by a power of two. -/
def rneInt (z : Int) (k : Nat) : Int :=
  let m : Int := rneShift z.natAbs k
  if z < 0 then -m else m

/-- Read an element of a block-scaled tensor with its block's scale (R46, R54). -/
def readScaled (s : Block) (q : Nat) (t : Tensor) (c : List Nat) : Except Stop Scaled := do
  let raw ← rawElem s q t.d c
  let (z, cl) := intCode t.d.fmt raw
  let b ← readLe s q (scalePos t.d c) 1
  if isIstus t.d.fmt then
    need (b != 255) .nonfinite
    need (decide (b ≤ t.eref + 15)) .scaleRange
    if b < t.eref then return ⟨rneInt z (t.eref - b), 0, cl, true⟩
    else return ⟨z, (b - t.eref) * 16, cl, false⟩
  else return ⟨z, b, cl, false⟩

/-- Istus low blocks among the blocks that hold the given elements (R54). -/
def lowBlocks (s : Block) (q : Nat) (t : Tensor) (cs : List (List Nat)) : Nat :=
  if t.d.kind = 0 ∧ isIstus t.d.fmt then
    (cs.foldl (fun (l : Tab Nat) c =>
      let a := scalePos t.d c
      if rackLe s q a 1 < t.eref then tset 0 l a 1 else l) []).length
  else 0

/-- Value of a B8 code as significand and exponent: (16 + M) · 2^(E − 4) (R49). -/
def b8Sig (b : Nat) : Nat := 16 + b % 16
def b8Exp (b : Nat) : Int := (b / 16 : Nat) - 4

/-! ### Command effects on memory -/

/-- One masked byte to write at a rack address. -/
structure WByte where
  addr : Nat
  mask : Nat
  val  : Nat
deriving DecidableEq, Repr

/-- The bytes of a value of `n` bytes. -/
def wBytes (a n v : Nat) : List WByte := (List.range n).map (fun k => ⟨a + k, 255, bits v (8 * k) 8⟩)

/-- The write of an element; the last element of a packed run clears the rest of its byte (R168). -/
def wElem (d : Desc) (c : List Nat) (v : Nat) : List WByte :=
  let p := elemPos d c
  if packed d then
    let n := elemBits d
    let m := if at_ c 0 + 1 = extOf d 0 then 255 - (2 ^ p.2 - 1) else (2 ^ n - 1) * 2 ^ p.2
    [⟨p.1, m, v % 2 ^ n * 2 ^ p.2⟩]
  else wBytes p.1 (elemBytes d) v

/-- Merge a masked byte into an old one. -/
def mergeByte (old : Byte) (w : WByte) : Byte :=
  BitVec.ofNat 8 ((old.toNat &&& (255 - w.mask)) ||| (w.val &&& w.mask))

/-- Apply the writes to own memory, in order. -/
def writeOwn (s : Block) (ws : List WByte) : Block :=
  ws.foldl (fun s w => if isOwn s w.addr then
      let a := rackLocal w.addr
      { s with mem := Memory.set s.mem a (mergeByte (memByte s a) w) }
    else s) s

/-- The bytes of other modules after the writes: each holds its value plus one. -/
def foreignBytes (s : Block) (q : Nat) (ws : List WByte) : Tab Nat :=
  ws.foldl (fun t w => if isOwn s w.addr then t else
      let old : Byte := match tget 0 t w.addr with
        | 0 => rackByte s q w.addr
        | v + 1 => BitVec.ofNat 8 v
      tset 0 t w.addr ((mergeByte old w).toNat + 1)) []

/-- Cut rising bytes into runs that lie in one line each. -/
def lineRuns : List (Nat × Nat) → List (Nat × List Byte)
  | [] => []
  | (a, v) :: t =>
    let b : Byte := BitVec.ofNat 8 (v - 1)
    match lineRuns t with
    | (a1, bs) :: r => if a1 = a + 1 ∧ a1 % 128 ≠ 0 then (a, b :: bs) :: r else (a, [b]) :: (a1, bs) :: r
    | [] => [(a, [b])]

/-- Own lines that the writes touch, each once. -/
def ownLines (s : Block) (ws : List WByte) : List Nat :=
  (ws.foldl (fun (t : Tab Nat) w => if isOwn s w.addr then tset 0 t (lineOf (rackLocal w.addr)) 1 else t) []).map (·.1)

/-- The own lines whose home refuses a command's writes, with the refusal (R292, R350, R460). A partly bad word is refused
unless the command replaces it whole. -/
def refusedLines (s : Block) (q : Nat) (ws : List WByte) : List (Nat × Status) :=
  (ownLines s ws).filterMap (fun l =>
    let here := (ws.filter (fun w => isOwn s w.addr && lineOf (rackLocal w.addr) == l)).map (fun w => rackLocal w.addr)
    let lo := here.foldl min (128 * l + 127)
    let hi := here.foldl max (128 * l)
    (lineStatus s (seqOwner s q) .write lo (hi + 1 - lo)).map (fun st => (l, st)))

/-- The refusal that a byte's write meets. -/
def byteRefusal (s : Block) (bad : List (Nat × Status)) (w : WByte) : Option Stop :=
  if isOwn s w.addr then
    let l := lineOf (rackLocal w.addr)
    (bad.find? (fun b => b.1 == l)).map (fun b => ⟨b.2, ownAddr s (128 * l)⟩)
  else none

/-- Send the writes that go to other modules; the first that cannot leave stops the command. -/
def writeForeign (s : Block) (q idx hint : Nat) (ws : List WByte) : Block × Option Stop :=
  (lineRuns (foreignBytes s q ws)).foldl (fun (acc : Block × Option Stop) r =>
    match acc.2 with
    | some _ => acc
    | none =>
      let (s1, st) := sendWrite acc.1 (rackSlot r.1) (seqReq q) (rackLocal r.1) hint r.2 (.seqWrite ⟨q % 545, by omega⟩ idx)
      if st = .ok then (s1, none) else (acc.1, some ⟨st, r.1 / 128 * 128⟩)) (s, none)

/-- Local addresses of the own bytes written. -/
def ownWritten (s : Block) (ws : List WByte) : Tab Nat :=
  ws.foldl (fun t w => if isOwn s w.addr then tset 0 t (rackLocal w.addr) 1 else t) []

/-- Carry out a command's writes in order, up to the first that its home refuses: own bytes at once, the others as packets
(R293). The cache of each line of HBM sees one access. -/
def applyWrites (s : Block) (q idx hint : Nat) (ws : List WByte) : Block × Option Stop :=
  let bad := refusedLines s q ws
  let good := if bad.isEmpty then ws else ws.takeWhile (fun w => (byteRefusal s bad w).isNone)
  let stop := if bad.isEmpty then none else ws.findSome? (byteRefusal s bad)
  let s1 := (ownLines s good).foldl (fun s l => cacheTouch s (128 * l) hint true false) s
  let s2 := writeOwn s1 good
  let s3 := (lineRuns (ownWritten s good)).foldl (fun s r => clearBad s r.1 r.2.length) s2
  let (s4, out) := writeForeign s3 q idx hint good
  (s4, if stop.isSome then stop else out)

/-- The rack lines of other modules, among the given pieces, that sequencer `q` has not yet fetched and whose homes have not
refused it. -/
def missingLines (s : Block) (q : Nat) (ps : List (Nat × Nat)) : List Nat :=
  let x := seqAt s q
  let need := ps.foldl (fun (t : Tab Nat) p =>
    (linesOf p.1 p.2).foldl (fun t l =>
      if isOwn s (128 * l) || (tget [] x.lines l != []) || x.refused.any (fun r => r.1 == l) then t else tset 0 t l 1) t) []
  need.map (·.1)

/-- Ask for lines of other modules that a command reads (R325); a line already asked for is not asked again. -/
def fetchLines (s : Block) (q hint : Nat) (ls : List Nat) : Block × Option Status :=
  ls.foldl (fun (acc : Block × Option Status) l =>
    if acc.1.fab.outst.any (fun o => o.forWhom == .seqRead ⟨q % 545, by omega⟩ l) ||
       acc.1.fab.held.any (fun o => o.forWhom == .seqRead ⟨q % 545, by omega⟩ l) then acc
    else
      let (s1, st) := sendRead acc.1 (rackSlot (128 * l)) (seqReq q) (rackLocal (128 * l)) hint 128
        (.seqRead ⟨q % 545, by omega⟩ l)
      if st = .ok then (s1, acc.2) else (acc.1, some st)) (s, none)

/-- Whether own pieces can be accessed now, and what to ask for otherwise (R344, R456). -/
def piecesFree (s : Block) (ps : List (Nat × Nat)) (write : Bool) : Bool :=
  ps.all (fun p => !isOwn s p.1 || unitFree s (rackLocal p.1) p.2 write)
def piecesAsk (s : Block) (ps : List (Nat × Nat)) (write : Bool) : Block :=
  ps.foldl (fun s p => if isOwn s p.1 && !unitFree s (rackLocal p.1) p.2 write then unitAsk s (rackLocal p.1) p.2 write
    else s) s

/-- One access of the cache for each own line of the pieces (R279, R282). -/
def touchPieces (s : Block) (hint : Nat) (ps : List (Nat × Nat)) : Block :=
  let ls := (ps.foldl (fun (t : Tab Nat) p =>
    (linesOf p.1 p.2).foldl (fun t l => if isOwn s (128 * l) then tset 0 t (lineOf (rackLocal (128 * l))) 1 else t) t) [])
  ls.foldl (fun s e => cacheTouch s (128 * e.1) hint false false) s

end Sys2Proof.Machine
end

