-- ==== Sys2Proof/Machine/Formats.lean ====
section
/-! DEFINITION. Conversions between formats: scaled integers (R48, R61 to R63), the Istus block (R54, R55), N8 (R56, R57),
INT32 (R154, R157), slices (R94 to R98), and what the Glaze chain reads and writes. -/

namespace Sys2Proof.Machine

open Sys2Proof

/-! ### Exact rationals -/

/-- A quotient of naturals with a sign. -/
structure Rat64 where
  neg : Bool
  num : Nat
  den : Nat
deriving DecidableEq, Repr

/-- m·2^e as a fraction. -/
def fracOf (m : Nat) (e : Int) : Nat × Nat := if 0 ≤ e then (m * 2 ^ e.toNat, 1) else (m, 2 ^ (-e).toNat)

/-- Round to nearest, ties to even. -/
def ratRne (r : Rat64) : Int :=
  let m : Int := rneDiv r.num r.den
  if r.neg then -m else m

/-- ⌊r + k / 65536⌋ (R63). -/
def ratSr (r : Rat64) (k : Nat) : Int :=
  let n : Int := if r.neg then -((r.num * 65536 : Nat) : Int) else (r.num * 65536 : Nat)
  Int.fdiv (n + ((k * r.den : Nat) : Int)) ((r.den * 65536 : Nat) : Int)

/-- Significand and exponent of a finite value. -/
def fvParts : FV → Bool × Nat × Int
  | .fin n m e => (n, m, e)
  | _ => (false, 0, 0)

/-- Whether |a| ≤ |b| for finite values. -/
def magLe (a b : FV) : Bool := !fvLt (fvAbs b) (fvAbs a)

/-- The larger magnitude. -/
def magMax (a b : FV) : FV := if magLe a b then fvAbs b else fvAbs a

/-! ### Reading values -/

/-- T · b · q, exactly (R48). -/
def scaledValue (t : Tensor) (x : Scaled) : FV :=
  let (n, m, e) := fvParts (fpDecode fp32 (scaleBits t))
  if x.code = 0 then .fin false 0 0
  else .fin (n != decide (x.code < 0)) (m * b8Sig x.b8 * x.code.natAbs) (e + b8Exp x.b8)

/-- The value v of an N8 code (R56). -/
def n8Value (c : Nat) : FV :=
  let ex := bits c 3 4
  if ex = 0 then .fin (bit c 7) (c % 8) (-9) else .fin (bit c 7) (8 + c % 8) ((ex : Int) - 10)

/-- T · v of an N8 code; zero codes stand for +0. -/
def n8Scaled (ts c : Nat) : FV :=
  let v := n8Value c
  if fvIsZero v then .fin false 0 0 else fvMul (fpDecode fp32 ts) v

/-- A value a unit forms, with what it counts. -/
abbrev Counted := Nat × Ev

/-- A result with its events. -/
def counted (o : FpOut) : Counted := (o.val, evOf o)

/-- An input element in a program's precision, as DECODE delivers it (R154). T · v of an N8 code can need more digits than FP32
has: it is rounded once (log 79). -/
def decodeElem (s : Block) (q : Nat) (p : FpFmt) (t : Tensor) (c : List Nat) : Except Stop Counted := do
  let fmt := t.d.fmt
  if blockScaled fmt then
    let x ← readScaled s q t c
    let r := counted (fpStore p (scaledValue t x))
    return (r.1, evAdd (evCodes x.clamped.toNat) r.2)
  else
    let raw ← rawElem s q t.d c
    let v : FV :=
      if fmt = 0x0C then n8Scaled t.tscale raw
      else if fmt = 0x0D then fpGlaze bf16 raw
      else if fmt = 0x0E then fpGlaze fp32 raw
      else if fmt = 0x0F then fpDecode fp64 raw
      else fvInt (sx 32 raw) 0
    return counted (fpStore p v)

/-! ### Scaled integers (R61 to R63) -/

/-- Largest code of a format. -/
def largestCode (fmt : Nat) : Nat :=
  if fmt < 2 then 127 else if fmt < 4 then 255 else if fmt < 6 then 7 else if fmt < 8 then 15
  else if fmt < 10 then 32767 else 127

/-- The B8 code of a block whose largest magnitude is `a`: the smallest with b ≥ A / (|T| · Q), or 255 (R61). -/
def b8For (a t : FV) (qmax : Nat) : Nat :=
  let (_, mt, et) := fvParts t
  ((List.range 256).find? (fun b => magLe a (.fin false (mt * qmax * b8Sig b) (et + b8Exp b)))).getD 255

/-- x / (T · b), exactly. -/
def quotient (x t : FV) (b : Nat) : Rat64 :=
  let (nx, mx, ex) := fvParts x
  let (nt, mt, et) := fvParts t
  let (a, c) := fracOf mx (ex - et - b8Exp b)
  ⟨nx != nt, a, c * (mt * b8Sig b)⟩

/-- Saturate to a format's range; 1 when the code changed. -/
def saturate (fmt : Nat) (z : Int) : Int × Nat :=
  let q : Int := largestCode fmt
  let lo : Int := if isUnsignedFmt fmt then 0 else -q
  if z < lo then (lo, 1) else if q < z then (q, 1) else (z, 0)

/-- A converted block: its scale byte, its codes as stored, and the saturated elements. -/
structure BlockOut where
  scale : Nat
  codes : List Nat
  sat   : Nat
deriving DecidableEq, Repr

/-- A negative quotient bound for an unsigned format is saturated, whatever it rounds to (R62). -/
def negSat (fmt : Nat) (r : Rat64) (z : Int × Nat) : Int × Nat := if isUnsignedFmt fmt && r.neg && r.num != 0 then (z.1, 1) else z

/-- Convert one block to S8, U8, S4, U4 or G16 (R52, R61 to R63). `draws` gives k for SR, none for RNE. -/
def quantiseInt (fmt ts : Nat) (xs : List FV) (draws : Option (List Nat)) : Option BlockOut :=
  if xs.any (fun x => !fvFinite x) then none
  else
    let t := fpDecode fp32 ts
    let a := xs.foldl magMax (.fin false 0 0)
    let b := b8For a t (largestCode fmt)
    let zs := (List.range xs.length).map (fun i =>
      let r := quotient (xs.getD i (.fin false 0 0)) t b
      negSat fmt r (saturate fmt (match draws with
        | none => ratRne r
        | some ks => ratSr r (ks.getD i 0))))
    let allZero := zs.all (fun z => z.1 == 0)
    some ⟨if allZero then 0 else b, zs.map (fun z => wrapInt (fmtBits fmt) z.1), zs.foldl (fun n z => n + z.2) 0⟩

/-- The exponent of an Istus block: the least with 127 · 2^(EX − 127) ≥ A, from 1 to 254 (R55). -/
def istusExp (a : FV) : Nat :=
  1 + ((List.range 253).find? (fun (k : Nat) => magLe a (.fin false 127 ((k : Int) + 1 - 127)))).getD 253

/-- Convert one block to the Istus format (R55). -/
def quantiseIstus (fmt : Nat) (xs : List FV) : Option BlockOut :=
  if xs.any (fun x => !fvFinite x) then none
  else
    let a := xs.foldl magMax (.fin false 0 0)
    if fvIsZero a then some ⟨1, xs.map (fun _ => 0), 0⟩
    else
      let ex := istusExp a
      let zs := xs.map (fun x =>
        let (n, m, e) := fvParts x
        let (num, den) := fracOf m (e - ((ex : Int) - 127))
        saturate fmt (ratRne ⟨n, num, den⟩))
      some ⟨ex, zs.map (fun z => wrapInt 8 z.1), zs.foldl (fun n z => n + z.2) 0⟩

/-- Convert one block to a block-scaled format. -/
def quantise (fmt ts : Nat) (xs : List FV) (draws : Option (List Nat)) : Option BlockOut :=
  if isIstus fmt then quantiseIstus fmt xs else quantiseInt fmt ts xs draws

/-! ### N8, INT32 and floating-point outputs (R57, R60, R157) -/

/-- A magnitude beyond the range saturates, and counts as one (R57, R157). -/
def satCode (v : Nat) : Counted := (v, evCodes 1)
/-- A NaN for a format that has none is an invalid operation, and its code is 0 (R57, R157). -/
def nanCode : Counted := (0, { ev0 with invalid := 1 })

/-- Round v to N8; magnitudes above 480 saturate (R56, R57). -/
def n8Round (v : FV) : Counted :=
  match v with
  | .nan => nanCode
  | .inf n => satCode (if n then 0xFF else 0x7F)
  | .fin n m e =>
    let (k, x) := roundMag 4 (-9) m e
    let (k, x) := if k = 16 then (8, x + 1) else (k, x)
    let sign := if n then 0x80 else 0
    if fvLt (.fin false 480 0) (.fin false m e) then satCode (sign + 0x7F)
    else if k = 0 then (0, ev0)
    else if k < 8 then (sign + k, ev0)
    else (sign + (x + 10).toNat * 8 + (k - 8), ev0)

/-- Convert an FP32 value to N8: x / T in FP32, then one rounding (R57). -/
def n8Encode (ts : Nat) (x : FV) : Counted :=
  let y := fpRoundFlush fp32 (fvDiv 24 x (fpDecode fp32 ts))
  let r := n8Round (fpDecode fp32 y.val)
  (r.1, evAdd (evOf y) r.2)

/-- Round to INT32, saturating; a NaN is 0 (R157). -/
def int32Encode (v : FV) : Counted :=
  match v with
  | .nan => nanCode
  | .inf n => satCode (if n then 0x80000000 else 0x7FFFFFFF)
  | .fin n m e =>
    let (num, den) := fracOf m e
    let z := ratRne ⟨n, num, den⟩
    if z < -2147483648 then satCode 0x80000000 else if 2147483647 < z then satCode 0x7FFFFFFF else (wrapInt 32 z, ev0)

/-- A value bound for N8, as FP32: an FP64 value is first rounded to FP32 (R157). -/
def n8From (p : FpFmt) (ts : Nat) (x : FV) : Counted :=
  if p = fp64 then
    let y := fpRoundFlush fp32 x
    let r := n8Encode ts (fpDecode fp32 y.val)
    (r.1, evAdd (evOf y) r.2)
  else n8Encode ts x

/-- An output element of OUT in formats 0x0C to 0x10 from a value of the program (R60, R157). -/
def encodeOut (fmt ts : Nat) (p : FpFmt) (v : Nat) : Counted :=
  let x := fpGlaze p v
  if fmt = 0x0C then n8From p ts x
  else if fmt = 0x0D then counted (fpRoundFlush bf16 x)
  else if fmt = 0x0E then counted (fpRoundFlush fp32 x)
  else if fmt = 0x0F then counted (fpRound fp64 x)
  else int32Encode x

/-! ### SCAN and SLICE (R94 to R98) -/

/-- The least α ≥ −1,080 with |x| ≤ 127 · 2^α for a row's largest magnitude (R95). -/
def scanExp (a : FV) : Int :=
  ((List.range 2200).find? (fun (k : Nat) => magLe a (.fin false 127 ((k : Int) - 1080)))).getD 2199 - 1080

/-- ⌊256^p · x · 2^−α⌋. -/
def slicePoint (x : FV) (α : Int) (p : Nat) : Int :=
  let (n, m, e) := fvParts x
  let (num, den) := fracOf m (e - α + 8 * p)
  Int.fdiv (if n then -(num : Int) else num) den

/-- Slices d_0 to d_(s−1), as stored codes; none when |x| > 127 · 2^α (R97). -/
def slices (x : FV) (α : Int) (sl : Nat) : Option (List Nat) :=
  if magLe x (.fin false 127 α) then
    some ((List.range sl).map (fun p =>
      let v := slicePoint x α p
      if p = 0 then wrapInt 8 v else wrapInt 8 (v - 256 * slicePoint x α (p - 1))))
  else none

/-- Exponents that a plane, load or store may carry (R96). -/
def splitExpOk (z : Int) : Bool := decide (-1080 ≤ z) && decide (z ≤ 1018)

/-! ### The store's roundings (R88, R105, R106, R121) -/

/-- X · 2^e as a value. -/
def accValue (x : Int) (e : Int) : FV := .fin (decide (x < 0)) x.natAbs e

/-- A scaled-integer accumulator drained into format `f` under the latched product (R88). -/
def drainInt (f : FpFmt) (x : Int) (prod : Option Word) : FpOut :=
  match prod with
  | none => fpPlain 0
  | some w =>
    if x = 0 then fpPlain 0
    else
      let r1 := (fpRound f (accValue x (-8))).val
      fpStore f (fvMul (fpDecode f r1) (fpDecode fp64 w.toNat))

/-- A split-mode accumulator drained with one rounding (R105). -/
def drainSplit (f : FpFmt) (x : Int) (e : Int) : FpOut := if x = 0 then fpPlain 0 else fpStore f (accValue x e)

/-- An addend of format `f` as the store reads it: subnormals of FP32 are zero (R59). -/
def addendValue (f : FpFmt) (v : Nat) : FV := fpGlaze f v

/-- Y + σ · x rounded once (R106, R121). -/
def addSigned (f : FpFmt) (neg : Bool) (y x : FV) : FpOut := fpResult f [y, x] (fvAdd y (if neg then fvNeg x else x))

end Sys2Proof.Machine
end

