-- ==== Sys2Proof/Machine/Blocks.lean ====
section
/-! DEFINITION. Parameter blocks of the tile commands (R197, R199 to R202), the spans a command reads and writes (R209),
and which queue a command belongs to (R196, R208). -/

namespace Sys2Proof.Machine

open Sys2Proof

/-! ### Queues -/

/-- The queues of R196. -/
inductive Queue where
  | array | chain | transfer | none
deriving DecidableEq, Repr

/-- The queue of a tile opcode. -/
def queueOf (op : Nat) : Queue :=
  if op = 0x10 ∨ op = 0x11 ∨ op = 0x12 ∨ op = 0x13 then .array
  else if op = 0x18 ∨ op = 0x19 ∨ op = 0x1A then .chain
  else if op = 0x08 ∨ op = 0x09 ∨ op = 0x1C ∨ op = 0x1D then .transfer
  else .none

/-- Whether a sequencer's streams accept an opcode (R196, R225, R372, R447). -/
def opcodeOk (q op : Nat) : Bool :=
  (decide (1 ≤ op) && decide (op ≤ 5)) ||
  (if isTileSeq q then op == 6 || queueOf op != .none
   else if isPlumbSeq q then op == 0x20
   else if isTrussSeq q then op == 0x28 || op == 0x29
   else op == 0x30 || op == 0x31)

/-! ### Command fields -/

/-- Rack address of the parameter block (R197). -/
def cmdBlock (w : BitVec 128) : Nat := cmdBits w 16 42 * 64

/-- Reserved bits of a command, by opcode: a mask of the bits that R199 gives a meaning. -/
def cmdMask (op : Nat) : Nat :=
  let pb := (2 ^ 42 - 1) * 2 ^ 16
  let b := fun (lo n : Nat) => (2 ^ n - 1) * 2 ^ lo
  match op with
  | 0x01 => 0xFF
  | 0x02 => 0xFF
  | 0x03 => 0xFF + b 8 14 + b 64 64
  | 0x04 => 0xFF + b 8 1 + b 16 14 + b 30 7 + b 37 1 + b 64 64
  | 0x05 => 0xFF + b 8 1 + b 16 48
  | 0x06 => 0xFF + b 8 1 + b 16 32 + b 64 48
  | 0x08 => 0xFF + b 8 1 + pb
  | 0x09 => 0xFF + b 8 4 + b 16 112
  | 0x10 => 0xFF + b 8 1 + pb + b 58 12
  | 0x11 => 0xFF + b 8 3 + pb + b 58 12
  | 0x12 => 0xFF + b 8 3 + pb + b 58 12
  | 0x13 => 0xFF + b 8 1 + pb + b 58 48
  | 0x18 => 0xFF + pb
  | 0x19 => 0xFF + b 8 6 + pb + b 58 16
  | 0x1A => 0xFF + b 8 1 + pb + b 58 16
  | 0x1C => 0xFF + b 8 2 + pb
  | 0x1D => 0xFF + b 8 4 + pb
  | 0x20 => 0xFF + pb
  | 0x28 => 0xFF + pb
  | 0x29 => 0xFF + b 8 2 + pb
  | 0x30 => 0xFF + pb
  | 0x31 => 0xFF + pb
  | _ => 0

/-- A reserved bit of the command is set (R15). -/
def cmdReserved (w : BitVec 128) : Bool := (w.toNat &&& (2 ^ 128 - 1 - cmdMask (cmdOpcode w))) != 0

/-- Bytes of a command's parameter block (R196). -/
def blockBytes (op : Nat) : Nat :=
  match queueOf op with
  | .chain => 256
  | .array => 64
  | .transfer => if op = 0x09 then 0 else 64
  | .none => 0

/-- A field of `n` bytes at offset `k` of a block. -/
def blkNat (v k n : Nat) : Nat := bits v (8 * k) (8 * n)
/-- The TREF at offset `k`. -/
def blkTref (v k : Nat) : Nat := blkNat v k 16
/-- The six ORIGIN words at offset `k` (R200). -/
def blkOrigin (v k : Nat) : List Nat := (List.range 6).map (fun d => bits (blkNat v (k + 4 * d) 4) 0 24)
/-- Reserved bits of ORIGIN words. -/
def originReserved (v k : Nat) : Bool := (List.range 6).any (fun d => bits (blkNat v (k + 4 * d) 4) 24 8 != 0)

/-- The bytes of a command's block, checked to lie where R197 lets it lie. -/
def readBlock (s : Block) (q : Nat) (w : BitVec 128) : Except Stop Nat := do
  let n := blockBytes (cmdOpcode w)
  let a := cmdBlock w
  need (seqMem s q a n && rackPopulated s a && rackPopulated s (a + n - 1)) .badAddress
  readLe s q a n

/-! ### Spans (R209) -/

/-- Span of `n` bytes at a rack address. -/
def spanAt (a n : Nat) : Span := ⟨a, a + n⟩

/-- Spans of a named tensor: its descriptor and its own bytes; none when the reference names none. -/
def trefSpans (s : Block) (q v : Nat) : List Span × List Span :=
  let a := bits v 0 48
  if a = 0 then ([], []) else ([spanAt a 64], [descSpan (descOf (rackLe s q a 64))])

/-- The read spans of a tensor that is read. -/
def readSpans (s : Block) (q v : Nat) : List Span := let p := trefSpans s q v; p.1 ++ p.2

/-- Program fields that decide spans (R144, R147). -/
def progWord (v k : Nat) : Nat := blkNat v (16 + 4 * k) 4
def progConst (v k : Nat) : Nat := blkNat v (64 + 8 * k) 8

/-- A module-local address as a rack address of this module (R209). -/
def localSpan (s : Block) (a n : Nat) : Span := spanAt (ownAddr s a) n

/-- Span of the planes 1 to n − 1 that a SLICE output writes behind plane 0 (log 88). -/
def planeSpans (s : Block) (q v n : Nat) : List Span :=
  let a := bits v 0 48
  if a = 0 then [] else
    let d := descOf (rackLe s q a 64)
    [⟨elemEnd d, d.base + n * (elemEnd d - d.base)⟩]

/-- Spans of a chain command: read and written (R201, R209). -/
def chainSpans (s : Block) (q : Nat) (w : BitVec 128) (v : Nat) : List Span × List Span :=
  let op := cmdOpcode w
  let rows := bits (blkNat v 8 8) 6 8 + 1
  let width := bits (blkNat v 8 8) 14 7 + 1
  let raw := decide (op = 0x19) && bit w.toNat 9
  let dgrad := (decide (op = 0x19) && bit w.toNat 13) || (decide (op = 0x1A) && bit w.toNat 8)
  if raw then ([], [spanAt (blkNat v 16 8) (16 * (128 * (rows - 1) + width))])
  else
    let prog := blkNat v 0 8
    let pv := memLe s prog 256
    let wide := bit pv 0
    let ins := (List.range 4).flatMap (fun k => if op = 0x19 ∧ k = 0 then [] else readSpans s q (blkTref v (80 + 16 * k)))
    let outs := (List.range 4).map (fun k =>
      let sp := trefSpans s q (blkTref v (144 + 16 * k))
      (sp.1, if bits (progWord pv 10) 0 3 = 3 ∧ bits (progConst pv 11) (16 * k) 4 = 12 then
        sp.2 ++ planeSpans s q (blkTref v (144 + 16 * k)) (6 + bits (progWord pv 10) 13 2) else sp.2))
    let keep := trefSpans s q (blkTref v 208)
    let mask := trefSpans s q (blkTref v 240)
    let add := readSpans s q (blkTref v 224)
    let red := progWord pv 9
    let es := if wide then 8 else 4
    let redn := if bits red 0 3 = 0 then 0 else if bit red 3 then rows * es else 128 * es
    let redSpan := if redn = 0 then [] else [spanAt (blkNat v 24 8) redn]
    let cnt := if bit (progWord pv 11) 0 then [spanAt (blkNat v 32 8) 8] else []
    let pwp := if bits (progWord pv 5) 0 5 = 1 then [localSpan s (blkNat pv 160 8) (if wide then 8192 else 4096)] else []
    let st := if blkNat pv 168 8 ≠ 0 then [localSpan s (blkNat pv 168 8) 1040] else []
    let compress := bit (progWord pv 11) 0
    (localSpan s prog 256 :: pwp ++ st ++ ins ++ add ++ (if dgrad then keep.2 else []) ++
        (if compress then [] else mask.2) ++ keep.1 ++ mask.1 ++ outs.flatMap (·.1) ++ redSpan,
     outs.flatMap (·.2) ++ (if dgrad then [] else keep.2) ++ (if compress then mask.2 else []) ++ redSpan ++ cnt)

/-- The spans a command reads and writes; a block that cannot be read gives none, since the command is then refused. -/
def cmdSpans (s : Block) (q : Nat) (w : BitVec 128) : List Span × List Span :=
  let op := cmdOpcode w
  if !isTileSeq q then ([], [])
  else if op = 0x05 then ([], [spanAt (cmdBits w 16 48) (if bit w.toNat 8 then 8 else 64)])
  else if op = 0x06 then
    if bit w.toNat 8 ∧ cmdBits w 64 48 ≠ 0 then ([], [spanAt (cmdBits w 64 48) 32]) else ([], [])
  else if op = 0x09 then
    let n := (cmdBits w 100 28 + 1) * 64
    ([spanAt (cmdBits w 16 42 * 64) n], [spanAt (cmdBits w 58 42 * 64) n])
  else if queueOf op = .none then ([], [])
  else
    match readBlock s q w with
    | .error _ => ([], [])
    | .ok v =>
      let pb := spanAt (cmdBlock w) (blockBytes op)
      if queueOf op = .chain then
        let (r, wr) := chainSpans s q w v
        (pb :: r, wr)
      else if op = 0x13 then
        let rows := bits (blkNat v 20 4) 0 8 + 1
        let width := bits (blkNat v 20 4) 8 7 + 1
        let exps := if bit w.toNat 58 then [spanAt (blkNat v 24 8) (2 * rows), spanAt (blkNat v 32 8) (2 * width)] else []
        (pb :: spanAt (blkNat v 0 8) (16 * (128 * (rows - 1) + width)) :: exps, [])
      else if queueOf op = .array then (pb :: readSpans s q (blkTref v 0), [])
      else if op = 0x08 then
        let d := trefSpans s q (blkTref v 16)
        let st := (if blkNat v 32 8 ≠ 0 then [spanAt (blkNat v 32 8) (blkNat v 40 4)] else []) ++
          (if blkNat v 48 8 ≠ 0 then [spanAt (blkNat v 48 8) (blkNat v 56 4)] else [])
        (pb :: readSpans s q (blkTref v 0) ++ d.1, d.2 ++ (if bit w.toNat 8 then st else []))
      else
        let d := trefSpans s q (blkTref v 16)
        let idx := spanAt (blkNat v 32 8) (4 * blkNat v 40 4)
        let comb := if op = 0x1D ∧ cmdBits w 10 2 ≠ 0 then d.2 else []
        (pb :: idx :: readSpans s q (blkTref v 0) ++ d.1 ++ comb, d.2)

end Sys2Proof.Machine
end

