-- ==== Sys2Proof/Machine/Streams.lean ====
section
/-! DEFINITION. Command streams (R190 to R215): the window of fetched commands, the order in which they start, and the
commands that every sequencer accepts. -/

namespace Sys2Proof.Machine

open Sys2Proof

/-- Units work in READY and RUN (R533), but not while the memory is zeroed for a job (R273). -/
def unitsOn (s : Block) : Bool := decide (2 ≤ powerState s) && !s.launch.zeroing

/-! ### The window -/

/-- Replace a slot of the window. -/
def slotPut (st : StreamSt) (c : CmdSlot) : StreamSt :=
  { st with win := st.win.map (fun d => if d.idx = c.idx then c else d) }

/-- Drop finished commands from the front. -/
def dropDone : List CmdSlot → List CmdSlot
  | [] => []
  | c :: t => if c.phase = .done then dropDone t else c :: t

/-- A command as it is fetched. -/
def newSlot (i : Nat) (w : BitVec 128) : CmdSlot := ⟨i, w, .fetched, [], [], .ok, 0, 0, 0, false, false, []⟩

/-- The read of 64 bytes that holds the next command, module-local, and the commands it brings (R193). -/
def fetchAt (st : StreamSt) : Nat := (rackLocal st.base + 16 * st.nextFetch) / 64 * 64
def fetchCount (st : StreamSt) : Nat := min (st.ncmd - st.nextFetch) (4 - (rackLocal st.base / 16 + st.nextFetch) % 4)

/-- Why the next command of a stream cannot be read: the stream leaves the memory that may hold it, or its read of 64 bytes is
refused. -/
def fetchStatus (s : Block) (q : Nat) (st : StreamSt) : Option (Status × Nat) :=
  if !seqMem s q (st.base + 16 * st.nextFetch) 16 then some (.badAddress, rackLocal st.base + 16 * st.nextFetch)
  else accessStatus s (seqOwner s q) .read (fetchAt st) 64

/-- Fetch up to `fuel` reads of commands into the window, which holds 64 (R193). -/
def refillN (q : Nat) : Nat → Block → Block
  | 0, s => s
  | fuel + 1, s =>
    let x := seqAt s q
    match x.stream with
    | none => s
    | some st =>
      let n := fetchCount st
      if st.win.length + n ≤ 64 ∧ st.nextFetch < st.ncmd ∧ (fetchStatus s q st).isNone then
        if unitFree s (fetchAt st) 64 false then
          let cs := (List.range n).map (fun k => newSlot (st.nextFetch + k) (streamWord s st (st.nextFetch + k)))
          refillN q fuel (seqPut (homeRead s (fetchAt st) 0 64).1 q { x with stream := some { st with win := st.win ++ cs, nextFetch := st.nextFetch + n } })
        else unitAsk s (fetchAt st) 64 false
      else s

/-- Drop finished commands and fetch the next ones. -/
def refill (s : Block) (q : Nat) : Block :=
  let x := seqAt s q
  match x.stream with
  | none => s
  | some st => refillN q 64 (seqPut s q { x with stream := some { st with win := dropDone st.win } })

/-! ### Order (R208, R209) -/

/-- Commands that hold back every later one until they are done: HALT, FENCE, WAIT, SWATCH. -/
def holdsBack (w : BitVec 128) : Bool := [1, 2, 3, 6].contains (cmdOpcode w)

/-- The commands ahead of index `i` in the window. -/
def ahead (st : StreamSt) (i : Nat) : List CmdSlot := st.win.filter (fun c => decide (c.idx < i))

/-- Nothing ahead holds this command back. -/
def unheld (st : StreamSt) (i : Nat) : Bool := (ahead st i).all (fun c => c.phase == .done || !holdsBack c.word)

/-- Every earlier command has completed. -/
def allDone (st : StreamSt) (i : Nat) : Bool := (ahead st i).all (fun c => c.phase == .done)

/-- The first fetched command of a kind. -/
def firstOf (st : StreamSt) (p : BitVec 128 → Bool) : Option CmdSlot :=
  st.win.find? (fun c => c.phase == .fetched && p c.word)

/-- Descriptors that a block's references name. -/
def blockDescs (op v : Nat) : List (Nat × Nat) :=
  let offs := match queueOf op with
    | .chain => (List.range 11).map (fun k => 80 + 16 * k)
    | .array => if op = 0x13 then [] else [0]
    | .transfer => if op = 0x09 then [] else [0, 16]
    | .none => []
  (offs.map (fun k => (bits (blkTref v k) 0 48, 64))).filter (fun p => p.1 != 0)

/-- Whether the spans of a command can be told: each descriptor it names is the module's own, or its bytes have been read. -/
def spansKnown (s : Block) (q : Nat) (w : BitVec 128) : Bool :=
  if !isTileSeq q ∨ blockBytes (cmdOpcode w) = 0 then true
  else
    match readBlock s q w with
    | .error _ => true
    | .ok v => (blockDescs (cmdOpcode w) v).all (fun p =>
        isOwn s p.1 || tget [] (seqAt s q).lines (p.1 / 128) != [] || (seqAt s q).refused.any (fun r => r.1 == p.1 / 128))

/-- Spans of a command in the window: latched when it started, else those it will have. -/
def slotSpans (s : Block) (q : Nat) (c : CmdSlot) : List Span × List Span :=
  if c.phase = .fetched then cmdSpans s q c.word else (c.reads, c.writes)

/-- Whether any span of the first list meets one of the second. -/
def anyMeet (a b : List Span) : Bool := a.any (fun x => b.any (fun y => meets x y))

/-- No span of the command meets one that an earlier incomplete command writes, and none it writes meets one that such a
command reads (R209). Spans that cannot yet be told are taken to meet; a command whose own cannot be told first reads its descriptors,
which its start asks for. -/
def noHazard (s : Block) (q : Nat) (st : StreamSt) (c : CmdSlot) : Bool :=
  let me := cmdSpans s q c.word
  !spansKnown s q c.word || ((ahead st c.idx).filter (fun d => d.phase != .done)).all (fun d =>
    let o := slotSpans s q d
    (d.phase != .fetched || spansKnown s q d.word) && !anyMeet me.1 o.2 && !anyMeet me.2 o.2 && !anyMeet me.2 o.1)

/-- Fewer than 16 commands have started and not completed (R208). -/
def startsLeft (st : StreamSt) : Bool := decide ((st.win.filter (fun d => d.phase == .started)).length < 16)

/-- Whether a queued command may start (R141, R208, R209, R225): nothing holds it back, its queue has started everything
ahead, fewer than 16 commands are started, and no hazard stands; the chain runs one operation at a time. Commands of no
queue (SOLVE, COLL, GROUP, ARM, RESTORE) start when every earlier command has completed. -/
def mayStart (s : Block) (q : Nat) (st : StreamSt) (c : CmdSlot) : Bool :=
  let k := queueOf (cmdOpcode c.word)
  if k = .none then allDone st c.idx
  else
    unheld st c.idx &&
    (ahead st c.idx).all (fun d => queueOf (cmdOpcode d.word) != k || d.phase != .fetched) &&
    startsLeft st &&
    (k != .chain || (ahead st c.idx).all (fun d => queueOf (cmdOpcode d.word) != .chain || d.phase == .done)) &&
    noHazard s q st c

/-- A stream in progress of a sequencer that starts commands: not held by a disable. -/
def startingStream (s : Block) (q : Nat) : Option StreamSt :=
  let x := seqAt s q
  match x.stream with
  | some st => if x.intake then some st else none
  | none => none

/-! ### Traces and completion -/

/-- The trace record of a sampled command (R523, R524). -/
def traceCmd (s : Block) (q : Nat) (c : CmdSlot) (stopped : Bool) : Block :=
  if !c.sampled then s
  else
    let first := (c.reads ++ c.writes).headD ⟨0, 0⟩
    let remote := first.lo != 0 && !isOwn s first.lo
    let ident := c.idx % 2 ^ 24 + (seqAt s q).n * 2 ^ 24
    traceQueue s (seqUnit s q) (traceBytes c.hall.toNat (seqUnit s q) (cmdOpcode c.word) stopped remote c.stalled
      (s.clk.cycle - c.began) (ident % 2 ^ 64) first.lo)

/-- Every earlier command of the window has been started or done. -/
def noneQueued (st : StreamSt) (i : Nat) : Bool := (ahead st i).all (fun c => c.phase != .fetched)

/-- What a stream does by itself: a stopped one ends when nothing started is left; the end of the list without HALT, an
unreadable command, and a reserved opcode stop it (R15, R193, R196). -/
def settle (s : Block) (q : Nat) : Block :=
  let x := seqAt s q
  match x.stream with
  | none => s
  | some st =>
    match st.win.find? (fun c => c.phase == .fetched && beforeStop st c.idx) with
    | some c =>
      if !opcodeOk q (cmdOpcode c.word) && noneQueued st c.idx && unheld st c.idx then stopStream s q c.idx .malformed 0
      else if st.stop.isSome then finishStop s q
      else s
    | none =>
      if st.stop.isSome then finishStop s q
      else if st.win.any (fun c => c.phase != .done) then s
      else if st.ncmd ≤ st.nextFetch then stopStream s q (st.ncmd - 1) .noHalt 0
      else
        match fetchStatus s q st with
        | some (e, l) => stopStream s q st.nextFetch e (ownAddr s l)
        | none => s

/-- A command of the window is done. -/
def completeSlot (s : Block) (q : Nat) (i : Nat) : Block :=
  let x := seqAt s q
  match x.stream with
  | none => s
  | some st =>
    match st.win.find? (fun c => c.idx == i) with
    | none => s
    | some c =>
      let s := seqPut s q { x with stream := some (slotPut st { c with phase := .done }) }
      settle (refill (traceCmd s q c false) q) q

/-- A command ends its stream: it counts as done, and the stop is marked at its index (R215). -/
def stopSlot (s : Block) (q : Nat) (c : CmdSlot) (p : Stop) : Block :=
  let x := seqAt s q
  match x.stream with
  | none => s
  | some st =>
    let s := seqPut s q { x with stream := some (slotPut st { c with phase := .done }) }
    stopStream (traceCmd s q c true) q c.idx p.st p.detail

/-- The first warning of a stream stands in WARN (R195). -/
def warnStream (s : Block) (q : Nat) (w : Status) : Block :=
  let x := seqAt s q
  match x.stream with
  | some st => if st.warn = .ok ∧ w ≠ .ok then seqPut s q { x with stream := some { st with warn := w } } else s
  | none => s

/-- How a command begins: it cannot start yet, it stops its stream, or it has started with what it reports; `quick` marks
one that is complete at once. -/
inductive Began where
  | wait (s : Block)
  | stop (s : Block) (p : Stop)
  | go (s : Block) (warn : Status) (quick : Bool)

/-- Mark a command as waiting on a protected granule (R523). -/
def markStalled (s : Block) (q : Nat) (c : CmdSlot) : Block :=
  let x := seqAt s q
  match x.stream with
  | some st => seqPut s q { x with stream := some (slotPut st { c with stalled := true }) }
  | none => s

/-- A command whose operands lie in lines not yet free, or in other modules and not yet fetched, must wait; none when it
may go on. A line whose home refused it has been answered: the command stops where it reads the line. -/
def operandWait (s : Block) (q : Nat) (hint : Nat) (c : CmdSlot) (rd wr : List (Nat × Nat)) : Option Began :=
  let far := missingLines s q rd
  if !far.isEmpty then
    match fetchLines s q hint far with
    | (_, some st) => some (.stop s ⟨st, 0⟩)
    | (s1, none) => some (.wait s1)
  else if !piecesFree s rd false then some (.wait (piecesAsk s rd false))
  else if !piecesFree s wr true then some (.wait (markStalled (piecesAsk s wr true) q c))
  else none

/-- A tile command waits until its block and descriptors can be read. -/
def blockWait (s : Block) (q : Nat) (c : CmdSlot) : Option Began :=
  let op := cmdOpcode c.word
  if queueOf op = .none ∨ blockBytes op = 0 then none
  else
    match readBlock s q c.word with
    | .error _ => none
    | .ok v =>
      let ds := (blockDescs op v).filter (fun p => p.1 % 64 == 0 && rackPopulated s p.1)
      operandWait s q 0 c ((cmdBlock c.word, blockBytes op) :: ds) []

/-- The reads of a tile command's block and descriptors, which carry no hint: the cache sees each under KEEP (R280). -/
def touchBlock (s : Block) (q : Nat) (c : CmdSlot) : Block :=
  let op := cmdOpcode c.word
  if queueOf op = .none ∨ blockBytes op = 0 then s
  else
    match readBlock s q c.word with
    | .error _ => s
    | .ok v => touchPieces s 0 ((cmdBlock c.word, blockBytes op) :: blockDescs op v)

/-- A command as it starts, with its spans and its time (R209, R523). -/
def begunSlot (s : Block) (q : Nat) (c : CmdSlot) : CmdSlot :=
  let spans := cmdSpans s q c.word
  { c with phase := .started, reads := spans.1, writes := spans.2, began := s.clk.cycle, hall := hallNow s,
           sampled := (sampleTick s (seqClass q) (seqUnit s q)).2 }

/-- The state in which a command starts: its start is counted for the trace (R523). -/
def begunState (s : Block) (q : Nat) : Block := (sampleTick s (seqClass q) (seqUnit s q)).1

/-- A command has started and its effect stands: the window takes it as started, its warning is kept, and a quick one is
done. -/
def carryOn (s : Block) (q : Nat) (c : CmdSlot) (warn : Status) (quick : Bool) : Block :=
  let x := seqAt s q
  match x.stream with
  | none => s
  | some st =>
    let s1 := warnStream (seqPut s q { x with lines := [], refused := [], stream := some (slotPut st c) }) q warn
    if quick then completeSlot s1 q c.idx else settle s1 q

/-- The eight counters of a unit. -/
def unitCounters (s : Block) (u : Nat) : List Nat := (List.range 8).map (fun k => tget 0 s.counters.vals (8 * u + k))

/-- What a start has added to each counter of a unit. -/
def countsOf (s s1 : Block) (u : Nat) : List Nat :=
  ((unitCounters s u).zip (unitCounters s1 u)).map (fun x => (x.2 + 2 ^ 48 - x.1) % 2 ^ 48)

/-- Begin a command of a stream: its reserved bits, then its own effect. -/
def beginSlot (s : Block) (q : Nat) (c : CmdSlot) (body : Block → CmdSlot → Began) : Block :=
  let s1 := begunState s q
  let c1 := begunSlot s q c
  if cmdReserved c.word then stopSlot s1 q c1 ⟨.malformed, 0⟩
  else if isTileSeq q && tileAbsent s q then stopSlot s1 q c1 ⟨.tileAbsent, 0⟩
  else
    match (blockWait s1 q c1).getD (body (touchBlock s1 q c1) c1) with
    | .wait _ =>
      match (blockWait s q c).getD (body s c) with
      | .wait s2 => s2
      | _ => s
    | .stop s2 p => stopSlot s2 q c1 p
    | .go s2 warn quick => carryOn s2 q { c1 with counts := countsOf s s2 (seqUnit s q) } warn quick

/-- Whether a command stands before any stop, with no reserved opcode ahead of it: commands are decoded in command order
(R15, R208, R215). -/
def reached (st : StreamSt) (q i : Nat) : Bool :=
  beforeStop st i && (ahead st i).all (fun d => opcodeOk q (cmdOpcode d.word))

/-- What a stream is after it has fetched what it can and done what it does by itself. -/
def settled (s : Block) (q : Nat) : Block := settle (refill s q) q

/-- The command of a kind that a stream starts next: one of a queue (`plain` none), when it is the next of its queue and the
order rules let it, or a WAIT, SIGNAL, COUNTER, SWATCH or FENCE, where `plain` asks that every earlier command has completed
(R208). -/
def nextCmd (s : Block) (q : Nat) (plain : Option Bool) (p : BitVec 128 → Bool) : Option CmdSlot :=
  match startingStream s q with
  | none => none
  | some st =>
    match firstOf st p with
    | none => none
    | some c =>
      if reached st q c.idx && (match plain with
        | none => mayStart s q st c
        | some alone => unheld st c.idx && startsLeft st && (!alone || allDone st c.idx)) then some c else none

/-- The next command of a kind starts. -/
def startNext (s : Block) (q : Nat) (plain : Option Bool) (p : BitVec 128 → Bool) (body : Block → CmdSlot → Began) : Block :=
  let s := settled s q
  match nextCmd s q plain p with
  | none => s
  | some c => ledgerFlush (beginSlot s q c body)

/-- A queued command of a kind starts (R208). -/
def startQueued (s : Block) (q : Nat) (p : BitVec 128 → Bool) (body : Block → CmdSlot → Began) : Block :=
  startNext s q none p body

/-- A WAIT, SIGNAL, COUNTER, SWATCH or FENCE starts: `alone` asks that every earlier command has completed (R208). -/
def startPlain (s : Block) (q : Nat) (alone : Bool) (p : BitVec 128 → Bool) (body : Block → CmdSlot → Began) : Block :=
  startNext s q (some alone) p body

/-! ### LAUNCH (R190 to R195) -/

/-- Address of a sequencer's stream table, module-local: the tile's scratchpad, the Plumb tables, OD 0x8000.01 and
0xA000.01 (R190, R220, R371, R447). -/
def streamTable (s : Block) (q : Nat) : Nat :=
  if isTileSeq q then scratchBase q + 0x5FE000
  else if isPlumbSeq q then plumbTableBase + (q - 512) * 0x2000
  else if isTrussSeq q then odNat s 0x8000 1 + (q - 528) * 0x2000
  else odNat s 0xA000 1

/-- Whether a sequencer can take a launch (R192); a Plumb group beyond G does not exist (R221). -/
def launchReady (s : Block) (q : Nat) : Bool :=
  let x := seqAt s q
  let o := syncAt s q
  unitsOn s && x.running && x.intake && x.stream.isNone && !o.aborted && decide (x.n + 1 ≤ o.count.toNat) &&
    (!isPlumbSeq q || decide (q - 512 < plumbGroups s))

/-- Take the launch: the entry is read, and what R191 does not allow stops the stream at once. -/
def takeLaunch (s : Block) (q : Nat) : Block :=
  let s := (seqUnits s q).foldl wakeUnit s
  let x := seqAt s q
  let a := streamTable s q + 32 * (x.n % 256)
  let empty : StreamSt := ⟨0, 0, 0, false, 0, [], 0, none, .ok, none⟩
  let fail := fun (st : StreamSt) (e : Status) (d : Nat) =>
    stopStream (seqPut s q { x with stream := some { st with ncmd := 0 } }) q 0 e d
  if isTileSeq q && tileAbsent s q then fail empty .tileAbsent 0
  else if !unitFree s a 32 false then unitAsk s a 32 false
  else
    match accessStatus s (seqOwner s q) .read a 32 with
    | some (e, l) => fail empty e (ownAddr s l)
    | none =>
      let s := (homeRead s a 0 32).1
      let v := memLe s a 32
      let base := bits v 0 48
      let ncmd := bits v 48 24 + 1
      let st : StreamSt := ⟨base, ncmd, BitVec.ofNat 14 (bits v 72 14), bit v 86, bits v 128 48, [], 0, none, .ok, none⟩
      if bits v 87 41 ≠ 0 ∨ bits v 176 80 ≠ 0 then fail st .malformed 0
      else if base % 16 ≠ 0 ∨ !seqMem s q base 16 ∨
          (st.record ≠ 0 ∧ (st.record % 32 ≠ 0 ∨ !seqMem s q st.record 32)) then fail st .badAddress 0
      else settle (refill (seqPut s q { x with stream := some st }) q) q

/-- LAUNCH (R192). -/
def execLaunch (q : SeqId) (s : State) : Host.Outcome State Fault Refusal := onBlock s fun s =>
  .next (if launchReady s q then ledgerFlush (takeLaunch s q) else s)

/-! ### HALT and FENCE -/

/-- HALT ends the stream once every earlier command has completed (R196). A stream whose unit is being disabled still
meets HALT (R508). -/
def doHalt (s : Block) (q : Nat) : Block :=
  let s := settled s q
  match (seqAt s q).stream with
  | none => s
  | some st =>
    match firstOf st (fun w => cmdOpcode w == 1) with
    | none => s
    | some c =>
      if st.stop.isNone && st.waiting.isNone && allDone st c.idx then
        if cmdReserved c.word then stopSlot s q c ⟨.malformed, 0⟩ else endStreamOk s q c.idx
      else s

def execHalt (q : SeqId) (s : State) : Host.Outcome State Fault Refusal := onBlock s fun s => .next (ledgerFlush (doHalt s q))

/-- FENCE (R213): every earlier write is performed, so it is done at once. -/
def execFence (q : SeqId) (s : State) : Host.Outcome State Fault Refusal := onBlock s fun s =>
  .next (startPlain s q true (fun w => cmdOpcode w == 2) (fun s _ => .go s .ok true))

/-! ### WAIT (R205) -/

/-- The object and value of a WAIT. -/
def waitObj (w : BitVec 128) : ObjId := BitVec.ofNat 14 (cmdBits w 8 14)
def waitValue (w : BitVec 128) : Word := BitVec.ofNat 64 (cmdBits w 64 64)

/-- The pending WAIT of a sequencer. -/
def pendingWait (s : Block) (q : Nat) : Option WaitSt := (seqAt s q).stream.bind (·.waiting)

/-- Issue a WAIT: released at once, ended with ABORTED, or pending. -/
def issueWait (s : Block) (q : Nat) (c : CmdSlot) : Block :=
  let o := syncAt s (waitObj c.word).toNat
  let x := seqAt s q
  if cmdReserved c.word then stopSlot s q c ⟨.malformed, 0⟩
  else if o.aborted then stopSlot s q c ⟨.aborted, 0⟩
  else if (waitValue c.word).toNat ≤ o.count.toNat then completeSlot (countEvent s unitSync 2 1) q c.idx
  else
    match x.stream with
    | some st => seqPut s q { x with stream := some { st with waiting := some ⟨c.idx, waitObj c.word, waitValue c.word, hallNow s⟩ } }
    | none => s

/-- The WAIT that a stream issues next: none while one is pending. -/
def nextWait (s : Block) (q : Nat) : Option CmdSlot :=
  if (pendingWait s q).isSome then none else nextCmd s q (some false) (fun w => cmdOpcode w == 3)

/-- WAIT: no later command starts until it is released. -/
def execWait (q : SeqId) (s : State) : Host.Outcome State Fault Refusal := onBlock s fun s =>
  let s := settled s q
  .next (match nextWait s q with
    | none => s
    | some c => ledgerFlush (issueWait (begunState s q) q c))

/-- Release the pending WAIT of a stream. -/
def releaseWait (s : Block) (q : Nat) (w : WaitSt) : Block :=
  let x := seqAt s q
  match x.stream with
  | some st => completeSlot (countEvent (seqPut s q { x with stream := some { st with waiting := none } }) unitSync 2 1) q w.idx
  | none => s

/-- Whether an object releases a waiter for a value (R205). -/
def waitMet (s : Block) (obj : ObjId) (v : Word) : Bool :=
  let o := syncAt s obj.toNat
  !o.aborted && decide (v.toNat ≤ o.count.toNat)

/-- WAIT_RELEASE (R205). -/
def execWaitRelease (q : SeqId) (s : State) : Host.Outcome State Fault Refusal := onBlock s fun s =>
  .next (match pendingWait s q with
    | some w => if waitMet s w.obj w.value then ledgerFlush (releaseWait s q w) else s
    | none => s)

/-- Whether WAIT_LIMIT has passed since a time (R205). -/
def waitLimitPassed (s : Block) (since : Word) : Bool :=
  odNat s 0x4330 1 != 0 && decide (1000 * odNat s 0x4330 1 ≤ hallNat s - since.toNat)

/-- WAIT_TIMEOUT: a WAIT or SYNC.WAIT pending beyond WAIT_LIMIT ends; a count that reaches the value releases it instead
(R205, R266). -/
def execWaitTimeout (w : Waiter) (s : State) : Host.Outcome State Fault Refusal := onBlock s fun s =>
  .next (match w with
    | .stream q =>
      match pendingWait s q with
      | some p => if waitLimitPassed s p.since && !waitMet s p.obj p.value then
          ledgerFlush (stopStream s q p.idx .waitTimeout 0) else s
      | none => s
    | .hart h =>
      match (hartAt s h).blocked with
      | some (.syncWait rd obj v since) =>
        if waitLimitPassed s since && !waitMet s obj v then
          retireRd s h rd (BitVec.ofNat 64 (statusCode .waitTimeout)) else s
      | _ => s)

/-! ### SIGNAL (R204, R206) -/

/-- Fields of a SIGNAL. -/
def signalObj (w : BitVec 128) : Nat := cmdBits w 16 14
def signalValue (w : BitVec 128) : Word := BitVec.ofNat 64 (cmdBits w 64 64)
def signalRemote (s : Block) (w : BitVec 128) : Bool := bit w.toNat 37 && cmdBits w 30 7 != ownSlot s

/-- A remote SIGNAL leaves as an ATOM with SIGADD or SIGSET; it is done when its response has arrived. -/
def remoteSignal (q : SeqId) (s : Block) (c : CmdSlot) (aop : Nat) : Began :=
  let (s1, st) := sendAtom s (cmdBits c.word 30 7) (seqReq q) (signalObj c.word) 0 aop true (signalValue c.word).toNat 0
    (.seqSignal q c.idx)
  if st = .ok then .go s1 .ok false else .stop s ⟨st, 0⟩

/-- Whether a word is a SIGNAL with this OP. -/
def isSignal (set : Bool) (w : BitVec 128) : Bool := cmdOpcode w == 4 && bit w.toNat 8 == set

/-- A SIGNAL of either OP: at the object of the own module at once, at another module's as a request. -/
def beginSignal (set : Bool) (q : SeqId) (s : Block) (c : CmdSlot) : Began :=
  if signalRemote s c.word then remoteSignal q s c (if set then 0b11111 else 0b11110)
  else if set then .go (signalSet s (signalObj c.word) (signalValue c.word)) .ok true
  else .go (signalAdd s (signalObj c.word) (signalValue c.word)) .ok true

/-- SIGNAL ADD: every earlier command has completed, so its writes are performed (R211). -/
def execSignalAdd (q : SeqId) (s : State) : Host.Outcome State Fault Refusal := onBlock s fun s =>
  .next (startPlain s q true (isSignal false) (beginSignal false q))

/-- SIGNAL SET. -/
def execSignalSet (q : SeqId) (s : State) : Host.Outcome State Fault Refusal := onBlock s fun s =>
  .next (startPlain s q true (isSignal true) (beginSignal true q))

/-! ### COUNTER (R199, R214, R517) -/

/-- What the commands after index `i` have already added to counter `k` of their unit (R214). -/
def laterCounts (s : Block) (q i k : Nat) : Nat :=
  match (seqAt s q).stream with
  | some st => (st.win.filter (fun c => decide (i < c.idx))).foldl (fun a c => a + c.counts.getD k 0) 0
  | none => 0

/-- The eight counters of a sequencer's unit as 64 bytes, without what commands after index `i` added; zeros while JOB_COUNTERS is 0. -/
def snapBytes (s : Block) (q i : Nat) : List Byte :=
  (List.range 8).flatMap (fun k => natLe 8 (if odOn s 0xB000 2 then
    (tget 0 s.counters.vals (8 * seqUnit s q + k) + 2 ^ 48 - laterCounts s q i k % 2 ^ 48) % 2 ^ 48 else 0))

/-- Write bytes for a stream at a checked place; the command waits while the line is not free. -/
def streamStore (q : Nat) (s : Block) (c : CmdSlot) (a align : Nat) (data : List Byte) : Began :=
  if a % align ≠ 0 ∨ !seqMem s q a data.length ∨ !rackPopulated s a then .stop s ⟨.badAddress, 0⟩
  else if !unitFree s (rackLocal a) data.length true then .wait (markStalled (unitAsk s (rackLocal a) data.length true) q c)
  else
    match applyWrites s q c.idx 0 (wBytes a data.length (leNat data)) with
    | (_, some p) => .stop s p
    | (s1, none) => .go s1 .ok true

/-- Whether a word is a COUNTER with this OP. -/
def isCounter (stamp : Bool) (w : BitVec 128) : Bool := cmdOpcode w == 5 && bit w.toNat 8 == stamp

/-- A COUNTER of either OP. -/
def beginCounter (stamp : Bool) (q : Nat) (s : Block) (c : CmdSlot) : Began :=
  if stamp then streamStore q s c (cmdBits c.word 16 48) 8 (natLe 8 (hallNat s))
  else streamStore q s c (cmdBits c.word 16 48) 64 (snapBytes s q c.idx)

/-- COUNTER SNAP. -/
def execCounterSnap (q : SeqId) (s : State) : Host.Outcome State Fault Refusal := onBlock s fun s =>
  .next (startPlain s q true (isCounter false) (beginCounter false q))

/-- COUNTER STAMP. -/
def execCounterStamp (q : SeqId) (s : State) : Host.Outcome State Fault Refusal := onBlock s fun s =>
  .next (startPlain s q true (isCounter true) (beginCounter true q))

/-! ### SWATCH (R425, R443) -/

/-- The 32-byte partial of a tile. -/
def partialBytes (t : Nat) (w : SwatchSt) : List Byte :=
  natLe 8 w.sum ++ natLe 8 w.elems ++ natLe 4 w.layer.toNat ++ natLe 4 t ++ natLe 8 w.step.toNat

/-- Deliver a partial to the ledger: added to its LAYER and STEP, or written as a late SWATCH entry of a closed step. -/
def deliverSwatch (s : Block) (w : SwatchSt) : Block :=
  if s.ledger.isOpen ∧ w.step = s.ledger.step then
    let old := s.ledger.swatches.find? (fun a => a.layer == w.layer.toNat && a.step == w.step)
    let rest := s.ledger.swatches.filter (fun a => !(a.layer == w.layer.toNat && a.step == w.step))
    let acc : SwatchAcc := match old with
      | some a => ⟨a.layer, a.step, (a.sum + w.sum) % swatchP, a.elems + w.elems⟩
      | none => ⟨w.layer.toNat, w.step, w.sum, w.elems⟩
    { s with ledger := { s.ledger with swatches := rest ++ [acc] } }
  else if s.ledger.isOpen then
    ledgerEntry s 5 1 w.step.toNat (natLe 4 w.layer.toNat ++ natLe 4 0 ++ natLe 8 w.elems ++ natLe 8 w.sum ++ natLe 8 0)
  else s

/-- Whether a word is a SWATCH with this OP. -/
def isSwatch (fin : Bool) (w : BitVec 128) : Bool := cmdOpcode w == 6 && bit w.toNat 8 == fin

/-- A tile's digest as SWATCH BEGIN leaves it: cleared, with LAYER and N latched. -/
def startSwatch (s : Block) (t : Nat) (layer : BitVec 32) : Block :=
  tilePut s t { tileAt s t with swatch := ⟨true, layer, BitVec.ofNat 64 (stepCounter s), 0, 0⟩ }

/-- The effect of SWATCH BEGIN. -/
def beginSwatch (t : Nat) (s : Block) (c : CmdSlot) : Began :=
  .go (startSwatch s t (BitVec.ofNat 32 (cmdBits c.word 16 32))) .ok true

/-- SWATCH BEGIN: clears the digest and latches LAYER and N. -/
def execSwatchBegin (t : TileId) (s : State) : Host.Outcome State Fault Refusal := onBlock s fun s =>
  .next (startPlain s t.val true (isSwatch false) (beginSwatch t.val))

/-- Deliver a tile's partial and end its digest. -/
def endSwatch (s : Block) (t : Nat) : Block :=
  let x := tileAt s t
  tilePut (deliverSwatch s x.swatch) t { x with swatch := { x.swatch with on := false } }

/-- The effect of SWATCH END. -/
def beginSwatchEnd (t : Nat) (s : Block) (c : CmdSlot) : Began :=
  let a := cmdBits c.word 64 48
  if a = 0 then .go (endSwatch s t) .ok true
  else
    match streamStore t s c a 32 (partialBytes t (tileAt s t).swatch) with
    | .go s1 w quick => .go (endSwatch s1 t) w quick
    | other => other

/-- SWATCH END: delivers the partial and writes a copy to ADDR when it names one. -/
def execSwatchEnd (t : TileId) (s : State) : Host.Outcome State Fault Refusal := onBlock s fun s =>
  .next (startPlain s t.val true (isSwatch true) (beginSwatchEnd t.val))

/-! ### COMMAND_COMPLETION -/

/-- Whether a started command still waits for another module's answer. -/
def awaits (s : Block) (q : SeqId) (i : Nat) : Bool :=
  let mine := fun (o : Outst) => o.forWhom == .seqWrite q i || o.forWhom == .seqSignal q i
  s.fab.outst.any (fun o => mine o && !o.timedOut) || s.fab.held.any mine

/-- Started commands that complete by this event: weight loads, solves, collectives, armings and restores have events of
their own. -/
def completesHere (q : Nat) (w : BitVec 128) : Bool :=
  let op := cmdOpcode w
  op == 4 || (isTileSeq q && queueOf op != .none && op != 0x10)

/-- COMMAND_COMPLETION: command `i` reaches its completion condition (R196). -/
def execCommandCompletion (q : SeqId) (index : Nat) (s : State) : Host.Outcome State Fault Refusal := onBlock s fun s =>
  .next (match (seqAt s q).stream with
    | none => s
    | some st =>
      match st.win.find? (fun c => c.idx == index && c.phase == .started && completesHere q c.word) with
      | none => s
      | some _ => if awaits s q index then s else ledgerFlush (completeSlot s q index))

end Sys2Proof.Machine
end

