-- ==== Sys2Proof/Machine/Array.lean ====
section
/-! DEFINITION. The cell array: weight loads (R67, R71, R72, R91, R101), forward and transposed streams (R68 to R84, R99 to
R104), raw adds (R85, R108). -/

namespace Sys2Proof.Machine

open Sys2Proof

/-! ### Fields -/

/-- The SPLIT field (R100). -/
structure Split where
  en  : Bool
  set : Nat
  i   : Nat
  j   : Nat
deriving DecidableEq, Repr

/-- Slices of a setting: 6, 7 or 8. -/
def slicesOf (set : Nat) : Nat := 6 + set

/-- The SPLIT field of a command; its reserved bits and SET 0b11 are refused. -/
def splitOf (w : BitVec 128) : Except Stop Split := do
  need (cmdBits w 67 3 == 0 && cmdBits w 59 2 != 3) .malformed
  return ⟨bit w.toNat 58, cmdBits w 59 2, cmdBits w 61 3, cmdBits w 64 3⟩

/-- Number of the pair (I, J) in counts and masks: t(t + 1)/2 + I with t = I + J (R199). -/
def pairNum (i j : Nat) : Nat := (i + j) * (i + j + 1) / 2 + i
/-- Pairs of a setting (R99). -/
def pairCount (set : Nat) : Nat := slicesOf set * (slicesOf set + 1) / 2

/-- Geometry of a stream block (R200). -/
structure Geom where
  t    : Tensor
  kd   : Nat
  ad   : Nat
  org  : List Nat
  rows : Nat
deriving DecidableEq, Repr

/-- Read a stream block's fields and tensor. -/
def geomOf (s : Block) (q : Nat) (v : Nat) : Except Stop Geom := do
  let g := blkNat v 40 4
  need (!originReserved v 16 && bits g 14 18 == 0 && blkNat v 44 20 == 0) .malformed
  let t ← trefNeed s q (blkTref v 0) .natural false
  return ⟨t, bits g 0 3, bits g 3 3, blkOrigin v 16, bits g 6 8⟩

/-- The rules of R200 on KDIM, ADIM and ORIGIN; `pass` is the pass length. -/
def geomCheck (g : Geom) (sp : Bool) (pass : Nat) : Except Stop Unit := do
  let d := g.t.d
  need (decide (g.kd < d.ndim) && decide (g.ad < d.ndim) && g.kd != g.ad) .layoutInvalid
  need ((List.range 6).all (fun k => if k < d.ndim then decide (at_ g.org k < extOf d k) else at_ g.org k == 0))
    .layoutInvalid
  if d.kind = 4 then need (g.kd == d.rdim) .layoutInvalid
  else need (g.kd == d.rdim || (d.sq && g.kd == d.sqdim)) .blockShape
  need (at_ g.org g.kd % pass == 0 && (!sp || d.xdim == g.ad)) .layoutInvalid

/-- Elements of a pass that lie in the tensor. -/
def redLen (g : Geom) (pass : Nat) : Nat := min pass (extOf g.t.d g.kd - at_ g.org g.kd)

/-- The coordinate of index `k` along KDIM and `e` along ADIM. -/
def geomCoord (g : Geom) (k e : Nat) : List Nat := bumpCoord (bumpCoord g.org g.kd k) g.ad e

/-- Slice plane and its FMT: 0x00 for slice 0, 0x02 for the others (R98, R100). -/
def planeOk (d : Desc) (idx : Nat) : Bool := d.kind == 4 && d.fmt == (if idx = 0 then 0 else 2)

/-- An element that is padding. -/
def scaled0 : Scaled := ⟨0, 0, false, false⟩

/-- One element with its B8 code; a slice plane has none. -/
def cellElem (s : Block) (q : Nat) (g : Geom) (c : List Nat) : Except Stop Scaled := do
  if g.t.d.kind = 4 then
    let raw ← rawElem s q g.t.d c
    let (z, cl) := intCode g.t.d.fmt raw
    return ⟨z, 0, cl, false⟩
  else readScaled s q g.t c

/-- The exponent of a coordinate along XDIM, within the range of R96. -/
def readExp (s : Block) (q : Nat) (a : Nat) : Except Stop Int := do
  let v ← readLe s q a 2
  let z := sx 16 v
  need (splitExpOk z) .splitRange
  return z

/-- Coordinates of the elements that a block's command reads: `red` indices of `n` edge positions or rows within the extents. -/
def geomCells (g : Geom) (red n : Nat) : List (List Nat) :=
  (List.range (min n (extOf g.t.d g.ad - at_ g.org g.ad))).flatMap (fun e => (List.range red).map (fun k => geomCoord g k e))

/-- Exponents of the coordinates along ADIM from ORIGIN; beyond the extent they are 0 (log 85). -/
def geomExps (s : Block) (q : Nat) (g : Geom) (n : Nat) : Except Stop (Tab Int) := do
  let m := min n (extOf g.t.d g.ad - at_ g.org g.ad)
  let zs ← (List.range m).mapM (fun e => readExp s q (expPos g.t.d (geomCoord g 0 e)))
  return ((List.range m).zip zs).filter (fun p => p.2 != 0)

/-- The bytes a stream block's command reads from its tensor: elements, and scales or exponents. -/
def geomPieces (g : Geom) (red n : Nat) : List (Nat × Nat) :=
  let d := g.t.d
  let m := min n (extOf d g.ad - at_ g.org g.ad)
  (List.range m).flatMap (fun e =>
    (if d.kind = 4 then [(expPos d (geomCoord g 0 e), 2)] else []) ++
    (List.range red).flatMap (fun k =>
      let c := geomCoord g k e
      elemSpan d c :: (if d.kind = 0 ∧ k % 16 = 0 then [(scalePos d c, 1)] else [])))

/-! ### LOAD -/

/-- Formats that may be stationary (R71): S8, U8, S4, U4, and Istus as S8. -/
def stationaryOk (d : Desc) : Bool := d.kind == 0 && blockScaled d.fmt && !isG16 d.fmt

/-- Pass length: 256 reduction indices in 4-bit cells, 128 in 8-bit cells (R67). -/
def passLen (wide4 : Bool) : Nat := if wide4 then 256 else 128

/-- Checks of a weight load, before its tensor is read. A tensor that no pair of R71 takes as stationary is refused here (log 80). -/
def loadCheck (s : Block) (q : Nat) (w : BitVec 128) : Except Stop (Geom × Split × Bool) := do
  let v ← readBlock s q w
  let sp ← splitOf w
  let g ← geomOf s q v
  need (g.rows == 0) .layoutInvalid
  if sp.en then
    need (decide (sp.j < slicesOf sp.set)) .splitPair
    need (planeOk g.t.d sp.j) .formatPair
    geomCheck g true 128
    return (g, sp, false)
  else
    need (stationaryOk g.t.d) .formatPair
    let wide4 := is4bit g.t.d.fmt && !bit w.toNat 8
    geomCheck g false (passLen wide4)
    return (g, sp, wide4)

/-- Read a weight set (R67, R75): codes, scales or exponents; answers the clamped codes too. -/
def readSet (s : Block) (q : Nat) (g : Geom) (sp : Split) (wide4 : Bool) : Except Stop (WeightSet × Nat) := do
  let d := g.t.d
  let red := redLen g (passLen wide4)
  let n := min 128 (extOf d g.ad - at_ g.org g.ad)
  let rows ← (List.range red).mapM (fun k => (List.range n).mapM (fun e => cellElem s q g (geomCoord g k e)))
  let cells := ((List.range red).zip rows).flatMap (fun r => ((List.range n).zip r.2).map (fun c => (128 * r.1 + c.1, c.2)))
  let codes := (cells.filter (fun c => c.2.code != 0)).map (fun c => (c.1, c.2.code))
  let heads := cells.filter (fun c => c.1 / 128 % 16 == 0 && c.2.b8 != 0)
  let scales := if sp.en then [] else heads.map (fun c => (128 * (c.1 / 128 / 16) + c.1 % 128, c.2.b8))
  let exps ← if sp.en then geomExps s q g 128 else pure []
  let square := d.sq && ((d.rdim == g.kd && d.sqdim == g.ad) || (d.rdim == g.ad && d.sqdim == g.kd))
  let w : WeightSet :=
    { valid := true, everActive := false, fmt := d.fmt, wide4 := wide4, square := square,
      split := if sp.en then some (sp.set, sp.j) else none, exps := exps, tscale := BitVec.ofNat 32 (scaleBits g.t),
      elems := red, codes := codes, scales := scales }
  return (w, (cells.filter (fun c => c.2.clamped)).length)

/-- Whether a stop is a failed read of memory, which fails a weight load (R91). -/
def failedRead (p : Stop) : Bool := p.st == .memUncorrectable || p.st == .pageRetired

/-- What a load counts: clamped codes, Istus low blocks, and a valid set never active that it overwrites (R46, R54, R90). -/
def loadCounts (s : Block) (t : Nat) (g : Geom) (wide4 : Bool) (n : Nat) : Block :=
  let w := (tileAt s t).shadow
  let s := countEvent s (unitTile t) 4 n
  let s := tallyAdd s (unitTile t) .istusLow (lowBlocks s t g.t (geomCells g (redLen g (passLen wide4)) 128))
  if w.valid && !w.everActive then tallyAdd s (unitTile t) .unusedSet 1 else s

/-- LOAD begins: refused with the shadow as it was, or its set is read and stands in `loading` until it is done. A load that its data
stop (ST_SCALE_RANGE, ST_NONFINITE, ST_SPLIT_RANGE) leaves the shadow as it was; a read refused as page-retired fails it as an
uncorrectable one does (log 81). -/
def beginLoad (t : Nat) (s : Block) (c : CmdSlot) : Began :=
  let x := tileAt s t
  if x.loading.isSome then .wait s
  else
    match loadCheck s t c.word with
    | .error p => .stop s p
    | .ok (g, sp, wide4) =>
      let ps := geomPieces g (redLen g (passLen wide4)) 128
      match operandWait s t g.t.hint c ps [] with
      | some b => b
      | none =>
        let s := touchPieces s g.t.hint ps
        match readSet s t g sp wide4 with
        | .ok (w, n) => .go (tilePut (loadCounts s t g wide4 n) t { x with loading := some (some w) }) .ok false
        | .error p => if failedRead p then .go (tilePut s t { x with loading := some none }) .ok false else .stop s p

/-- LOAD (R91). -/
def execLoad (t : TileId) (s : State) : Host.Outcome State Fault Refusal := onBlock s fun s =>
  .next (startQueued s t.val (fun w => cmdOpcode w == 0x10) (beginLoad t.val))

/-- The stop that a failed load reports: the read is tried again for its refused line. -/
def loadStop (s : Block) (t : Nat) (c : CmdSlot) : Stop :=
  match loadCheck s t c.word with
  | .error p => p
  | .ok (g, sp, wide4) =>
    match readSet s t g sp wide4 with
    | .error p => p
    | .ok _ => ⟨.memUncorrectable, 0⟩

/-- WEIGHT_LOAD_DONE (R91): the shadow copy takes the loaded set, or becomes invalid when a read failed. -/
def execWeightLoadDone (t : TileId) (s : State) : Host.Outcome State Fault Refusal := onBlock s fun s =>
  .next (
    let x := tileAt s t
    let slot := (seqAt s t.val).stream.bind (fun st => st.win.find? (fun c => c.phase == .started && cmdOpcode c.word == 0x10))
    match x.loading with
    | none => s
    | some r =>
      let shadow := match r with
        | some w => w
        | none => { x.shadow with valid := false }
      let s1 := tilePut s t { x with loading := none, shadow := shadow }
      match slot with
      | none => s1
      | some c =>
        ledgerFlush (match r with
          | some _ => completeSlot s1 t.val c.idx
          | none => stopSlot s1 t.val c (loadStop s1 t c)))

/-! ### Streams -/

/-- Whether R71 lists the operand pair; Istus enters as S8. G16 needs S8, or S4 widened. -/
def pairOk (set : WeightSet) (fmt : Nat) (transposed : Bool) : Bool :=
  let eight := decide (fmt < 4) || isIstus fmt
  if set.wide4 then is4bit fmt && !transposed
  else if isG16 fmt then (decide (set.fmt < 2) || isIstus set.fmt || set.fmt == 4 || set.fmt == 5)
  else eight

/-- A bank of a tile. -/
def bankOf (x : TileSt) (b : Bool) : Bank := if b then x.bankB else x.bankA
def bankPut (x : TileSt) (b : Bool) (k : Bank) : TileSt := if b then { x with bankB := k } else { x with bankA := k }

/-- Limit of an accumulation count (R79). -/
def accLimit : Nat := 2 ^ 20

/-- Whether exponents of a stream equal those a bank latched, at the rows and edges it uses. -/
def expsAgree (old new : Tab Int) (n : Nat) : Bool := (List.range n).all (fun k => tget 0 old k == tget 0 new k)

/-- Whether a scaled-integer command of `n` elements and product `p` may add to a bank (R79, R84, R103). -/
def intAddCheck (k : Bank) (p : Word) (n : Nat) : Except Stop Unit := do
  if k.empty then need (decide (n ≤ accLimit)) .accLimit
  else
    need k.split.isNone .splitMix
    need (k.prod == some p) .scaleMismatch
    need (decide (k.count + n ≤ accLimit)) .accLimit

/-- Whether a split-mode command may add `n` elements to each of the pairs `ps` of a bank (R79, R103). -/
def splitAddCheck (k : Bank) (set : Nat) (re ee : Tab Int) (rows width : Nat) (ps : List Nat) (n : Nat) :
    Except Stop Unit := do
  if k.empty then need (ps.isEmpty || decide (n ≤ accLimit)) .accLimit
  else
    match k.split with
    | none => .error ⟨.splitMix, 0⟩
    | some b =>
      need (b.slices == slicesOf set) .splitMix
      need (expsAgree b.rowExp re rows && expsAgree b.edgeExp ee width) .scaleMismatch
      need (ps.all (fun p => decide (tget 0 b.counts p + n ≤ accLimit))) .accLimit

/-- The pair (16 + Ma)(16 + Mb) · 2^(Ea + Eb) of two B8 codes (R76). -/
def b8Pair (a b : Nat) : Int := (b8Sig a * b8Sig b * 2 ^ (a / 16 + b / 16) : Nat)

/-- A contribution of one output: the sum over the blocks of 16 of a streamed row (R76, R102). `cell k` gives the
stationary code of reduction index `k`, `scale j` the B8 code of its block `j`. -/
def rowSum (row : List Scaled) (split : Option Nat) (cell : Nat → Int) (scale : Nat → Nat) : Int :=
  (List.range ((row.length + 15) / 16)).foldl (fun (acc : Int) j =>
    let p := (List.range 16).foldl (fun (a : Int) i => a + (row.getD (16 * j + i) scaled0).code * cell (16 * j + i)) 0
    if p = 0 then acc
    else
      match split with
      | some sh => acc + p * ((2 ^ sh : Nat) : Int)
      | none => acc + p * b8Pair (row.getD (16 * j) scaled0).b8 (scale j)) 0

/-- One output of a stream against a set (R68, R69). -/
def cellOut (set : WeightSet) (transposed : Bool) (split : Option Nat) (row : List Scaled) (e : Nat) : Int :=
  if transposed then
    rowSum row split (fun n => tget 0 set.codes (128 * e + n)) (fun j => tget 0 set.scales (128 * (e / 16) + 16 * j))
  else rowSum row split (fun k => tget 0 set.codes (128 * k + e)) (fun j => tget 0 set.scales (128 * j + e))

/-- Add rows of outputs to a bank's accumulators. CLEAR zeroes those of its rows (R83), in split mode all (R103). -/
def bankAdd (acc : Tab Int) (clear split : Bool) (rows : Nat) (outs : List (List Int)) : Tab Int :=
  let base := if clear then (if split then [] else acc.filter (fun p => decide (rows ≤ p.1 / 128))) else acc
  ((List.range rows).zip outs).foldl (fun a r =>
    ((List.range 128).zip r.2).foldl (fun a c =>
      let key := 128 * r.1 + c.1
      tset 0 a key (sx 96 (wrapInt 96 (tget 0 a key + c.2)))) a) base

/-- The streamed rows; a row beyond the streamed tensor's extent is empty and contributes zero, as padding does (log 82). -/
def readRows (s : Block) (q : Nat) (g : Geom) (red rows : Nat) : Except Stop (List (List Scaled)) :=
  (List.range rows).mapM (fun m =>
    if at_ g.org g.ad + m < extOf g.t.d g.ad then (List.range red).mapM (fun k => cellElem s q g (geomCoord g k m))
    else pure [])

/-- FP64 pattern of Ta · Tb, which is exact (R83). -/
def scaleProduct (ta tb : Nat) : Word := BitVec.ofNat 64 (fpRound fp64 (fvMul (fpDecode fp32 ta) (fpDecode fp32 tb))).val

/-- A new bank state after a stream or raw add has been accepted. -/
def bankLatch (k : Bank) (clear : Bool) (n : Nat) (prod : Word) : Bank :=
  if clear ∨ k.empty then { k with empty := false, count := n, prod := some prod, split := none }
  else { k with count := k.count + n }

/-- The same in split mode: `ps` are the pairs that count. Rows and edges that the latching command does not give latch exponent 0, and
a later command is compared at the rows and edges it uses (log 85). -/
def bankLatchSplit (k : Bank) (clear : Bool) (set : Nat) (re ee : Tab Int) (ps : List Nat) (n : Nat) : Bank :=
  let fresh : SplitBank := ⟨slicesOf set, re, ee, []⟩
  let b := if clear ∨ k.empty then fresh else k.split.getD fresh
  let counts := ps.foldl (fun t p => tset 0 t p (tget 0 t p + n)) b.counts
  { k with empty := false, count := 0, prod := none, split := some { b with counts := counts } }

/-- What a stream does once its operands are there. -/
def runStream (s : Block) (q : Nat) (g : Geom) (sp : Split) (w : BitVec 128) (transposed : Bool) : Except Stop Block := do
  let x := tileAt s q
  let swap := bit w.toNat 10
  let clear := !bit w.toNat 9
  let set := if swap then x.shadow else x.active
  let b := bit w.toNat 8
  let k := bankOf x b
  let rows := g.rows + 1
  let red := redLen g (if transposed then 128 else passLen set.wide4)
  let rowsIn ← readRows s q g red rows
  let clamped := (rowsIn.map (fun r => (r.filter (·.clamped)).length)).foldl (· + ·) 0
  let shift := 8 * (slicesOf sp.set - 1 - sp.i - sp.j)
  let outs := rowsIn.map (fun r => (List.range 128).map (cellOut set transposed (if sp.en then some shift else none) r))
  let k1 ← if sp.en then do
      let re ← geomExps s q g rows
      let ps := [pairNum sp.i sp.j]
      if !clear then splitAddCheck k sp.set re set.exps rows 128 ps red
      pure (bankLatchSplit k clear sp.set re set.exps ps red)
    else do
      let p := scaleProduct (scaleBits g.t) set.tscale.toNat
      if !clear then intAddCheck k p red
      pure (bankLatch k clear red p)
  let k2 := { k1 with acc := bankAdd k.acc clear sp.en rows outs }
  let x1 := if swap then { x with active := { x.shadow with everActive := true }, shadow := x.active } else x
  let s1 := tilePut s q (bankPut { x1 with forward := some (!transposed) } b k2)
  let busy := if isG16 g.t.d.fmt ∧ g.t.d.kind = 0 then 2 * rows else rows
  let gap := if x.forward = some transposed then 254 else 0
  let low := lowBlocks s q g.t (geomCells g red rows)
  let s2 := countEvent (countEvent (countEvent s1 (unitTile q) 1 busy) (unitTile q) 4 clamped) (unitTile q) 3 gap
  return tallyAdd s2 (unitTile q) .istusLow low

/-- Checks of a stream before its rows are read (R71, R77, R91, R100, R119). -/
def streamCheck (s : Block) (q : Nat) (w : BitVec 128) (transposed : Bool) : Except Stop (Geom × Split) := do
  let v ← readBlock s q w
  let sp ← splitOf w
  let g ← geomOf s q v
  let x := tileAt s q
  let set := if bit w.toNat 10 then x.shadow else x.active
  need set.valid .weightsInvalid
  need (sp.en == set.split.isSome) .splitMix
  if sp.en then
    need (decide (sp.i + sp.j < slicesOf sp.set) && (set.split.map (·.2)) == some sp.j) .splitPair
    need (planeOk g.t.d sp.i) .formatPair
  else
    need (g.t.d.kind == 0 && pairOk set g.t.d.fmt transposed) .formatPair
    need (!transposed || set.square) .blockShape
  geomCheck g sp.en (if transposed then 128 else passLen set.wide4)
  need (sp.en || g.kd == 0 || (g.t.d.tile == 2 && g.kd == 1)) .formatPair
  return (g, sp)

/-- Bank of a command that uses one. -/
def slotBank (c : CmdSlot) : Option Bool :=
  let op := cmdOpcode c.word
  if op = 0x11 ∨ op = 0x12 ∨ op = 0x13 ∨ op = 0x19 then some (bit c.word.toNat 8) else none

/-- Earlier stores of a bank have drained it (R86). -/
def bankDrained (s : Block) (q : Nat) (c : CmdSlot) : Bool :=
  match (seqAt s q).stream with
  | none => true
  | some st => (ahead st c.idx).all (fun d => cmdOpcode d.word != 0x19 || slotBank d != slotBank c || d.phase != .fetched)

/-- Earlier streams into a bank have made their last contribution (R86). -/
def bankFilled (s : Block) (q : Nat) (c : CmdSlot) : Bool :=
  match (seqAt s q).stream with
  | none => true
  | some st => (ahead st c.idx).all (fun d => cmdOpcode d.word == 0x19 || slotBank d != slotBank c || d.phase == .done)

/-- A stream begins. A SWAP waits for the load of its shadow set (R90). -/
def beginStream (q : Nat) (transposed : Bool) (s : Block) (c : CmdSlot) : Began :=
  if !bankDrained s q c || (bit c.word.toNat 10 && (tileAt s q).loading.isSome) then .wait s
  else
    match streamCheck s q c.word transposed with
    | .error p => .stop s p
    | .ok (g, sp) =>
      let x := tileAt s q
      let set := if bit c.word.toNat 10 then x.shadow else x.active
      let ps := geomPieces g (redLen g (if transposed then 128 else passLen set.wide4)) (g.rows + 1)
      match operandWait s q g.t.hint c ps [] with
      | some b => b
      | none =>
        match runStream (touchPieces s g.t.hint ps) q g sp c.word transposed with
        | .error p => .stop s p
        | .ok s1 => .go s1 .ok false

/-- FSTREAM (R68). -/
def execFstream (t : TileId) (s : State) : Host.Outcome State Fault Refusal := onBlock s fun s =>
  .next (startQueued s t.val (fun w => cmdOpcode w == 0x11) (beginStream t.val false))

/-- TSTREAM (R69). -/
def execTstream (t : TileId) (s : State) : Host.Outcome State Fault Refusal := onBlock s fun s =>
  .next (startQueued s t.val (fun w => cmdOpcode w == 0x12) (beginStream t.val true))

/-! ### RAWADD (R85, R108, R200) -/

/-- Fields of a RAWADD block. -/
structure RawAdd where
  slots : Nat
  prod  : Nat
  c     : Nat
  rows  : Nat
  width : Nat
  rexp  : Nat
  eexp  : Nat
deriving DecidableEq, Repr

/-- Pairs of a mask. -/
def maskPairs (m : Nat) : List Nat := (List.range 36).filter (fun k => bit m k)

/-- Whether an FP64 pattern is finite, non-zero and normal (R85). -/
def normal64 (v : Nat) : Bool := bits v 52 11 != 0 && bits v 52 11 != 2047

/-- Checks of a raw add's block (R199, R200). -/
def rawCheck (s : Block) (q : Nat) (w : BitVec 128) : Except Stop (RawAdd × Split) := do
  let v ← readBlock s q w
  let sp ← splitOf w
  let r : RawAdd := ⟨blkNat v 0 8, blkNat v 8 8, blkNat v 16 4, bits (blkNat v 20 4) 0 8 + 1, bits (blkNat v 20 4) 8 7 + 1,
    blkNat v 24 8, blkNat v 32 8⟩
  let mask := cmdBits w 70 36
  need (bits (blkNat v 20 4) 15 17 == 0 && blkNat v 40 24 == 0 && sp.i == 0 && sp.j == 0) .malformed
  need (if sp.en then mask / 2 ^ pairCount sp.set == 0 && r.prod == 0 else mask == 0 && r.rexp == 0 && r.eexp == 0) .malformed
  let n := 16 * (128 * (r.rows - 1) + r.width)
  need (r.slots % 16 == 0 && isOwn s r.slots && inScratch q (rackLocal r.slots) n) .badAddress
  if sp.en then need (seqMem s q r.rexp (2 * r.rows) && seqMem s q r.eexp (2 * r.width)) .badAddress
  else need (normal64 r.prod) .scaleInvalid
  return (r, sp)

/-- Address of the slot of row `m`, edge position `e`. -/
def slotAddr (base m e : Nat) : Nat := base + 16 * (128 * m + e)

/-- Exponents read for a raw add. -/
def rawExps (s : Block) (q a n : Nat) : Except Stop (Tab Int) := do
  let zs ← (List.range n).mapM (fun k => readExp s q (a + 2 * k))
  return ((List.range n).zip zs).filter (fun p => p.2 != 0)

/-- Add the slots to the bank. -/
def runRawAdd (s : Block) (q : Nat) (w : BitVec 128) (r : RawAdd) (sp : Split) : Except Stop Block := do
  let x := tileAt s q
  let b := bit w.toNat 8
  let k := bankOf x b
  let outs ← (List.range r.rows).mapM (fun m => (List.range r.width).mapM (fun e => do
    let v ← readLe s q (slotAddr r.slots m e) 16
    return sx 96 v))
  let k1 ← if sp.en then do
      let re ← rawExps s q r.rexp r.rows
      let ee ← rawExps s q r.eexp r.width
      let ps := maskPairs (cmdBits w 70 36)
      splitAddCheck k sp.set re ee r.rows r.width ps r.c
      pure (bankLatchSplit k false sp.set re ee ps r.c)
    else do
      let p := BitVec.ofNat 64 r.prod
      intAddCheck k p r.c
      pure (bankLatch k false r.c p)
  return tilePut s q (bankPut x b { k1 with acc := bankAdd k.acc false false r.rows outs })

/-- A raw add begins. -/
def beginRawAdd (q : Nat) (s : Block) (c : CmdSlot) : Began :=
  if !bankDrained s q c then .wait s
  else
    match rawCheck s q c.word with
    | .error p => .stop s p
    | .ok (r, sp) =>
      let ps := if sp.en then [(r.rexp, 2 * r.rows), (r.eexp, 2 * r.width)] else []
      match operandWait s q 0 c ps [] with
      | some b => b
      | none =>
        match runRawAdd (touchPieces s 0 ps) q c.word r sp with
        | .error p => .stop s p
        | .ok s1 => .go s1 .ok false

/-- RAWADD (R85). -/
def execRawadd (t : TileId) (s : State) : Host.Outcome State Fault Refusal := onBlock s fun s =>
  .next (startQueued s t.val (fun w => cmdOpcode w == 0x13) (beginRawAdd t.val))

/-- A SWAP stream that may start but for the load of its shadow set: the wait counts as a load stall (R90). -/
def swapWaits (s : Block) (q : Nat) : Bool :=
  match nextCmd s q none (fun w => queueOf (cmdOpcode w) == .array) with
  | some c => (cmdOpcode c.word == 0x11 || cmdOpcode c.word == 0x12) && bit c.word.toNat 10 && (tileAt s q).loading.isSome
  | none => false

end Sys2Proof.Machine
end

