-- ==== Sys2Proof/Machine/ChangeLog.lean ====
section
/-! DEFINITION. The change log (R502, R503): its records, what they add to MEAS4 (R562), and the changes that the module makes
itself. -/

namespace Sys2Proof.Machine

open Sys2Proof

/-- Records that the ring holds (R503). -/
def chlogSize : Nat := 1048576

/-- Every record of the ring is unexported (R503). -/
def chlogFull (s : Block) : Bool := decide (chlogSize ≤ s.chlog.nextSeq - s.chlog.exported)

/-- Publish LOG_NEXT_SEQ and LOG_UNEXPORTED. -/
def chlogPublish (s : Block) : Block :=
  odPut (odPut s 0x1020 1 s.chlog.nextSeq) 0x1020 2 (s.chlog.nextSeq - s.chlog.exported)

/-- VALUE of a record: old and new value, or the first 16 bytes of the new value's SHA-512. -/
def chlogValue (len old new : Nat) : BitVec 128 :=
  if len ≤ 8 then BitVec.ofNat 128 (old % 2 ^ 64 + new % 2 ^ 64 * 2 ^ 64)
  else BitVec.ofNat 128 (leNat ((sha512Bytes (natLe len new)).take 16))

/-! ### Measurement registers (R562) -/

def measAt (s : Block) (k : Nat) : BitVec 512 := tget 0 s.sec.meas k
def measPut (s : Block) (k : Nat) (v : BitVec 512) : Block := { s with sec := { s.sec with meas := tset 0 s.sec.meas k v } }
/-- MEAS := SHA-512(MEAS ‖ d). -/
def measExtend (s : Block) (k : Nat) (d : BitVec 512) : Block :=
  measPut s k (sha512 (natLe 64 (measAt s k).toNat ++ natLe 64 d.toNat))

/-- The 128 bytes of a record (R502). -/
def chlogBytes (r : ChRec) : List Byte :=
  let word := r.index + r.sub * 2 ^ 16 + r.role * 2 ^ 24 + r.path * 2 ^ 27 + (if r.applied then 2 ^ 30 else 0) + (if r.long then 2 ^ 31 else 0)
  natLe 8 r.seq ++ natLe 8 r.time.toNat ++ natLe 4 word ++ natLe 4 r.length ++ natLe 16 r.source.toNat ++ natLe 8 r.keyId.toNat ++
    natLe 16 r.value.toNat ++ natLe 64 0

/-- Changes that MEAS4 is extended with (R562). -/
def measured4 (index sub : Nat) : Bool := (index == 0xC000 && sub == 1) || index == 0xC010 || index == 0xC011 || index == 0xC020

/-! ### Records -/

/-- One record of a change (R502). The ring keeps the last 1,048,576; the one that fills it raises alarm 0x13 (R530). -/
def chlogAdd (s : Block) (index sub role path len old new : Nat) (source : BitVec 128) (keyId : Word) : Block :=
  let r : ChRec := ⟨s.chlog.nextSeq, hallNow s, index, sub, role, path, true, decide (8 < len), len, source, keyId,
    chlogValue len old new⟩
  let recs := s.chlog.recs.filter (fun x => x.seq % chlogSize != s.chlog.nextSeq % chlogSize) ++ [r]
  let s := chlogPublish { s with chlog := { s.chlog with recs := recs, nextSeq := s.chlog.nextSeq + 1, last := some ⟨r.seq, index, sub, old, s.clk.cycle⟩ } }
  let s := if measured4 index sub then measExtend s 4 (sha512 (chlogBytes r)) else s
  if chlogFull s then raiseAlarm s 0x13 unitNone .auditFull s.chlog.nextSeq else s

/-- The record whose change power is lost before: the latest one, within the 100 µs of clk600 that a change may take after its record is
durable; whether the change came first is open (R502, R504; log 94). -/
def chlogUnapplied (s : Block) : Option ChLast :=
  s.chlog.last.filter (fun r => decide (s.clk.cycle ≤ r.cycle + 60000) && Config.freeValue s.free % 2 == 1)

/-- The log and the entry as power leaves them: that change is not made, and its record keeps APPLIED = 0 (R504). -/
def chlogCut (s : Block) : Block :=
  let c := { s.chlog with waiting := [], last := none }
  match chlogUnapplied s with
  | none => { s with chlog := c }
  | some r => odRaw { s with chlog := { c with recs := c.recs.map (fun x => if x.seq = r.seq then { x with applied := false } else x) } } r.index r.sub r.old

/-- A change waits for space (R503). -/
def chlogWait (s : Block) (w : ChWait) : Block := { s with chlog := { s.chlog with waiting := s.chlog.waiting ++ [w] } }

/-- The record of a change of state that the module makes and that cannot wait (R534): only the record waits. -/
def chlogModule (s : Block) (index sub len old new : Nat) : Block :=
  if chlogFull s then chlogWait s ⟨index, sub, len, old, new, false⟩ else chlogAdd s index sub 7 4 len old new 0 0

/-- Whether an entry's changes are logged. -/
def odLogged (index sub : Nat) : Bool :=
  match odRow index sub with
  | some r => r.logged
  | none => false

/-- A change that the module itself makes to an entry: logged as role 7 on path 4 when the entry is, once the log has space
(R502, R503). -/
def odModule (s : Block) (index sub v : Nat) : Block :=
  if !odLogged index sub then odPut s index sub v
  else if chlogFull s then chlogWait s ⟨index, sub, odLen index sub, odNat s index sub, v, true⟩
  else odPut (chlogAdd s index sub 7 4 (odLen index sub) (odNat s index sub) v 0 0) index sub v

/-- Changes that wait are made as far as the log has space. -/
def chlogRelease (s : Block) : Block :=
  s.chlog.waiting.foldl (fun s w =>
    if chlogFull s then chlogWait s w
    else if w.hold then odModule s w.index w.sub w.new
    else chlogModule s w.index w.sub w.len w.old w.new) { s with chlog := { s.chlog with waiting := [] } }

end Sys2Proof.Machine
end

