-- ==== Sys2Proof/Machine/Special.lean ====
section
/-! DEFINITION. Functions that the spec bounds without fixing their bits: the built-in piecewise functions and their derivatives
(R123, R152) and the special functions of the SFU (R153). Each is computed here in fixed point far inside its bound; the module's own
result is an open value (log 12), which is taken only where it keeps the bound. -/

namespace Sys2Proof.Machine

open Sys2Proof

/-! ### Fixed point with 256 fraction bits -/

/-- Fraction bits. -/
def fxBits : Nat := 256
def fxOne : Nat := 2 ^ fxBits
def fxMul (a b : Nat) : Nat := a * b / fxOne
def fxDiv (a b : Nat) : Nat := a * fxOne / b

/-- m·2^e, truncated. -/
def fxOf (m : Nat) (e : Int) : Nat := let k := e + fxBits; if 0 ≤ k then m * 2 ^ k.toNat else m / 2 ^ (-k).toNat

/-- Σ_(i ≤ n) t^i / i!, from the term `i`. -/
def fxExpTerms (t : Nat) : Nat → Nat → Nat → Nat
  | 0, _, _ => 0
  | n + 1, i, term => term + fxExpTerms t n (i + 1) (fxMul term t / (i + 1))

/-- e^−t: the reciprocal of (e^(t/64))^64. -/
def fxExpNeg (t : Nat) : Nat :=
  let r := fxExpTerms (t / 64) 80 0 fxOne
  fxDiv fxOne ((List.range 6).foldl (fun x _ => fxMul x x) r)

/-- Σ z^(2i+1) / (2i+1), from the power `z^(2i+1)`. -/
def fxAtanhTerms (zz : Nat) : Nat → Nat → Nat → Nat
  | 0, _, _ => 0
  | n + 1, i, p => p / (2 * i + 1) + fxAtanhTerms zz n (i + 1) (fxMul p zz)

/-- ln(1 + u) for u from 0 to 1. -/
def fxLog1p (u : Nat) : Nat :=
  let z := fxDiv u (2 * fxOne + u)
  2 * fxAtanhTerms (fxMul z z) 100 0 z

/-- Σ x^(2i+1) / (1·3·…·(2i+1)). -/
def fxErfTerms (xx : Nat) : Nat → Nat → Nat → Nat
  | 0, _, _ => 0
  | n + 1, i, p => p + fxErfTerms xx n (i + 1) (fxMul p xx / (2 * i + 3))

/-- 1/√(2π), from π = 16 atan(1/5) − 4 atan(1/239). -/
def fxAtanInv (k : Nat) : Nat :=
  (((List.range 120).map (fun (i : Nat) =>
    let t : Int := (fxOne / (k ^ (2 * i + 1) * (2 * i + 1)) : Nat)
    if i % 2 = 0 then t else -t)).foldl (· + ·) 0).toNat
def fxPi : Nat := 16 * fxAtanInv 5 - 4 * fxAtanInv 239
def fxSqrt (a : Nat) : Nat := isqrt (Nat.log2 (a * fxOne) / 2 + 1) (a * fxOne) 0
def fxInvSqrt2Pi : Nat := fxDiv fxOne (fxSqrt (2 * fxPi))

/-! ### The built-in functions (R123) at a finite x below 16 in magnitude, as signed fixed point -/

/-- Density and distribution function of the normal distribution. -/
def fxPhi (x : Nat) : Nat := fxMul fxInvSqrt2Pi (fxExpNeg (fxMul x x / 2))
def fxNormal (neg : Bool) (x : Nat) : Nat :=
  let half := fxMul (fxPhi x) (fxErfTerms (fxMul x x) 700 0 x)
  if neg then fxOne / 2 - half else fxOne / 2 + half

/-- σ(x). -/
def fxSigmoid (neg : Bool) (x : Nat) : Nat :=
  let e := fxExpNeg x
  if neg then fxDiv e (fxOne + e) else fxDiv fxOne (fxOne + e)

/-- f or f′ of FUNC 0x02 to 0x06 at (−1)^neg · x. -/
def fxBuiltin (func : Nat) (deriv neg : Bool) (x : Nat) : Int :=
  let sx : Int := if neg then -(x : Int) else x
  let one : Int := fxOne
  let mul := fun (a b : Int) => a * b / one
  let sg : Int := fxSigmoid neg x
  match func, deriv with
  | 2, false => mul sx (fxNormal neg x)
  | 2, true => (fxNormal neg x : Int) + mul sx (fxPhi x)
  | 3, false => mul sx sg
  | 3, true => mul sg (one + mul sx (one - sg))
  | 4, false => 2 * (fxSigmoid neg (2 * x) : Int) - one
  | 4, true => let t := 2 * (fxSigmoid neg (2 * x) : Int) - one; one - mul t t
  | 5, false => sg
  | 5, true => mul sg (one - sg)
  | 6, false => (if neg then 0 else sx) + (fxLog1p (fxExpNeg x) : Int)
  | _, _ => sg

/-- Distance of a finite value from m·2^e, and whether it is at most `b`·2^eb: all exact. -/
def within (v : FV) (m : Int) (e : Int) (b : Nat) (eb : Int) : Bool :=
  match fvAdd v (fvInt (-m) e) with
  | .fin _ d ed => !fvLt (.fin false b eb) (.fin false d ed)
  | _ => false

/-- An open result that keeps a bound around m·2^e and is no FP32 subnormal, else the value nearest to it. -/
def bounded (f : FpFmt) (open_ : Nat) (m e : Int) (b : Nat) (eb : Int) : FpOut :=
  let fits := f = fp64 || bits open_ f.mbits f.ebits != 0 || bits open_ 0 f.mbits == 0
  if within (fpDecode f open_) m e b eb && fits then fpPlain open_ else fpStore f (fvInt m e)

/-- A built-in function or its derivative: the tails of R152; else within 4 × 10^−6 + 2^−23 · |f(x)| of f(x), and 8 × 10^−6 +
2^−23 · |f′(x)| of f′(x). -/
def pwpBuiltin (f : FpFmt) (func : Nat) (deriv : Bool) (x : FV) : FpOut :=
  let one := (fpRound f (fvInt 1 0)).val
  match x with
  | .nan => fpPlain (fpNan f)
  | _ =>
    if !fvLt x (fvInt 16 0) then
      fpPlain (if func = 4 ∨ func = 5 then (if deriv then 0 else one) else (if deriv then one else (fpStore f x).val))
    else if fvLt x (fvInt (-16) 0) then
      fpPlain (if deriv then 0
        else if func = 2 ∨ func = 3 then fpSign f true
        else if func = 4 then one + fpSign f true
        else 0)
    else
      let (n, m, e) := fvParts x
      let y := fxBuiltin func deriv n (fxOf m e)
      let own := Config.pwpBuiltin (func + (if deriv then 32 else 0) + (if f = fp64 then 64 else 0)) (fpRound f x).val %
        2 ^ (1 + f.ebits + f.mbits)
      let slack := (if deriv then 8 else 4) * fxOne / 1000000 + y.natAbs / 2 ^ 23
      bounded f own y (-(fxBits : Int)) slack (-(fxBits : Int))

/-! ### The SFU (R153) -/

/-- 2^(2^−k) for k = 1 to n, and from them 2^t for a fraction t. -/
def fxExp2Step (t : Nat) : Nat → Nat → Nat → Nat → Nat
  | 0, _, _, acc => acc
  | n + 1, k, root, acc =>
    let r := fxSqrt root
    fxExp2Step t n (k + 1) r (if bit t (fxBits - 1 - k) then fxMul acc r else acc)
def fxExp2 (t : Nat) : Nat := fxExp2Step t 200 0 (2 * fxOne) fxOne

/-- log2 of a value from 1 to below 2, by squaring. -/
def fxLog2Step : Nat → Nat → Nat → Nat
  | 0, _, acc => acc
  | n + 1, x, acc =>
    let y := fxMul x x
    if 2 * fxOne ≤ y then fxLog2Step n (y / 2) (2 * acc + 1) else fxLog2Step n y (2 * acc)

/-- Fraction bits of log2. -/
def log2Bits : Nat := 120

/-- A special function of a finite operand in its domain, as m·2^e. -/
def sfuExact (op : Nat) (neg : Bool) (m : Nat) (e : Int) : Int × Int :=
  match op with
  | 1 =>
    -- 2^a, with a = n + t.
    let a : Int := if neg then -(fxOf m e : Int) else fxOf m e
    let n := Int.fdiv a fxOne
    (fxExp2 (a - n * fxOne).toNat, n - fxBits)
  | 2 =>
    let l := Nat.log2 m
    let frac := fxLog2Step log2Bits (fxOf m (-(l : Int))) 0
    (((l : Int) + e) * ((2 ^ log2Bits : Nat) : Int) + (frac : Int), -(log2Bits : Int))
  | 3 =>
    let k := Nat.log2 m + fxBits
    (if neg then -((2 ^ k / m : Nat) : Int) else ((2 ^ k / m : Nat) : Int), -e - k)
  | _ =>
    -- 1/√(m·2^e), with e made even.
    let odd : Nat := if e % 2 = 0 then 0 else 1
    let w := m * 2 ^ odd
    let k := Nat.log2 w + 2 * fxBits
    let k := k + k % 2
    let q := 2 ^ k / w
    (isqrt (Nat.log2 q / 2 + 1) q 0, -((e - odd) / 2) - (k / 2 : Nat))

/-- One ulp of a magnitude m·2^e (R65), as a power of two. -/
def ulpExp (f : FpFmt) (m : Nat) (e : Int) : Int :=
  let top := (Nat.log2 m : Int) + e
  (if top < fpEmin f then fpEmin f else top) - fpPrec f + 1

/-- A result within its bound: one ulp, or for LOG2 also 2^−(p − 1) · |a − 1|, widened by the error of the fixed point. -/
def sfuOpen (f : FpFmt) (op : Nat) (a : FV) : FpOut :=
  let (n, m, e) := fvParts a
  let (y, ey) := sfuExact op n m e
  let own := Config.sfu (op + (if f = fp64 then 8 else 0)) (fpRound f a).val % 2 ^ (1 + f.ebits + f.mbits)
  let near := fvAbs (fvAdd a (fvInt (-1) 0))
  let ulp : FV := .fin false 1 (if y = 0 then fpEmin f - f.mbits else ulpExp f y.natAbs ey)
  let wide := if op = 2 then fvMul near (.fin false 1 (-(f.mbits : Int))) else .fin false 0 0
  let bound := fvAdd (if fvLt ulp wide then wide else ulp) (.fin false 16 ey)
  let (_, b, eb) := fvParts bound
  let nearest := fpStore f (fvInt y ey)
  if nearest.flush then nearest else bounded f own y ey b eb

/-- The SFU's result: the special cases of R153, else a value within its bound. Every infinity, NaN and flush is counted. -/
def sfuResult (f : FpFmt) (op : Nat) (a : FV) : FpOut :=
  let r : FpOut := match op, a with
    | _, .nan => fpPlain (fpNan f)
    | 1, .inf n => fpPlain (if n then 0 else fpInf f false)
    | 1, .fin _ _ _ =>
      if !fvLt a (fvInt (fpEmax f + 1) 0) then fpPlain (fpInf f false)
      else if fvLt a (fvInt (fpEmin f - f.mbits - 2) 0) then
        (if f = fp64 then fpPlain (Config.sfu 9 (fpRound f a).val % 2) else { fpPlain 0 with flush := true })
      else sfuOpen f 1 a
    | 2, .inf n => fpPlain (if n then fpNan f else fpInf f false)
    | 2, .fin n m _ => if m = 0 then fpPlain (fpInf f true) else if n then fpPlain (fpNan f) else sfuOpen f 2 a
    | 3, .inf n => fpPlain (fpSign f n)
    | 3, .fin n m _ => if m = 0 then fpPlain (fpInf f n) else sfuOpen f 3 a
    | _, .inf n => fpPlain (if n then fpNan f else 0)
    | _, .fin n m _ => if m = 0 then fpPlain (fpInf f n) else if n then fpPlain (fpNan f) else sfuOpen f 4 a
  { r with overflow := decide (r.val = fpInf f false) || decide (r.val = fpInf f true), invalid := decide (r.val = fpNan f) }

end Sys2Proof.Machine
end

