-- ==== Sys2Proof/Machine/GlazeProg.lean ====
section
/-! DEFINITION. Element programs of the Glaze chain: their fields and checks (R142 to R148) and what the stages do to one
element (R149 to R153, R162). -/

namespace Sys2Proof.Machine

open Sys2Proof

/-! ### Fields (R144 to R147) -/

/-- An element program as its 256 bytes. -/
abbrev Prog := Nat

/-- The program's precision. -/
def progFmt (p : Prog) : FpFmt := if bit p 0 then fp64 else fp32
def progIn (p : Prog) (k : Nat) : Bool := bit p (1 + k)
def progWide (p : Prog) : Bool := bit p 5
def progZstage (p : Prog) : Nat := bits p 6 4
def progZsrc (p : Prog) : Nat := bits p 10 4
def progPwpTable (p : Prog) : Nat := blkNat p 160 8
def progStencilTable (p : Prog) : Nat := blkNat p 168 8

/-- The lower and upper clip bounds as encodings of the program precision. -/
def progLo (p : Prog) : Nat := blkNat p 176 8
def progHi (p : Prog) : Nat := blkNat p 184 8

/-- ALU stages: 1 to 4, 7 and 8. -/
def aluStages : List Nat := [1, 2, 3, 4, 7, 8]

/-- Operation field of a stage; 0 is bypass. -/
def stageOp (p : Prog) (i : Nat) : Nat :=
  let w := progWord p i
  if aluStages.contains i then bits w 0 5
  else if i = 5 then bits w 0 5
  else if i = 6 then bits w 0 3
  else if i = 9 then bits w 0 3
  else if i = 10 then bits w 0 3
  else 0

/-- Number of operands of an ALU operation. -/
def aluArgs (op : Nat) : Nat := if op = 1 ∨ op = 9 then 1 else if op = 5 ∨ op = 6 then 3 else 2

/-- Source codes that a stage reads. -/
def stageReads (p : Prog) (i : Nat) : List Nat :=
  let w := progWord p i
  if stageOp p i = 0 then []
  else if aluStages.contains i then [bits w 7 4, bits w 11 4, bits w 15 4].take (aluArgs (bits w 0 5))
  else if i = 5 then [bits w 8 4]
  else if i = 6 then [bits w 5 4]
  else if i = 9 then [bits w 4 4]
  else [bits w 9 4]

/-- The slot that a stage writes. -/
def stageDst (p : Prog) (i : Nat) : Option Nat :=
  let w := progWord p i
  if stageOp p i = 0 then none
  else if aluStages.contains i then some (bits w 5 2)
  else if i = 5 then some (bits w 6 2)
  else if i = 6 then some (bits w 3 2)
  else none

/-- Guard of a stage: 0 always, 1 where P = 1, 2 where P = 0. -/
def stageGuard (p : Prog) (i : Nat) : Nat :=
  let w := progWord p i
  if aluStages.contains i then bits w 22 2 else if i = 6 then bits w 9 2 else 0

/-- Whether a stage before `i` writes a slot. -/
def slotWritten (p : Prog) (i v : Nat) : Bool := (List.range i).any (fun k => stageDst p k == some v)

/-- DECODE fields. -/
def progExpand (p : Prog) : Bool := bit (progWord p 0) 0
def progXin (p : Prog) : Nat := bits (progWord p 0) 1 2
def progFill (p : Prog) : Nat := bits (progWord p 0) 3 4

/-- FORMAT fields: operation, FMT, SR, source, SET. -/
def fmtOp (p : Prog) : Nat := bits (progWord p 10) 0 3
def fmtFmt (p : Prog) : Nat := bits (progWord p 10) 3 5
def fmtSr (p : Prog) : Bool := bit (progWord p 10) 8
def fmtSrc (p : Prog) : Nat := bits (progWord p 10) 9 4
def fmtSet (p : Prog) : Nat := bits (progWord p 10) 13 2
/-- REDUCE fields. -/
def redOp (p : Prog) : Nat := bits (progWord p 9) 0 3
def redLanes (p : Prog) : Bool := bit (progWord p 9) 3
def redSrc (p : Prog) : Nat := bits (progWord p 9) 4 4
def redMasked (p : Prog) : Bool := bit (progWord p 9) 8
def redAcc (p : Prog) : Bool := bit (progWord p 9) 9
/-- OUT fields: compression and the routing of output j. -/
def progCompress (p : Prog) : Bool := bit (progWord p 11) 0
def route (p : Prog) (j : Nat) : Nat := bits (progConst p 11) (16 * j) 16
def routeEn (p : Prog) (j : Nat) : Bool := bit (route p j) 9
def routeSrc (p : Prog) (j : Nat) : Nat := bits (route p j) 0 4
def routeFmt (p : Prog) (j : Nat) : Nat := bits (route p j) 4 5
def routeSwatch (p : Prog) (j : Nat) : Bool := bit (route p j) 10

/-- Bits of a stage word that have a meaning. -/
def stageMask (i : Nat) : Nat :=
  if i = 0 then 0x7F
  else if aluStages.contains i then 0xFFFFFF
  else if i = 5 then 0x1FFFF
  else if i = 6 then 0x7FF
  else if i = 9 then 0x3FF
  else if i = 10 then 0x7FFF
  else 1

/-- Reserved fields and encodings of a program (R15, R144 to R147). `func` is the KEEP FUNC of the command, none when it
has no KEEP field. -/
def progReserved (p : Prog) (func : Option Nat) : Bool :=
  let half := fun (v : Nat) => !bit p 0 && v / 2 ^ 32 != 0
  bits p 14 114 != 0 || decide (11 < progZstage p) || decide (12 < progZsrc p) ||
  (List.range 12).any (fun i => (progWord p i &&& (2 ^ 32 - 1 - stageMask i)) != 0) ||
  aluStages.any (fun i =>
    let w := progWord p i
    decide (0xB < bits w 0 5) || decide (12 < bits w 7 4) || decide (12 < bits w 11 4) || decide (12 < bits w 15 4) ||
      bits w 19 3 == 7 || bits w 22 2 == 3) ||
  decide (6 < bits (progWord p 5) 0 5) || decide (12 < bits (progWord p 5) 8 4) ||
  decide (4 < bits (progWord p 6) 0 3) || decide (12 < bits (progWord p 6) 5 4) || bits (progWord p 6) 9 2 == 3 ||
  decide (5 < redOp p) || decide (12 < redSrc p) ||
  decide (3 < fmtOp p) || decide (12 < fmtSrc p) || fmtSet p == 3 ||
  (if fmtOp p = 1 then decide (11 < fmtFmt p) else fmtFmt p != 0) ||
  decide (12 < progFill p) ||
  (List.range 9).any (fun i => half (progConst p i)) || progConst p 6 != 0 || progConst p 9 != 0 ||
  (if fmtOp p = 1 ∧ fmtFmt p < 10 then progConst p 10 / 2 ^ 32 != 0 else progConst p 10 != 0) ||
  (List.range 4).any (fun j => bits (route p j) 11 5 != 0 || (decide (7 < routeSrc p j) && routeSrc p j != 12) ||
    decide (16 < routeFmt p j) || (routeEn p j && routeSrc p j != 12 && decide (routeFmt p j < 12))) ||
  (if func = some 1 then half (progLo p) || half (progHi p) else progLo p != 0 || progHi p != 0) ||
  blkNat p 192 64 != 0

/-! ### Values -/

/-- An element on its way through the chain: inputs, slots, P and index (R143), in the program's encodings, and what
its stages count. -/
structure Bundle where
  ins   : List Nat
  slots : List Nat
  pred  : Bool
  idx   : Nat
  rand  : Nat
  ev    : Ev
deriving DecidableEq, Repr

/-- The encoding that a source code names at stage `i` (R146). -/
def source (p : Prog) (b : Bundle) (i code : Nat) : Nat :=
  if code < 4 then b.ins.getD code 0
  else if code < 8 then b.slots.getD (code - 4) 0
  else if code = 8 then progConst p i
  else if code = 9 then b.rand
  else if code = 11 then (fpRound (progFmt p) (fvInt 1 0)).val
  else 0

/-- An operand as a stage reads it (R150). -/
def operand (p : Prog) (b : Bundle) (i code : Nat) : FV := fpGlaze (progFmt p) (source p b i code)

/-- The rounded result of operands in the program's precision (R59, R149). -/
def result (p : Prog) (args : List FV) (v : FV) : Counted := counted (fpResult (progFmt p) args v)
/-- A value returned as it is read, without rounding (R150). -/
def exactly (p : Prog) (v : FV) : Counted := ((fpStore (progFmt p) v).val, ev0)

/-- Whether a comparison holds (R147, R150). -/
def compare (cond : Nat) (a b : FV) : Bool :=
  let un := decide (a = .nan) || decide (b = .nan)
  match cond with
  | 0 => fvEq a b
  | 1 => !fvEq a b
  | 2 => fvLt a b
  | 3 => fvLt a b || fvEq a b
  | 4 => fvLt b a
  | 5 => fvLt b a || fvEq a b
  | _ => un

/-- Result of an ALU operation other than CMP (R149). -/
def aluResult (p : Prog) (b : Bundle) (i : Nat) : Counted :=
  let w := progWord p i
  let f := progFmt p
  let a := operand p b i (bits w 7 4)
  let x := operand p b i (bits w 11 4)
  let c := operand p b i (bits w 15 4)
  match bits w 0 5 with
  | 0x01 => exactly p a
  | 0x02 => result p [a, x] (fvAdd a x)
  | 0x03 => result p [a, x] (fvAdd a (fvNeg x))
  | 0x04 => result p [a, x] (fvMul a x)
  | 0x05 => result p [a, x, c] (fvAdd (fvMul a x) c)
  | 0x06 => result p [a, x, c] (fvAdd c (fvNeg (fvMul a x)))
  | 0x07 => (fpMaxMin f false (source p b i (bits w 7 4)) (source p b i (bits w 11 4)), ev0)
  | 0x08 => (fpMaxMin f true (source p b i (bits w 7 4)) (source p b i (bits w 11 4)), ev0)
  | 0x09 => exactly p (fvAbs a)
  | _ => if b.pred then exactly p a else exactly p x

/-- Write a slot, with what the stage counts. -/
def setSlot (b : Bundle) (k : Nat) (v : Counted) : Bundle := { b with slots := b.slots.set k v.1, ev := evAdd b.ev v.2 }

/-- Whether the guard of a stage lets it act. -/
def guardOk (p : Prog) (b : Bundle) (i : Nat) : Bool :=
  match stageGuard p i with
  | 1 => b.pred
  | 2 => !b.pred
  | _ => true

/-- An ALU stage on one element. -/
def aluStage (p : Prog) (i : Nat) (b : Bundle) : Bundle :=
  let w := progWord p i
  if bits w 0 5 = 0 ∨ !guardOk p b i then b
  else if bits w 0 5 = 0x0A then
    let r := compare (bits w 19 3) (operand p b i (bits w 7 4)) (operand p b i (bits w 11 4))
    { setSlot b (bits w 5 2) (exactly p (fvInt (if r then 1 else 0) 0)) with pred := r }
  else setSlot b (bits w 5 2) (aluResult p b i)

/-! ### PWP (R151, R152) -/

/-- Clamp to 0..255. -/
def clamp255 (z : Int) : Nat := if z < 0 then 0 else if 255 < z then 255 else z.toNat

/-- ⌊x⌋ of a finite value. -/
def fvFloor (x : FV) : Int :=
  let (n, m, e) := fvParts x
  let (num, den) := fracOf m e
  Int.fdiv (if n then -(num : Int) else num) den

/-- A value times 2^k. -/
def fvScale (x : FV) (k : Int) : FV :=
  match x with
  | .fin n m e => .fin n m (e + k)
  | y => y

/-- ((c3·t + c2)·t + c1)·t + c0 with three fused multiply-adds. -/
def cubic (p : Prog) (c : Nat → FV) (t : FV) : Counted :=
  let step := fun (u : FV) (k : Nat) => result p [u, t, c k] (fvAdd (fvMul u t) (c k))
  let read := fun (r : Counted) => fpGlaze (progFmt p) r.1
  let r2 := step (c 3) 2
  let r1 := step (read r2) 1
  let r0 := step (read r1) 0
  (r0.1, evAdd r2.2 (evAdd r1.2 r0.2))

/-- A user table's polynomial at x: `coef i j` is coefficient j of segment i. -/
def pwpUser (p : Prog) (x : FV) (coef : Nat → Nat → FV) : Counted :=
  let x0 := fpGlaze (progFmt p) (progConst p 5)
  let ks := sx 5 (bits (progWord p 5) 12 5)
  match x with
  | .nan => (fpNan (progFmt p), ev0)
  | _ =>
    if fvFinite x ∧ fvFinite x0 then
      let i := clamp255 (fvFloor (fvScale (fvAdd x (fvNeg x0)) ks))
      let t := fvAdd x (fvNeg (fvAdd x0 (fvInt i (-ks))))
      cubic p (coef i) t
    else
      let d := result p [x, x0] (fvAdd x (fvNeg x0))
      if d.1 = fpNan (progFmt p) then d
      else
        let i : Nat := if bit d.1 ((progFmt p).ebits + (progFmt p).mbits) then 0 else 255
        let edge := result p [x0] (fvAdd x0 (fvInt i (-ks)))
        let e := fpGlaze (progFmt p) edge.1
        let t := result p [x, e] (fvAdd x (fvNeg e))
        let r := cubic p (coef i) (fpGlaze (progFmt p) t.1)
        (r.1, evSum [d.2, edge.2, t.2, r.2])

/-! ### SFU (R153) and PWP stages -/

/-- The SFU stage on one element. -/
def sfuStage (p : Prog) (b : Bundle) : Bundle :=
  let w := progWord p 6
  if bits w 0 3 = 0 ∨ !guardOk p b 6 then b
  else setSlot b (bits w 3 2) (counted (sfuResult (progFmt p) (bits w 0 3) (operand p b 6 (bits w 5 4))))

/-- The PWP stage on one element. -/
def pwpStage (p : Prog) (coef : Nat → Nat → FV) (b : Bundle) : Bundle :=
  let w := progWord p 5
  let op := bits w 0 5
  if op = 0 then b
  else
    let x := operand p b 5 (bits w 8 4)
    setSlot b (bits w 6 2) (if op = 1 then pwpUser p x coef else counted (pwpBuiltin (progFmt p) op (bit w 5) x))

/-- One stage of 1 to 8. -/
def runStage (p : Prog) (coef : Nat → Nat → FV) (b : Bundle) (i : Nat) : Bundle :=
  if i = 5 then pwpStage p coef b else if i = 6 then sfuStage p b else aluStage p i b

/-- The element after stages 1 to `n`. -/
def runStages (p : Prog) (coef : Nat → Nat → FV) (b : Bundle) (n : Nat) : Bundle :=
  ((List.range n).map (· + 1)).foldl (runStage p coef) b

/-- z: read at the input of stage ZSTAGE (R145). -/
def sampleZ (p : Prog) (coef : Nat → Nat → FV) (b : Bundle) : FV :=
  let zs := progZstage p
  operand p (runStages p coef b (min 8 (zs - 1))) zs (progZsrc p)

/-! ### Checks of R148 -/

/-- What the command brings to the check. -/
structure ProgUse where
  supplied  : List Nat
  tid       : Nat
  forward   : Bool
  keepMode  : Nat
  func      : Option Nat
  elems     : Nat
deriving DecidableEq, Repr

/-- Whether a source can be read at stage `i`. -/
def readable (p : Prog) (u : ProgUse) (i code : Nat) : Bool :=
  if code < 4 then progIn p code && u.supplied.contains code
  else if code < 8 then slotWritten p i (code - 4)
  else if code = 9 then u.tid != 0
  else code != 12

/-- Whether z is sampled: for the keep tensor of a forward store or STENCIL FORM (R145, R148). -/
def samplesZ (u : ProgUse) : Bool := u.forward && u.keepMode != 0

/-- Whether a program draws. -/
def progDraws (p : Prog) (u : ProgUse) : Bool :=
  fmtSr p || ((List.range 11).any (fun i => (stageReads p i).contains 9)) || (samplesZ u && progZstage p != 0 && progZsrc p == 9)

/-- The checks of R148 and R423 that need no keep header and no reduction address. -/
def progValid (p : Prog) (u : ProgUse) : Bool :=
  (List.range 11).all (fun i => (stageReads p i).all (readable p u i)) &&
  [1, 2, 3, 4, 6, 7, 8].all (fun i => stageGuard p i == 0 ||
    (match stageDst p i with | some v => slotWritten p i v | none => true)) &&
  (List.range 4).all (fun k => !progIn p k || u.supplied.contains k) &&
  (!progDraws p u || (u.tid != 0 && decide (u.elems ≤ 2 ^ 48))) &&
  (!progCompress p || fmtOp p == 0) &&
  decide (((List.range 4).filter (fun j => routeSwatch p j)).length ≤ 1) &&
  (stageOp p 5 != 1 || progPwpTable p != 0) &&
  progZsrc p != 12 && (!samplesZ u || progZstage p != 0) &&
  (List.range 4).all (fun j => !routeEn p j ||
    (if routeSrc p j = 12 then fmtOp p != 0 && routeFmt p j == fmtFmt p else readable p u 11 (routeSrc p j))) &&
  (!progExpand p || ((progFill p == 8 || progFill p == 10 ||
      (decide (progFill p < 4) && progFill p != progXin p && readable p u 0 (progFill p))) && readable p u 0 (progXin p))) &&
  (!bit (progWord p 5) 5 || (decide (2 ≤ stageOp p 5) && decide (stageOp p 5 ≤ 6))) &&
  (!redAcc p || !redLanes p) &&
  (!samplesZ u ||
    (if progZsrc p = 8 then aluStages.contains (progZstage p) || progZstage p == 5
     else readable p u (progZstage p) (progZsrc p))) &&
  (!(u.func == some 1 && u.keepMode != 0) ||
    (let lo := fpGlaze (progFmt p) (progLo p)
     let hi := fpGlaze (progFmt p) (progHi p)
     decide (lo ≠ .nan) && decide (hi ≠ .nan) && !fvLt hi lo)) &&
  (fmtOp p == 0 || fmtOp p == 1 || bit p 0)

end Sys2Proof.Machine
end

