-- ==== Sys2Proof/Machine/Stencil.lean ====
section
/-! DEFINITION. The built-in stencil tables (R123, R125): entry D[c] is the FP32 value nearest to (inf + sup) / 2 of f′ over
segment c. The entries below are those values, 32 to a word from code 0 up, the lowest code in the lowest 32 bits (log 13). -/

namespace Sys2Proof.Machine

open Sys2Proof

/-- GELU. -/
def geluTable : List Nat := [
  0xbc3c0997bc2d2f55bc1f52b5bc126760bc066127bbf6681cbbe1a8afbbce6d1bbbbc9f16bbac2902bb9cf5fcbb8ef1e3bb82095fbb6c53c9bb568375bb427ff4bb30291cbb1f6067bb1008eabb020753baea83bbbad3408fbabe1793baaade10ba996c0fba899c39ba769785ba5cb48dba45535aba303c1dba1d3b26b9943a07,
  0xbdab19fdbda4353dbd9d5a25bd968e8cbd8fd7c7bd893aa9bd82bb85bd78bc6ebd6c4c46bd602c7dbd546223bd48f17dbd3dde10bd332aa8bd28d967bd1eebcfbd1562d0bd0c3ecfbd037fb3bcf649e3bce65b32bcd730b2bcc8c71cbcbb1a98bcae26cabca1e6e9bc9655cebc8b6e01bc8129cbbc6f068abc5ce8c0bc4bede8,
  0xbdb20346bdc01188bdccb8f7bdd80319bde1fa3dbdeaa968bdf21c46bdf85f10bdfd7e7bbe00c3d3be024403be0346a9be03d2b9be03f0f0be03a325be02f592be01ed79be0091c6bdfdd29abdf9f585bdf5996ebdf0cb1fbdeb9706bde60927bde02d17bdda0df5bdd3b662bdcd3080bdc685e9bdbfbfb3bdb8e666bdb20203,
  0x3ef99e773eecde953ee0283f3ed381c93ec6f1713eba7d603eae2b9d3ea2020a3e96065c3e8a3e163e7d5d053e66b95b3e509ac43e3b0a443e26104a3e11b4a73dfbfd103dd5e8db3db1385a3d8df5d13d5854373d17b95a3cb44e303bfd3557bbbe0c02bc981b7ebcfa7a39bd2b5146bd564e7abd7e3b6cbd919097bda28589,
  0x3f8a28593f8919093f87f1db3f86b2743f855a8a3f83e9e93f82606e3f80be0c3f7e05953f7a5d8e3f76846a3f727abd3f6e41463f69d8f53f6542e53f60805e3f5b92d63f567bee3f513d6f3f4bd94f3f4651a93f40a8bf3f3ae0f53f34fcd23f2efefb3f28ea323f22c1503f1c87473f163f1c3f0febe03f0990b63f0330c5,
  0x3f8b20203f8b8e663f8bfbfb3f8c685f3f8cd3083f8d3b663f8da0df3f8e02d13f8e60923f8eb9703f8f0cb23f8f59973f8f9f583f8fdd2a3f9012393f903daf3f905eb23f9074653f907e1e3f907a573f9068d53f9048803f90187a3f8fd7e83f8f85f13f8f21c43f8eaa973f8e1fa43f8d80323f8ccb8f3f8c01183f8b2034,
  0x3f8197dc3f81b9d13f81de0d3f8204a73f822db83f8259573f82879c3f82b89b3f82ec6a3f83231c3f835cc33f83996d3f83d9283f841bfe3f8461f63f84ab173f84f75e3f8546cb3f8599553f85eef03f86478c3f86a3113f8701643f8762623f87c5e33f882bb83f8893ab3f88fd7c3f8968e93f89d5a23f8a43543f8ab1a0,
  0x3f8009443f8013a73f8016083f8018aa3f801b973f801ed33f8022673f80265b3f802ab83f802f863f8034d03f803aa13f8041043f8048043f804fb03f8058153f8061403f806b423f80762a3f8082093f808ef23f809cf63f80ac293f80bc9f3f80ce6d3f80e1a93f80f6683f810cc23f8124cf3f813ea53f815a5f3f817813]

/-- SiLU. -/
def siluTable : List Nat := [
  0xbc450e69bc3b7a70bc3255d9bc299c34bc21492ebc195899bc11c663bc0a8e9bbc03ad74bbfa3e7bbbedc0d1bbe1db0cbbd6868cbbcbbcefbbc17810bbb7b203bbae6519bba58bd9bb9d2103bb951f8cbb8d829cbb86458fbb7ec7e4bb71b303bb65444ebb5973f5bb4e3a79bb4390b1bb396fc4bb2fd126bb26ae93baa23b89,
  0xbd539127bd4b5f92bd43627ebd3b9b76bd340b9ebd2cb3c7bd25946dbd1eadcabd17ffd8bd118a59bd0b4ce1bd0546d7bcfeef00bcf3bc01bce8f2c2bcde9129bcd494f6bccafbc9bcc1c32abcb8e88cbcb06955bca842dfbca0727fbc98f587bc91c949bc8aeb1abc845853bc7c1cabbc701517bc6494d3bc5996debc4f1654,
  0xbdbcd05cbdc1fd40bdc602efbdc8f938bdcaf709bdcc1262bdcc6778bdcbf499bdcae245bdc93b0ebdc70fa0bdc46f95bdc16974bdbe0ababdba5fe2bdb6746ebdb252efbdae0514bda993b4bda506d8bda065c8bd9bb718bd9700b1bd9247debd8d9158bd88e150bd843b78bd7f461abd7635c7bd6d4ad8bd64897ebd5bf546,
  0x3ef801553ee80bf93ed82e743ec8785a3eb8f8cc3ea9be4c3e9ad6923e8c4e703e7c63543e6115c93e46c7183e2d87923e1564f03dfcd4943dd140403da818cf3d8165423d3a4fe63ced7b7b3c601fb7b9f27f16bc5c8c4ebccfa45cbd14172fbd3c1b35bd600ad9bd800abcbd8e3640bd9aa165bda56607bdae9e29bdb663b9,
  0x3f8b663c3f8ae9e33f8a56603f89aa163f88e3643f8800ac3f8700573f85e0da3f84a0b93f833e913f81b9193f800f283f7c7f813f7894243f745b023f6fd3583f6afce63f65d7f83f60656e3f5aa6c43f549e1b3f4e4e3a3f47ba8e3f40e72b3f39d8c83f3294b73f2b20da3f23839a3f1bc3d33f13e8c63f0bfa033f03ff55,
  0x3f86dfaa3f87244c3f876a573f87b1ae3f87fa313f8843b73f888e153f88d9163f89247e3f89700b3f89bb723f8a065d3f8a506e3f8a993b3f8ae0513f8b252f3f8b67473f8ba5fe3f8be0ac3f8c16973f8c46f93f8c70fa3f8c93b13f8cae243f8cbf4a3f8cc6783f8cc1263f8caf713f8c8f933f8c602f3f8c1fd43f8bcd06,
  0x3f819e2d3f81b32e3f81c92a3f81e02a3f81f8393f8211613f822bac3f8247253f8263d63f8281ca3f82a10b3f82c1a53f82e3a23f83070d3f832bef3f8352543f837a453f83a3cb3f83cef03f83fbbc3f842a373f845a673f848c533f84bfff3f84f56e3f852ca33f85659e3f85a05d3f85dcdc3f861b143f865afd3f869c89,
  0x3f80288f3f8053573f8057e93f805cb83f8061c83f80671d3f806cba3f8072a23f8078da3f807f643f8086463f808d833f8095203f809d213f80a58c3f80ae653f80b7b23f80c1783f80cbbd3f80d6873f80e1db3f80edc13f80fa3e3f81075b3f81151d3f81238d3f8132b13f8142923f8153383f8164ac3f8176f53f818a1d]

/-- tanh. -/
def tanhTable : List Nat := [
  0x3c1cc5683c1350d03c0a6d983c0213163bf472493be5b02f3bd7d16d3bcac86a3bbe885e3bb305403ba833bd3b9e09303b947b933b8b817b3b83120c3b7649e03b6764a23b5965a23b4c3f033b3fe3bf3b3447973b295f073b1f1f3b3b157e073b0c71da3b03f1b73af7ea543ae8e8853adacf123acd8ff43ac11dfb3a3b16af,
  0x3d8c75403d843a513d78eda23d6a48e63d5c7a5f3d4f768d3d4332753d37a3a33d2cc0233d227e7c3d18d5b03d0fbd333d072cea3cfe3a453cef0d2a3ce0c4b23cd353cb3cc6ae173cbac7e33caf961e3ca50e563c9b26a93c91d5c53c8912db3c80d59c3c722c643c639a6e3c55e7633c49061f3c3cea3d3c31880d3c26d490,
  0x3ed1fcdf3ec811c73ebe795d3eb535053eac45953ea3ab613e9b66473e9375c03e8bd8e83e848e8d3e7b2a6f3e6dd66d3e611d4e3e54fafc3e496b223e3e69373e33f08c3e29fc583e2087c43e178df03e0f09fe3e06f7183dfea0ed3df022c73de26a833dd56f1a3dc927c03dbd8beb3db293503da835ef3d9e6c0b3d952e34,
  0x3f7fe0053f7f605a3f7e62033f7ce6f73f7af2213f7887513f75ab2b3f72631b3f6eb5363f6aa82b3f6643263f618db83f5c8fba3f57513a3f51da5a3f4c333d3f4663f13f4074593f3a6c1c3f3452933f2e2ec03f28073f3f21e23f3f1bc57b3f15b6383f0fb93f3f09d2df3f0406ee3efcb1983ef196c73ee6c2683edc38a3,
  0x3edc38a33ee6c2683ef196c73efcb1983f0406ee3f09d2df3f0fb93f3f15b6383f1bc57b3f21e23f3f28073f3f2e2ec03f3452933f3a6c1c3f4074593f4663f13f4c333d3f51da5a3f57513a3f5c8fba3f618db83f6643263f6aa82b3f6eb5363f72631b3f75ab2b3f7887513f7af2213f7ce6f73f7e62033f7f605a3f7fe005,
  0x3d952e343d9e6c0b3da835ef3db293503dbd8beb3dc927c03dd56f1a3de26a833df022c73dfea0ed3e06f7183e0f09fe3e178df03e2087c43e29fc583e33f08c3e3e69373e496b223e54fafc3e611d4e3e6dd66d3e7b2a6f3e848e8d3e8bd8e83e9375c03e9b66473ea3ab613eac45953eb535053ebe795d3ec811c73ed1fcdf,
  0x3c26d4903c31880d3c3cea3d3c49061f3c55e7633c639a6e3c722c643c80d59c3c8912db3c91d5c53c9b26a93ca50e563caf961e3cbac7e33cc6ae173cd353cb3ce0c4b23cef0d2a3cfe3a453d072cea3d0fbd333d18d5b03d227e7c3d2cc0233d37a3a33d4332753d4f768d3d5c7a5f3d6a48e63d78eda23d843a513d8c7540,
  0x3a3b16af3ac11dfb3acd8ff43adacf123ae8e8853af7ea543b03f1b73b0c71da3b157e073b1f1f3b3b295f073b3447973b3fe3bf3b4c3f033b5965a23b6764a23b7649e03b83120c3b8b817b3b947b933b9e09303ba833bd3bb305403bbe885e3bcac86a3bd7d16d3be5b02f3bf472493c0213163c0a6d983c1350d03c1cc568]

/-- Sigmoid. -/
def sigmoidTable : List Nat := [
  0x3b1cc5683b1350d03b0a6d983b0213163af472493ae5b02f3ad7d16d3acac86a3abe885e3ab305403aa833bd3a9e09303a947b933a8b817b3a83120c3a7649e03a6764a23a5965a23a4c3f033a3fe3bf3a3447973a295f073a1f1f3b3a157e073a0c71da3a03f1b739f7ea5439e8e88539dacf1239cd8ff439c11dfb393b16af,
  0x3c8c75403c843a513c78eda23c6a48e63c5c7a5f3c4f768d3c4332753c37a3a33c2cc0233c227e7c3c18d5b03c0fbd333c072cea3bfe3a453bef0d2a3be0c4b23bd353cb3bc6ae173bbac7e33baf961e3ba50e563b9b26a93b91d5c53b8912db3b80d59c3b722c643b639a6e3b55e7633b49061f3b3cea3d3b31880d3b26d490,
  0x3dd1fcdf3dc811c73dbe795d3db535053dac45953da3ab613d9b66473d9375c03d8bd8e83d848e8d3d7b2a6f3d6dd66d3d611d4e3d54fafc3d496b223d3e69373d33f08c3d29fc583d2087c43d178df03d0f09fe3d06f7183cfea0ed3cf022c73ce26a833cd56f1a3cc927c03cbd8beb3cb293503ca835ef3c9e6c0b3c952e34,
  0x3e7fe0053e7f605a3e7e62033e7ce6f73e7af2213e7887513e75ab2b3e72631b3e6eb5363e6aa82b3e6643263e618db83e5c8fba3e57513a3e51da5a3e4c333d3e4663f13e4074593e3a6c1c3e3452933e2e2ec03e28073f3e21e23f3e1bc57b3e15b6383e0fb93f3e09d2df3e0406ee3dfcb1983df196c73de6c2683ddc38a3,
  0x3ddc38a33de6c2683df196c73dfcb1983e0406ee3e09d2df3e0fb93f3e15b6383e1bc57b3e21e23f3e28073f3e2e2ec03e3452933e3a6c1c3e4074593e4663f13e4c333d3e51da5a3e57513a3e5c8fba3e618db83e6643263e6aa82b3e6eb5363e72631b3e75ab2b3e7887513e7af2213e7ce6f73e7e62033e7f605a3e7fe005,
  0x3c952e343c9e6c0b3ca835ef3cb293503cbd8beb3cc927c03cd56f1a3ce26a833cf022c73cfea0ed3d06f7183d0f09fe3d178df03d2087c43d29fc583d33f08c3d3e69373d496b223d54fafc3d611d4e3d6dd66d3d7b2a6f3d848e8d3d8bd8e83d9375c03d9b66473da3ab613dac45953db535053dbe795d3dc811c73dd1fcdf,
  0x3b26d4903b31880d3b3cea3d3b49061f3b55e7633b639a6e3b722c643b80d59c3b8912db3b91d5c53b9b26a93ba50e563baf961e3bbac7e33bc6ae173bd353cb3be0c4b23bef0d2a3bfe3a453c072cea3c0fbd333c18d5b03c227e7c3c2cc0233c37a3a33c4332753c4f768d3c5c7a5f3c6a48e63c78eda23c843a513c8c7540,
  0x393b16af39c11dfb39cd8ff439dacf1239e8e88539f7ea543a03f1b73a0c71da3a157e073a1f1f3b3a295f073a3447973a3fe3bf3a4c3f033a5965a23a6764a23a7649e03a83120c3a8b817b3a947b933a9e09303aa833bd3ab305403abe885e3acac86a3ad7d16d3ae5b02f3af472493b0213163b0a6d983b1350d03b1cc568]

/-- Softplus. -/
def softplusTable : List Nat := [
  0x3b1d25f73b13a60d3b0ab8d63b0255813af4e78c3ae617b03ad82cc93acb190f3abecf8c3ab344143aa86b313a9e3a223a94a6c63a8ba79d3a8333b43a7685483a6799113a5993e83a4c67db3a4007cb3a3467683a297b1b3a1f38033a1593e63a0c85273a0402c039f8086539e9030e39dae67e39cda49f39c13039393b27ca,
  0x3c8ef47b3c866fa23c7cd5683c6dbcd93c5f87d53c5229543c4595053c39bf3f3c2e9cff3c2423db3c1a4a003c1106243c084f833c001dd93bf0d2b13be2554a3bd4b59d3bc7e6953bbbdbdd3bb089d63ba5e58f3b9be4b63b927d953b89a7083b8158713b73136b3b6466673b569b783b49a51c3b3d76983b3203f63b2741f3,
  0x3ded90f83de0c0f03dd48d063dc8f0043dbde4a13db3658b3da96d6f3d9ff6ff3d96fcf83d8e7a2a3d8669773d7d8bb73d6f14e53d6164e93d5472793d4834903d3ca2763d31b3bc3d2760423d1da0353d146c0f3d0bbc9a3d038aeb3cf7a0c63ce90d5e3cdb4f873cce5bba3cc226fc3cb6a6d63cabd1563ca19d063c9800ea,
  0x3efc00553ef402ff3eec0ba23ee41e2b3edc3e773ed470443eccb7303ec516b13ebd920e3eb62c5c3eaee8763ea7c9003ea0d05c3e9a00b03e935bdf3e8ce38b3e8699163e807da23e7524243e69ae1d3e5e9a093e53e8583e4999143e3fabe43e36201c3e2cf4bc3e24287c3e1bb9d33e13a6ff3e0bee0b3e048cd63dfb023a,
  0x3f609fb93f5edcca3f5d047d3f5b16403f59118b3f56f5e13f54c2d13f5277f93f5015073f4d99bb3f4b05ea3f48597e3f4594793f42b6f73f3fc12f3f3cb3753f398e3b3f3652113f32ffa83f2f97d23f2c1b803f288bc53f24e9d23f2136f93f1d74a73f19a4683f15c7de3f11e0c53f0df0ea3f09fa2f3f05fe813f01ffd5,
  0x3f7b3ff93f7af3183f7aa1753f7a4ac93f79eec83f798d223f7925843f78b7953f7842fa3f77c7513f7744363f76b93f3f7625fd3f7589fc3f74e4c43f7435d93f737cb73f72b8d83f71e9b13f710eb23f7027453f6f32d13f6e30bb3f6d20613f6c01203f6ad2523f69934f3f68436c3f66e1ff3f656e5f3f63e7e23f624de1,
  0x3f7f58be3f7f4dfc3f7f42893f7f365b3f7f29653f7f1b9a3f7f0ced3f7efd4f3f7eecb23f7edb053f7ec8373f7eb4353f7e9eec3f7e88483f7e70333f7e56953f7e3b553f7e1e5b3f7dff893f7ddec23f7dbbe73f7d96d83f7d6f713f7d458c3f7d19033f7ce9ac3f7cb75b3f7c81e13f7c490d3f7c0caa3f7bcc833f7b885c,
  0x3f7ff44e3f7fe7da3f7fe64b3f7fe4a33f7fe2e03f7fe0ff3f7fdeff3f7fdcdf3f7fda9b3f7fd8323f7fd5a13f7fd2e63f7fcffe3f7fcce63f7fc99b3f7fc61a3f7fc25f3f7fbe663f7fba2c3f7fb5ad3f7fb0e33f7fabca3f7fa65e3f7fa0983f7f9a733f7f93ea3f7f8cf43f7f858c3f7f7daa3f7f75473f7f6c5a3f7f62da]
/-- Entry D[c] of the built-in table of a smooth function, as FP32 (R123, R125). -/
def stencilBuiltin (func code : Nat) : Nat :=
  let t := match func with
    | 2 => geluTable
    | 3 => siluTable
    | 4 => tanhTable
    | 5 => sigmoidTable
    | _ => softplusTable
  t.getD (code / 32) 0 >>> (32 * (code % 32)) % 2 ^ 32

end Sys2Proof.Machine
end

