-- ==== Sys2Proof/Machine/Chain.lean ====
section
/-! DEFINITION. Operations of the Glaze chain: GLAZE, the stores (R85, R88, R105 to R107, R121), data-gradient stores and
stencils (R122 to R136, R201), with conversion, compression, reductions and the swatch feed (R154 to R162, R174 to R176). -/

namespace Sys2Proof.Machine

open Sys2Proof

/-! ### The operation's plan -/

/-- The five kinds of operation. -/
inductive ChainKind where
  | glaze | store | dgrad | form | apply
deriving DecidableEq, Repr

/-- A chain command after its checks. -/
structure Plan where
  kind   : ChainKind
  prog   : Prog
  dimm   : Nat
  dime   : Nat
  rows   : Nat
  width  : Nat
  org    : List Nat
  ixd    : Desc
  tid    : Nat
  ins    : List (Option Tensor)
  outs   : List (Option Tensor)
  keep   : Option Tensor
  addend : Option Tensor
  mask   : Option Tensor
  raddr  : Nat
  caddr  : Nat
  len    : Nat
  bank   : Bool
  wide   : Bool
  minus  : Bool
  kmode  : Nat
  func   : Nat
  check  : Bool
  dprog  : Bool
deriving DecidableEq, Repr

/-- KEEP field of a STORE or STENCIL (R128). -/
def keepField (w : BitVec 128) : Nat := cmdBits w 58 16

/-- Whether a FUNC code has a meaning (R123). -/
def funcOk (f : Nat) : Bool := decide (f ≤ 6) || f == 16

/-- Bits of a stencil code (R123), and the descriptor KIND of that width (R126, R167). -/
def codeKind (func : Nat) : Nat := if func = 0 then 1 else if func = 1 then 2 else 3
/-- Segment exponent k of a built-in function (R123). -/
def builtinK (func : Nat) : Nat := if func = 2 ∨ func = 4 then 5 else if func = 3 ∨ func = 5 ∨ func = 6 then 4 else 0

/-- Coordinate of row `m` and lane `e` (R174). -/
def planCoord (o : List Nat) (dimm dime m e : Nat) : List Nat := bumpCoord (bumpCoord o dimm m) dime e

/-- Rows of the grid: an element is named by its row and lane. -/
abbrev RowLane := Nat × Nat

/-- The elements in ascending index (R143, R158, R159). -/
def planOrder (p : Plan) : List RowLane :=
  let byRow := (List.range p.rows).flatMap (fun m => (List.range p.width).map (fun e => (m, e)))
  let byLane := (List.range p.width).flatMap (fun e => (List.range p.rows).map (fun m => (m, e)))
  if p.dimm < p.dime then byLane else byRow

/-- Elements whose coordinate lies within the index tensor (R154). -/
def planElems (p : Plan) : List RowLane :=
  (planOrder p).filter (fun x => inside p.ixd (planCoord p.org p.dimm p.dime x.1 x.2))

/-- Bytes of a value of the program. -/
def progBytes (p : Prog) : Nat := if bit p 0 then 8 else 4

/-- Bytes of the reduction's result. -/
def redBytes (p : Plan) : Nat :=
  if redOp p.prog = 0 then 0 else (if redLanes p.prog then p.rows else 128) * progBytes p.prog

/-- Whether a place lies in the tile's own scratchpad window (R144). -/
def inWindow (t a n : Nat) : Bool := inScratch t a n

/-- Descriptor format of an enabled output: what its routing names, as an element tensor; SCAN writes the exponents of a slice plane,
and SLICE names plane 0, whose FMT is 0x00 (R96, R98, R147). -/
def outDescOk (p : Prog) (j : Nat) (d : Desc) : Bool :=
  if routeSrc p j = 12 ∧ fmtOp p ≠ 1 then d.kind == 4 && (fmtOp p == 2 || d.fmt == 0) else d.kind == 0 && d.fmt == routeFmt p j

/-- Whether an input tensor is one that a program reads: an element tensor. A slice plane serves split-mode commands only (R100), and
keep codes are no elements (log 97). -/
def inputOk (t : Option Tensor) : Except Stop Unit :=
  match t with
  | none => .ok ()
  | some t => do
    need (t.d.kind != 4) .formatPair
    need (t.d.kind == 0) .layoutInvalid

/-- Whether a tensor may be the addend of a store into format F: F's own format, or FP64 from a split-mode bank (R106, R121). -/
def addendOk (b : Bank) (wide : Bool) (d : Desc) : Bool :=
  d.kind == 0 && (d.fmt == (if wide then 0x0F else 0x0E) || (b.split.isSome && d.fmt == 0x0F))

/-- Whether an operation forms r′, in FP32 whatever F is (R129). -/
def formsDeriv (kind : ChainKind) (mode : Nat) : Bool := (kind == .dgrad || kind == .apply) && mode != 0

/-- A tensor reference that an operation uses, or one that it does not use, whose fields and descriptor are checked all the same (R15,
R172, R198). -/
def trefIf (s : Block) (q v : Nat) (used : Bool) (u : TsUse) (dst : Bool) : Except Stop (Option Tensor) := do
  let t ← trefRead s q v (if used then u else .natural) (used && dst)
  if used then
    need t.isSome .layoutInvalid
    return t
  else return none

/-- Elements per byte of a packed tensor (R174). -/
def perByte (d : Desc) : Nat := if packed d then 8 / elemBits d else 1

/-- Every tensor of a list that is written starts its runs on a byte. -/
def runsAligned (o : List Nat) (ts : List (Option Tensor)) : Bool :=
  ts.all (fun t => match t with | some t => at_ o 0 % perByte t.d == 0 | none => true)

/-- What a chain block supplies to its program, as far as the block itself tells; `draws` are not judged yet (R148). -/
def blockUse (kind : ChainKind) (v kf : Nat) : ProgUse :=
  let named := (List.range 4).filter (fun k => bits (blkTref v (80 + 16 * k)) 0 48 != 0)
  let bank := if kind = .store ∨ kind = .dgrad then [0] else []
  let zhat := if (kind = .dgrad ∨ kind = .apply) ∧ bits kf 2 5 = 16 then [3] else []
  { supplied := bank ++ zhat ++ named, tid := 1, forward := kind = .store ∨ kind = .form, keepMode := bits kf 0 2,
    func := if kind = .glaze then none else some (bits kf 2 5), elems := 0 }

/-- Fields of a chain block and KEEP field that are reserved for every command that has the block (R15, R128, R200, R201). -/
def blockReserved (v kf : Nat) (back : Bool) : Bool :=
  bits (blkNat v 8 8) 24 40 != 0 || blkNat v 72 8 != 0 || originReserved v 48 || bits kf 9 7 != 0 || bits kf 0 2 == 3 ||
    !funcOk (bits kf 2 5) || (back && bits kf 0 2 == 2)

/-- Read the fields of a chain command and make the checks that need no operand data (R148, R174, R198 to R201). The tensor identifier
of its draws is that of the index tensor's reference (log 83). CHECK and DPROG of a forward store are ignored (log 84). -/
def planOf (s : Block) (q : Nat) (kind : ChainKind) (w : BitVec 128) : Except Stop Plan := do
  let v ← readBlock s q w
  let g := blkNat v 8 8
  let store := kind = .store ∨ kind = .dgrad
  let kf := if kind = .glaze then 0 else keepField w
  need (!blockReserved v kf (kind == .dgrad || kind == .apply) && blkNat v 16 8 == 0) .malformed
  need (!store || blkTref v 80 == 0) .malformed
  let pa := blkNat v 0 8
  need (inWindow q pa 256) .glazeProgram
  let prog ← readLe s q (ownAddr s pa) 256
  let func := if kind = .glaze then none else some (bits kf 2 5)
  need (!progReserved prog func) .malformed
  need (progValid prog (blockUse kind v kf)) .glazeProgram
  let ins ← (List.range 4).mapM (fun k => trefRead s q (blkTref v (80 + 16 * k)) .natural false)
  let outs ← (List.range 4).mapM (fun j =>
    trefIf s q (blkTref v (144 + 16 * j)) (routeEn prog j) (if routeSrc prog j = 12 then .zero else .natural) true)
  need ((List.range 4).all (fun j => match outs.getD j none with | some t => outDescOk prog j t.d | none => true)) .layoutInvalid
  let fwd := kind == .store || kind == .form
  let keep ← trefIf s q (blkTref v 208) (bits kf 0 2 != 0) (if fwd then .keepScale else .zero) fwd
  let wide := bit w.toNat 10 && store && !formsDeriv kind (bits kf 0 2)
  let addend ← trefIf s q (blkTref v 224) (store && bit w.toNat 12) .natural false
  need (match addend with | some t => addendOk (bankOf (tileAt s q) (bit w.toNat 8)) wide t.d | none => true) .layoutInvalid
  let mask ← trefIf s q (blkTref v 240) (progCompress prog || progExpand prog) .natural (progCompress prog)
  need (match mask with | some t => t.d.kind == 1 | none => true) .layoutInvalid
  let _ ← (ins.zip (List.range 4)).mapM (fun x => if progIn prog x.2 then inputOk x.1 else
    need (match x.1 with | some t => t.d.kind != 4 | none => true) .formatPair)
  let ix := bits g 21 3
  let ixt ← trefNeed s q (blkTref v (80 + 16 * ix)) (if 4 ≤ ix ∧ routeSrc prog (ix - 4) = 12 then .zero else .natural) false
  let org := blkOrigin v 48
  let p : Plan :=
    { kind := kind, prog := prog, dimm := bits g 0 3, dime := bits g 3 3, rows := bits g 6 8 + 1, width := bits g 14 7 + 1,
      org := org, ixd := ixt.d, tid := ixt.tid, ins := ins, outs := outs, keep := keep, addend := addend, mask := mask,
      raddr := blkNat v 24 8, caddr := blkNat v 32 8, len := blkNat v 40 8, bank := bit w.toNat 8,
      wide := wide, minus := bit w.toNat 11 && store, kmode := bits kf 0 2, func := bits kf 2 5,
      check := bit kf 7, dprog := bit kf 8 }
  need (p.dimm != p.dime && decide (p.dimm < 6) && decide (p.dime < 6)) .layoutInvalid
  need (runsAligned org outs && (!fwd || runsAligned org [keep]) && (!progCompress prog || runsAligned org [mask]))
    .layoutInvalid
  need ((redOp prog != 0 || p.raddr == 0) && (progCompress prog || p.caddr == 0)) .malformed
  need (redOp prog == 0 || seqMem s q p.raddr (redBytes p)) .badAddress
  need (!progCompress prog || (p.caddr % 8 == 0 && seqMem s q p.caddr 8)) .badAddress
  need (!(fmtOp prog == 1 && decide (fmtFmt prog < 10)) || scaleValid (progConst prog 10 % 2 ^ 32)) .scaleInvalid
  return p

/-! ### Keep headers (R127, R131, R135) -/

/-- A keep header's fields. -/
structure KeepHdr where
  mode   : Nat
  func   : Nat
  k      : Nat
  resv   : Nat
  tscale : Nat
  p0     : Nat
  p1     : Nat
  elems  : Nat
  step   : Nat
deriving DecidableEq, Repr

def keepHdrOf (v : Nat) : KeepHdr :=
  ⟨bits v 0 2, bits v 2 5, bits v 7 3, bits v 10 22, bits v 32 32, bits v 64 32, bits v 96 32, bits v 128 64, bits v 192 64⟩

/-- A keep header as 32 bytes. -/
def keepHdrBits (h : KeepHdr) : Nat :=
  h.mode + h.func * 4 + h.k * 2 ^ 7 + h.tscale * 2 ^ 32 + h.p0 * 2 ^ 64 + h.p1 * 2 ^ 96 + h.elems * 2 ^ 128 + h.step * 2 ^ 192

/-- The user stencil table's k (byte 1,024), read from the program's table. -/
def userK (s : Block) (q : Nat) (prog : Prog) : Nat := rackLe s q (ownAddr s (progStencilTable prog + 1024)) 1

/-- The mode a forward keep is served in, with its k (R135): narrow when forced, or when a user function has no usable
table. -/
def servedKeep (s : Block) (q : Nat) (p : Plan) : Nat × Nat :=
  if p.kmode ≠ 1 then (p.kmode, 0)
  else
    let noTable := p.func = 16 ∧ (progStencilTable p.prog = 0 ∨ 7 < userK s q p.prog)
    if odNat s 0x4310 2 = 1 ∨ noTable then (2, 0)
    else (1, if p.func = 16 then userK s q p.prog else builtinK p.func)

/-- The checks of R131 on a header read by a data-gradient store or STENCIL APPLY. -/
def headerOk (s : Block) (p : Plan) (h : KeepHdr) : Bool :=
  (h.mode == 1 || h.mode == 2) && h.func == p.func && h.elems == p.rows * p.width &&
  (!p.check || h.step == stepCounter s % 2 ^ 64) && (!(h.mode == 2 && h.func == 16) || p.dprog) && h.resv == 0 &&
  (if h.mode = 2 then scaleValid h.tscale else h.tscale == 0)

/-- Keep as the operation uses it: the mode served or recorded, k, the header, and the keep tensor's layout. -/
structure KeepUse where
  mode : Nat
  k    : Nat
  hdr  : KeepHdr
  d    : Desc
deriving DecidableEq, Repr

/-- The layout in which codes of a mode stand: stencil keep takes the descriptor of its code width, and narrow keep one byte per
element. A descriptor of 1- or 2-bit codes that serves narrow keep has its element width set by the code (R126, R135): bytes dense
along dimension 0 (log 86). None for any other pairing. -/
def keepLayout (mode func : Nat) (d : Desc) : Option Desc :=
  if mode = 1 then (if d.kind = codeKind func then some d else none)
  else if d.kind = 3 then some d
  else if d.kind = 1 ∨ d.kind = 2 then some { d with kind := 3, stride := d.stride.set 0 1 }
  else none

/-- Elements of the operation that its keep tensor takes: within the extents of the index tensor and its own (R127, R174). -/
def keptCount (p : Plan) (d : Desc) : Nat :=
  ((planElems p).filter (fun x => inside d (planCoord p.org p.dimm p.dime x.1 x.2))).length

/-- Read or form the keep header, with its checks. -/
def keepUse (s : Block) (q : Nat) (p : Plan) : Except Stop KeepUse := do
  match p.keep with
  | none => return ⟨0, 0, keepHdrOf 0, p.ixd⟩
  | some t =>
    let lay := fun (mode func : Nat) => match keepLayout mode func t.d with
      | some d => if descInMem d then Except.ok d else .error (⟨.layoutInvalid, 0⟩ : Stop)
      | none => .error ⟨.layoutInvalid, 0⟩
    if p.kind = .dgrad ∨ p.kind = .apply then
      let v ← readLe s q t.d.base 32
      let h := keepHdrOf v
      need (headerOk s p h) .keepMismatch
      need (!(h.mode == 1 && h.func == 16) || progStencilTable p.prog != 0) .glazeProgram
      let d ← lay h.mode h.func
      return ⟨h.mode, h.k, h, d⟩
    else
      let (mode, k) := servedKeep s q p
      let d ← lay mode p.func
      let h : KeepHdr := ⟨mode, p.func, k, 0, if mode = 2 then t.tscale else 0, Config.keepConst 0 p.prog % 2 ^ 32,
        Config.keepConst 1 p.prog % 2 ^ 32, keptCount p d, stepCounter s % 2 ^ 64⟩
      return ⟨mode, k, h, d⟩

/-- A stencil code of z (R124). -/
def stencilCode (prog : Prog) (func k : Nat) (z : FV) : Nat :=
  match z with
  | .nan => 0
  | _ =>
    if func = 0 then (if fvLt (fvInt 0 0) z then 1 else 0)
    else if func = 1 then
      if fvLt z (fpGlaze (progFmt prog) (progLo prog)) then 0
      else if fvLt (fpGlaze (progFmt prog) (progHi prog)) z then 2 else 1
    else
      match z with
      | .inf n => if n then 0 else 255
      | _ => clamp255 (fvFloor (fvScale z k) + 128)

/-- The code that a forward store keeps for z, with what it counts (R57, R124, R133). In an FP64 program the stencil code is formed from
the unrounded FP64 z (log 87). -/
def keepCode (p : Plan) (u : KeepUse) (z : FV) : Counted :=
  if u.mode = 1 then (stencilCode p.prog p.func u.k z, if z = .nan then { ev0 with nanSten := 1 } else ev0)
  else n8From (progFmt p.prog) u.hdr.tscale z

/-- FP32 1. -/
def one32 : Nat := 0x3F800000

/-- Derivative of a clip code. -/
def clipDeriv (h : KeepHdr) (code : Nat) : Nat := if code = 0 then h.p0 else if code = 1 then one32 else h.p1

/-- The derivative D that a code selects, as FP32 (R123, R125, R129, R134); `ztab` is the user stencil table's entry. A
clip code 0b11 selects none. -/
def derivOf (p : Plan) (u : KeepUse) (code : Nat) (ztab : Nat → Nat) : Option Nat :=
  let h := u.hdr
  if u.mode = 1 then
    if h.func = 0 then some (if code = 1 then one32 else h.p0)
    else if h.func = 1 then (if code = 3 then none else some (clipDeriv h code))
    else if h.func = 16 then some (ztab code)
    else some (stencilBuiltin h.func code)
  else
    let z := fpGlaze fp32 (fpRoundFlush fp32 (n8Scaled h.tscale code)).val
    if h.func = 0 then some (if fvLt (fvInt 0 0) z then one32 else h.p0)
    else if h.func = 1 then some (clipDeriv h (stencilCode p.prog 1 0 z))
    else some (pwpBuiltin fp32 h.func true z).val

/-- r′ = RNE_FP32(r · D). -/
def derivMul (r d : Nat) : Counted :=
  let a := fpGlaze fp32 r
  let b := fpGlaze fp32 d
  counted (fpResult fp32 [a, b] (fvMul a b))

/-! ### Draining a bank (R88, R105 to R107, R121) -/

/-- Pair counts all equal (R107). -/
def pairsEqual (b : SplitBank) : Bool :=
  let n := b.slices * (b.slices + 1) / 2
  (List.range n).all (fun k => tget 0 b.counts k == tget 0 b.counts 0)

/-- The drained value of one accumulator, with its addend Y. -/
def drainAt (f : FpFmt) (k : Bank) (m e : Nat) (minus : Bool) (addend : Option FV) : Counted :=
  let x := tget 0 k.acc (128 * m + e)
  match k.split with
  | some b =>
    let ex := tget 0 b.rowExp m + tget 0 b.edgeExp e - 8 * ((b.slices : Int) - 1)
    match addend with
    | none => counted (drainSplit f x ex)
    | some y => counted (addSigned f minus y (accValue x ex))
  | none =>
    let r := drainInt f x k.prod
    match addend with
    | none => counted r
    | some y =>
      let sum := addSigned f minus y (fpDecode f r.val)
      (sum.val, evAdd (evOf r) (evOf sum))

/-- The addend of an element, read in its own format; beyond its extents it is +0 (R154). -/
def addendAt (s : Block) (q : Nat) (t : Option Tensor) (c : List Nat) : Except Stop (Option FV) :=
  match t with
  | none => .ok none
  | some t => if inside t.d c then do return some (addendValue (if t.d.fmt = 0x0F then fp64 else fp32) (← rawElem s q t.d c))
    else .ok (some (.fin false 0 0))

/-! ### One element -/

/-- What one element leaves for the outputs: its place, P, its values for outputs, FORMAT, REDUCE and keep,
and what it counts. -/
structure ElemOut where
  m    : Nat
  e    : Nat
  idx  : Nat
  pred : Bool
  outs : List Nat
  fmt  : Nat
  red  : Nat
  keep : Option Nat
  ev   : Ev
deriving DecidableEq, Repr

/-- Coefficient j of segment i of the user PWP table. -/
def userCoef (s : Block) (q : Nat) (prog : Prog) (i j : Nat) : FV :=
  let n := progBytes prog
  fpGlaze (progFmt prog) (rackLe s q (ownAddr s (progPwpTable prog + n * (4 * i + j))) n)

/-- Entry of the user stencil table (R156). -/
def userDeriv (s : Block) (q : Nat) (prog : Prog) (c : Nat) : Nat :=
  rackLe s q (ownAddr s (progStencilTable prog + 4 * c)) 4

/-- An input tensor's value at a coordinate in the program's precision; beyond its extents +0 (R154). -/
def inputAt (s : Block) (q : Nat) (f : FpFmt) (t : Option Tensor) (c : List Nat) : Except Stop Counted :=
  match t with
  | none => .ok (0, ev0)
  | some t => if inside t.d c then decodeElem s q f t c else .ok (0, ev0)

/-- Convert an FP32 or FP64 encoding to the program's precision. -/
def toProg (prog : Prog) (f : FpFmt) (v : Nat) : Counted := counted (fpStore (progFmt prog) (fpGlaze f v))

/-- The mask bit of an index; beyond the mask it is 0. -/
def maskBit (s : Block) (q : Nat) (t : Option Tensor) (idx : Nat) : Except Stop Bool :=
  match t with
  | none => .ok false
  | some t => if idx < elemCount t.d then do return (← rawElem s q t.d (coordOf t.d.ext idx)) == 1 else .ok false

/-- Whether a program reads an input tensor at the element's own coordinate: INMASK marks it, and expansion does not take it densely
(R148, R159). -/
def readsInput (prog : Prog) (k : Nat) : Bool := progIn prog k && !(progExpand prog && k == progXin prog)

/-- The code of an element in the keep tensor; beyond its extents it is 0. -/
def keptCode (s : Block) (q : Nat) (p : Plan) (u : KeepUse) (c : List Nat) : Except Stop Nat :=
  if p.keep.isSome && inside u.d c then rawElem s q u.d c else .ok 0

/-- I0 of an element before stage 1: drained or read, with the derivative of a data-gradient operation (R129, R155); with
ẑ for a narrow-keep user function. -/
def firstInput (s : Block) (q : Nat) (p : Plan) (u : KeepUse) (m e idx : Nat) (c : List Nat) :
    Except Stop (Counted × Option Nat) := do
  let store := p.kind = .store ∨ p.kind = .dgrad
  let dgr := formsDeriv p.kind u.mode
  let f := if p.wide then fp64 else fp32
  let r ← if store then do
      let y ← addendAt s q p.addend c
      pure (drainAt f (bankOf (tileAt s q) p.bank) m e p.minus y)
    else if readsInput p.prog 0 then inputAt s q (if dgr then fp32 else progFmt p.prog) (p.ins.getD 0 none) c
    else pure (0, ev0)
  let deliver := fun (g : FpFmt) (v : Counted) => let o := toProg p.prog g v.1; ((o.1, evAdd v.2 o.2) : Counted)
  if dgr then
    let code ← keptCode s q p u c
    if u.mode = 2 ∧ u.hdr.func = 16 then
      let z := (fpRoundFlush fp32 (n8Scaled u.hdr.tscale code)).val
      return (deliver fp32 r, some (toProg p.prog fp32 z).1)
    else
      match derivOf p u code (userDeriv s q p.prog) with
      | none => .error ⟨.keepMismatch, idx⟩
      | some d =>
        let r1 := derivMul r.1 d
        return (deliver fp32 (r1.1, evAdd r.2 r1.2), none)
  else return (if store then deliver f r else r, none)

/-- The uniform draw of an element (R162). -/
def randOf (s : Block) (p : Plan) (idx : Nat) : Nat :=
  let d := draw (odNat s 0x9000 2) (stepCounter s) p.tid 1 idx
  if bit p.prog 0 then (fpRound fp64 (.fin false (bits d 0 53) (-53))).val
  else (fpRound fp32 (.fin false (bits d 0 24) (-24))).val

/-- A stop within an element carries its index, a refused line its address (R195, R293). -/
def atElem {α : Type} (idx : Nat) (r : Except Stop α) : Except Stop α :=
  match r with
  | .error p => .error (if p.detail = 0 then ⟨p.st, idx⟩ else p)
  | ok => ok

/-- An element at which the read of a built-in PWP table meets an uncorrectable error stops the operation (R165). -/
def tableStop (pwpErr : Option Nat) (idx : Nat) : Except Stop Unit :=
  if pwpErr = some idx then .error ⟨.glazeTable, idx⟩ else .ok ()

/-- Run one element; `dense` counts the dense elements an expansion has taken. -/
def runElem (s : Block) (q : Nat) (p : Plan) (u : KeepUse) (pwpErr : Option Nat) (dense : Nat) (x : RowLane) :
    Except Stop (ElemOut × Nat) := do
  let c := planCoord p.org p.dimm p.dime x.1 x.2
  let idx := linIndex p.ixd c
  atElem idx (do
    let f := progFmt p.prog
    let xin := progXin p.prog
    let ex := progExpand p.prog
    tableStop pwpErr idx
    let (i0, zh) ← firstInput s q p u x.1 x.2 idx c
    let rest ← [1, 2, 3].mapM (fun k =>
      if readsInput p.prog k then inputAt s q f (p.ins.getD k none) c else pure (0, ev0))
    let ins0 := i0.1 :: rest.map (·.1)
    let ins1 := match zh with
      | some z => ins0.set 3 z
      | none => ins0
    let mb ← maskBit s q (if ex then p.mask else none) idx
    need (!(ex && mb && decide (p.len ≤ dense))) .maskCount
    let b0 : Bundle := ⟨ins1, [0, 0, 0, 0], if ex then mb else true, idx, randOf s p idx, ev0⟩
    let fill := source p.prog b0 0 (progFill p.prog)
    let xv : Counted ← if ex ∧ mb then
        match p.ins.getD xin none with
        | some t => if dense < elemCount t.d then decodeElem s q f t (coordOf t.d.ext dense) else pure (0, ev0)
        | none => pure (0, ev0)
      else pure (fill, ev0)
    let b1 := if ex then { b0 with ins := ins1.set xin xv.1 } else b0
    let coef := userCoef s q p.prog
    let b := runStages p.prog coef b1 8
    let fwd := p.kind = .store ∨ p.kind = .form
    let keep := if fwd ∧ u.mode ≠ 0 then some (keepCode p u (sampleZ p.prog coef b1)) else none
    let kev := match keep with
      | some k => if inside u.d c then k.2 else ev0
      | none => ev0
    let out : ElemOut :=
      { m := x.1, e := x.2, idx := idx, pred := b.pred,
        outs := (List.range 4).map (fun j => source p.prog b 11 (routeSrc p.prog j)),
        fmt := source p.prog b 10 (fmtSrc p.prog), red := source p.prog b 9 (redSrc p.prog), keep := keep.map (·.1),
        ev := evSum (b.ev :: i0.2 :: xv.2 :: kev :: rest.map (·.2)) }
    return (out, if ex && mb then dense + 1 else dense))

/-- Run the elements in order up to the first that stops: what they leave, the dense elements taken, and the stop. -/
def runElems (s : Block) (q : Nat) (p : Plan) (u : KeepUse) (pwpErr : Option Nat) :
    Nat → List RowLane → List ElemOut × Nat × Option Stop
  | dense, [] => ([], dense, none)
  | dense, x :: t =>
    match runElem s q p u pwpErr dense x with
    | .error e => ([], dense, some e)
    | .ok (o, d) =>
      let (os, d1, st) := runElems s q p u pwpErr d t
      (o :: os, d1, st)

/-! ### Block conversion (R157) -/

/-- Key of an element's block in a tensor: block coordinates by dimension. -/
def blockKey (d : Desc) (c : List Nat) : List Nat := (List.range d.ndim).map (scaleCoord d c)

/-- Group elements by key, groups in the order in which their last element comes. -/
def groupBy {α : Type} (key : α → List Nat) : List α → List (List Nat × List α)
  | [] => []
  | x :: t =>
    let gs := groupBy key t
    match gs.find? (fun g => g.1 == key x) with
    | some g => gs.map (fun h => if h.1 = g.1 then (h.1, x :: h.2) else h)
    | none => (key x, [x]) :: gs

/-- What an output writes and feeds, what it counts, and where a conversion stopped; `row` is the coordinate along XDIM of the row or
column at which SCAN or SLICE stopped. -/
structure OutWork where
  ws   : List WByte
  feed : List (Nat × Nat)
  ev   : Ev
  stop : Option Stop
  row  : Option (Nat × Nat)
deriving DecidableEq, Repr

def outWork0 : OutWork := ⟨[], [], ev0, none, none⟩

/-- Coordinate of an element result. -/
def outCoord (p : Plan) (o : ElemOut) : List Nat := planCoord p.org p.dimm p.dime o.m o.e

/-- The coordinate of a group of element results. -/
def groupCoord (p : Plan) (g : List Nat × List ElemOut) : List Nat :=
  match g.2 with
  | o :: _ => outCoord p o
  | [] => p.org

/-- Writes of elements in ascending linear index of their tensor, so that a shared byte ends with the highest (R173). -/
def inIndexOrder (d : Desc) (l : List (List Nat × List WByte)) : List WByte :=
  (l.foldl (fun (t : Tab (List WByte)) x => tset [] t (linIndex d x.1) x.2) []).flatMap (·.2)

/-- A converted block: its elements with their codes, and its scale byte. -/
structure CvtBlock where
  items : List (List Nat × Nat)
  at_   : Nat
  scale : Nat
deriving DecidableEq, Repr

/-- Convert the blocks of a CVT output in order; a non-finite element stops it at its block (R61 to R63, R157). -/
def cvtBlocks (s : Block) (p : Plan) (d : Desc) : List (List Nat × List ElemOut) → List CvtBlock × Nat × Option Stop
  | [] => ([], 0, none)
  | g :: t =>
    let xs := g.2.map (fun o => fpGlaze (progFmt p.prog) o.fmt)
    let draws := if fmtSr p.prog then
        some (g.2.map (fun o => bits (draw (odNat s 0x9000 2) (stepCounter s) p.tid 0 o.idx) 0 16))
      else none
    match quantise d.fmt (progConst p.prog 10 % 2 ^ 32) xs draws with
    | none =>
      let bad := (g.2.find? (fun o => !fvFinite (fpGlaze (progFmt p.prog) o.fmt))).map (·.idx)
      ([], 0, some ⟨.nonfinite, bad.getD 0⟩)
    | some b =>
      let (rest, sat, stop) := cvtBlocks s p d t
      (⟨(g.2.map (outCoord p)).zip b.codes, scalePos d (groupCoord p g), b.scale⟩ :: rest, b.sat + sat, stop)

/-- What a CVT output writes: codes and scale bytes; the digest takes each code with its block's scale (R424). -/
def cvtWork (s : Block) (p : Plan) (d : Desc) (gs : List (List Nat × List ElemOut)) : OutWork :=
  let (bs, sat, stop) := cvtBlocks s p d gs
  let codes := bs.flatMap (fun b => b.items.map (fun x => (x.1, wElem d x.1 x.2)))
  { outWork0 with
      ws := inIndexOrder d codes ++ bs.flatMap (fun b => wBytes b.at_ 1 b.scale)
      feed := bs.flatMap (fun b => b.items.map (fun x => (x.2 + b.scale * 2 ^ 32, linIndex d x.1)))
      ev := evCodes sat, stop := stop }

/-- The stop of SCAN or SLICE at a row or column. -/
def rowStop (d : Desc) (c : List Nat) (e : Stop) : OutWork := { outWork0 with stop := some e, row := some (d.xdim, at_ c d.xdim) }

/-- SCAN: one exponent for each coordinate along XDIM (R95). -/
def scanRows (p : Plan) (d : Desc) : List (List Nat × List ElemOut) → OutWork
  | [] => outWork0
  | g :: t =>
    let xs := g.2.map (fun o => fpDecode fp64 o.fmt)
    match g.2.find? (fun o => !fvFinite (fpDecode fp64 o.fmt)) with
    | some o => rowStop d (groupCoord p g) ⟨.nonfinite, o.idx⟩
    | none =>
      let α := scanExp (xs.foldl magMax (.fin false 0 0))
      let rest := scanRows p d t
      { rest with ws := wBytes (expPos d (groupCoord p g)) 2 (wrapInt 16 α) ++ rest.ws }

/-- Bytes between the planes that one SLICE output writes: plane 0 stands at BASE and the others follow it (log 88). -/
def planeGap (d : Desc) : Nat := elemEnd d - d.base

/-- SLICE: the slices of each row or column under its exponent (R97); the digest takes every slice with no scale (log 88). -/
def sliceRows (s : Block) (q : Nat) (p : Plan) (d : Desc) : List (List Nat × List ElemOut) → OutWork
  | [] => outWork0
  | g :: t =>
    let sl := slicesOf (fmtSet p.prog)
    let c0 := groupCoord p g
    match readExp s q (expPos d c0) with
    | .error e => rowStop d c0 e
    | .ok α =>
      match g.2.find? (fun o => !fvFinite (fpDecode fp64 o.fmt)) with
      | some o => rowStop d c0 ⟨.nonfinite, o.idx⟩
      | none =>
        match g.2.find? (fun o => (slices (fpDecode fp64 o.fmt) α sl).isNone) with
        | some o => rowStop d c0 ⟨.splitRange, o.idx⟩
        | none =>
          let rest := sliceRows s q p d t
          let items := g.2.flatMap (fun o =>
            let ds := (slices (fpDecode fp64 o.fmt) α sl).getD []
            ((List.range sl).zip ds).map (fun x => (outCoord p o, x)))
          { rest with
              ws := items.flatMap (fun x => wBytes ((elemPos d x.1).1 + x.2.1 * planeGap d) 1 x.2.2) ++ rest.ws
              feed := items.map (fun x => (x.2.2, linIndex d x.1)) ++ rest.feed }

/-- Words that a plain output writes, densely under compression (R158, R176). -/
def plainOut (p : Plan) (j : Nat) (t : Tensor) (es : List ElemOut) : OutWork :=
  let comp := progCompress p.prog
  let live := es.filter (fun o => !comp || o.pred)
  let placed := ((List.range live.length).zip live).map (fun x =>
    (if comp then coordOf t.d.ext x.1 else outCoord p x.2, decide (comp = false ∨ x.1 < elemCount t.d), x.2))
  let kept := placed.filter (fun x => x.2.1 && inside t.d x.1)
  let enc := kept.map (fun x => (x.1, encodeOut t.d.fmt t.tscale (progFmt p.prog) (x.2.2.outs.getD j 0)))
  { outWork0 with
      ws := inIndexOrder t.d (enc.map (fun x => (x.1, wElem t.d x.1 x.2.1)))
      feed := enc.map (fun x => (x.2.1, linIndex t.d x.1)), ev := evSum (enc.map (fun x => x.2.2)) }

/-- Whether a data-gradient operation in stencil keep writes by whole block rows (R131, R132). -/
def byBlockRow (p : Plan) (u : KeepUse) : Bool := (p.kind == .dgrad || p.kind == .apply) && u.mode == 1

/-- The descriptor of the first output that FORMAT converts. -/
def cvtDesc (p : Plan) : Option Desc :=
  (List.range 4).findSome? (fun j => match p.outs.getD j none with
    | some t => if routeSrc p.prog j = 12 ∧ fmtOp p.prog = 1 then some t.d else none
    | none => none)

/-- The block row of an element: its blocks' coordinate along DIMM, or its row where nothing is converted. -/
def blockRow (p : Plan) (x : RowLane) : Nat :=
  match cvtDesc p with
  | some d => at_ (blockKey d (planCoord p.org p.dimm p.dime x.1 x.2)) p.dimm
  | none => x.1

/-- The stop that an element's code brings to a data-gradient operation in stencil keep: a clip code that selects no derivative, or the
uncorrectable error of its table read (R131, R132). -/
def codeStop (s : Block) (q : Nat) (p : Plan) (u : KeepUse) (stErr : Option Nat) (x : RowLane) : Option Stop :=
  let c := planCoord p.org p.dimm p.dime x.1 x.2
  let idx := linIndex p.ixd c
  if stErr = some idx ∧ 2 ≤ p.func ∧ p.func ≤ 6 then some ⟨.stencilTable, idx⟩
  else if p.func = 1 then
    (match keptCode s q p u c with
      | .ok 3 => some ⟨.keepMismatch, idx⟩
      | _ => none)
  else none

/-- The elements that an operation runs, and the stop that awaits it after them. A data-gradient operation in stencil keep runs the
whole block rows before the first that holds a stop (R131, R132). -/
def runnable (s : Block) (q : Nat) (p : Plan) (u : KeepUse) (stErr : Option Nat) : List RowLane × Option Stop :=
  let xs := planElems p
  if !byBlockRow p u then (xs, none)
  else
    let bad := xs.filterMap (fun x => (codeStop s q p u stErr x).map (fun e => (blockRow p x, e)))
    match bad with
    | [] => (xs, none)
    | b :: t =>
      let least := t.foldl (fun (a : Nat × Stop) (x : Nat × Stop) => if x.1 < a.1 then x else a) b
      (xs.filter (fun x => decide (blockRow p x < least.1)), some least.2)

/-- Blocks whose every element of the operation has run. A conversion that covers only part of a block takes its largest magnitude over
the elements it covers, and writes the block's scale byte from them (log 89). -/
def fullGroups (p : Plan) (key : List Nat → List Nat) (d : Desc) (es : List ElemOut) : List (List Nat × List ElemOut) :=
  let all := (planElems p).filter (fun x => inside d (planCoord p.org p.dimm p.dime x.1 x.2))
  let gs := groupBy (fun o => key (outCoord p o)) (es.filter (fun o => inside d (outCoord p o)))
  gs.filter (fun g =>
    g.2.length == (all.filter (fun x => key (planCoord p.org p.dimm p.dime x.1 x.2) == g.1)).length)

/-- The work of one output from the elements that ran. -/
def outputWork (s : Block) (q : Nat) (p : Plan) (j : Nat) (es : List ElemOut) : OutWork :=
  match p.outs.getD j none with
  | none => outWork0
  | some t =>
    if routeSrc p.prog j ≠ 12 then plainOut p j t es
    else if fmtOp p.prog = 1 then cvtWork s p t.d (fullGroups p (blockKey t.d) t.d es)
    else
      let gs := fullGroups p (fun c => [at_ c t.d.xdim]) t.d es
      if fmtOp p.prog = 2 then scanRows p t.d gs else sliceRows s q p t.d gs

/-- Elements of which an operation still writes other outputs, keep and mask when FORMAT has stopped: those before the element of a
conversion, or of the rows before the one at which SCAN or SLICE stopped (R62, R94, R97). -/
def beforeStopped (p : Plan) (w : OutWork) (e : Stop) (es : List ElemOut) : List ElemOut :=
  match w.row with
  | some (k, r) => es.filter (fun o => decide (at_ (outCoord p o) k < r))
  | none => es.takeWhile (fun o => o.idx != e.detail)

/-! ### Reductions (R160, R161) -/

/-- Precision in which a reduction adds. -/
def redFmt (p : Prog) : FpFmt := if bit p 0 ∨ progWide p then fp64 else fp32

/-- Identity of a reduction. -/
def redIdent (f : FpFmt) (op : Nat) : Nat := if op = 3 then fpInf f true else if op = 4 then fpInf f false else 0

/-- Combine two values of a reduction. -/
def redCombine (f : FpFmt) (op a b : Nat) : Counted :=
  if op = 3 ∨ op = 5 then (fpMaxMin f true a b, ev0)
  else if op = 4 then (fpMaxMin f false a b, ev0)
  else
    let x := fpGlaze f a
    let y := fpGlaze f b
    counted (fpResult f [x, y] (fvAdd x y))

/-- One step of SUM, SSQ, MAX, MIN or ABSMAX along ROWS. -/
def redStep (f : FpFmt) (op : Nat) (acc : Counted) (x : Nat) : Counted :=
  let r := if op = 2 then
      let a := fpGlaze f x
      let c := fpGlaze f acc.1
      counted (fpResult f [a, c] (fvAdd (fvMul a a) c))
    else redCombine f op acc.1 x
  (r.1, evAdd acc.2 r.2)

/-- Seven levels of adjacent pairs. -/
def redTree (f : FpFmt) (op : Nat) : Nat → List Counted → List Counted
  | 0, l => l
  | n + 1, l => redTree f op n ((List.range (l.length / 2)).map (fun i =>
      let a := l.getD (2 * i) (0, ev0)
      let b := l.getD (2 * i + 1) (0, ev0)
      let r := redCombine f op a.1 b.1
      (r.1, evSum [a.2, b.2, r.2])))

/-- Value of an element as the reduction takes it: in the precision of the additions; ABSMAX takes magnitudes; none for
the identity. -/
def redValue (p : Plan) (es : List ElemOut) (m e : Nat) : Option Nat :=
  match es.find? (fun o => o.m == m && o.e == e) with
  | none => none
  | some o =>
    if redMasked p.prog && !o.pred then none
    else
      let f := redFmt p.prog
      let v := fpGlaze (progFmt p.prog) o.red
      some (fpStore f (if redOp p.prog = 5 then fvAbs v else v)).val

/-- A value as a leaf of the tree along LANES: SSQ squares it. -/
def redLeaf (f : FpFmt) (op v : Nat) : Counted :=
  let x := fpGlaze f v
  if op = 2 then counted (fpResult f [x] (fvMul x x)) else (v, ev0)

/-- Results of the reduction, with what its additions count (R160). -/
def redResults (p : Plan) (es : List ElemOut) : List Counted :=
  let f := redFmt p.prog
  let op := redOp p.prog
  let out := fun (v : Counted) => let r := toProg p.prog f v.1; ((r.1, evAdd v.2 r.2) : Counted)
  if redLanes p.prog then
    (List.range p.rows).map (fun m =>
      let leaves := (List.range 128).map (fun e => match redValue p es m e with
        | none => (redIdent f op, ev0)
        | some v => redLeaf f op v)
      out ((redTree f op 7 leaves).headD (0, ev0)))
  else
    (List.range 128).map (fun e =>
      out ((List.range p.rows).foldl (fun a m => match redValue p es m e with
        | none => a
        | some v => redStep f op a v) (redIdent f op, ev0)))

/-- Writes of the reduction, with what it counts; ACC adds into the destination with one further rounding. -/
def redWrites (s : Block) (q : Nat) (p : Plan) (es : List ElemOut) : Except Stop (List WByte × Ev) := do
  if redOp p.prog = 0 then return ([], ev0)
  let n := progBytes p.prog
  let f := progFmt p.prog
  let rs := redResults p es
  let parts ← ((List.range rs.length).zip rs).mapM (fun x => do
    let a := p.raddr + n * x.1
    if redAcc p.prog then
      let old ← readLe s q a n
      let y := fpGlaze f old
      let z := fpGlaze f x.2.1
      let r := fpResult f [y, z] (fvAdd y z)
      return (wBytes a n r.val, evAdd x.2.2 (evOf r))
    else return (wBytes a n x.2.1, x.2.2))
  return (parts.flatMap (·.1), evSum (parts.map (·.2)))

/-! ### The whole operation -/

/-- Feed words to a tile's digest while it is on (R176, R424). -/
def feedSwatch (s : Block) (t : Nat) (ws : List (Nat × Nat)) : Block :=
  let x := tileAt s t
  if !x.swatch.on then s
  else
    let sum := ws.foldl (fun a w => (a + swatchTerm w.1 w.2) % swatchP) x.swatch.sum
    tilePut s t { x with swatch := { x.swatch with sum := sum, elems := x.swatch.elems + ws.length } }

/-- Writes of the keep tensor (R126, R127). -/
def keepWrites (p : Plan) (u : KeepUse) (es : List ElemOut) : List WByte :=
  if p.keep.isNone ∨ (p.kind ≠ .store ∧ p.kind ≠ .form) then []
  else wBytes u.d.base 32 (keepHdrBits u.hdr) ++ inIndexOrder u.d (es.filterMap (fun o =>
    let c := outCoord p o
    match o.keep with
    | some v => if inside u.d c then some (c, wElem u.d c v) else none
    | none => none))

/-- Writes of the compression mask and, at the operation's end, the count (R158). -/
def maskWrites (p : Plan) (es : List ElemOut) (ended : Bool) : List WByte :=
  match p.mask with
  | none => []
  | some t =>
    if !progCompress p.prog then []
    else
      es.flatMap (fun o => if o.idx < elemCount t.d then wElem t.d (coordOf t.d.ext o.idx) (if o.pred then 1 else 0) else []) ++
      (if ended then wBytes p.caddr 8 (es.filter (·.pred)).length else [])

/-- What an operation leaves: its writes by cache hint, what it feeds and counts, its Istus low blocks, its stop and its warning. -/
structure Effects where
  ws   : List (Nat × List WByte)
  feed : List (Nat × Nat)
  ev   : Ev
  low  : Nat
  stop : Option Stop
  warn : Status
deriving DecidableEq, Repr

/-- Hint of a tensor's accesses. -/
def hintOf (t : Option Tensor) : Nat := match t with | some t => t.hint | none => 0

/-- Istus low blocks among the blocks of the inputs that the elements read (R54). -/
def chainLow (s : Block) (q : Nat) (p : Plan) (n dense : Nat) : Nat :=
  let cs := ((planElems p).take n).map (fun x => planCoord p.org p.dimm p.dime x.1 x.2)
  ((List.range 4).map (fun k => match p.ins.getD k none with
    | none => 0
    | some t =>
      if readsInput p.prog k then lowBlocks s q t (cs.filter (inside t.d))
      else if progExpand p.prog && k == progXin p.prog then lowBlocks s q t ((List.range (min dense (elemCount t.d))).map (coordOf t.d.ext))
      else 0)).foldl (· + ·) 0

/-- Run an operation: its elements, its outputs, its reduction. -/
def effects (s : Block) (q : Nat) (p : Plan) (u : KeepUse) (pwpErr stErr : Option Nat) : Effects :=
  let (xs, later) := runnable s q p u stErr
  let (es, dense, st) := runElems s q p u pwpErr 0 xs
  let st0 := if st.isSome then st else later
  let works0 := (List.range 4).map (fun j => outputWork s q p j es)
  let bad := works0.findSome? (fun w => w.stop.map (fun e => (w, e)))
  let st1 := match bad with
    | some b => some b.2
    | none => st0
  let es1 := match bad with
    | some b => beforeStopped p b.1 b.2 es
    | none => es
  let works := (List.range 4).map (fun j =>
    if routeSrc p.prog j = 12 then works0.getD j outWork0 else outputWork s q p j es1)
  let red := if st1.isSome then .ok ([], ev0) else redWrites s q p es
  let (rw, rev, st2) := match red with
    | .ok r => (r.1, r.2, st1)
    | .error e => ([], ev0, some e)
  { ws := (p.outs.map hintOf).zip (works.map (·.ws)) ++ [(hintOf p.keep, keepWrites p u es1),
      (hintOf p.mask, maskWrites p es1 st2.isNone), (0, rw)]
    feed := ((List.range 4).zip works).flatMap (fun x => if routeSwatch p.prog x.1 then x.2.feed else [])
    ev := evSum (rev :: works.map (·.ev) ++ es.map (·.ev)), low := chainLow s q p es.length dense, stop := st2
    warn := if st2.isNone ∧ progExpand p.prog ∧ dense < p.len then Status.maskCount else .ok }

/-- What supplies inputs to a command, and the element count of its index tensor (R148). -/
def planUse (p : Plan) (u : KeepUse) : ProgUse :=
  let named := (List.range 4).filter (fun k => (p.ins.getD k none).isSome)
  let bank := if p.kind = .store ∨ p.kind = .dgrad then [0] else []
  let zhat := if (p.kind = .dgrad ∨ p.kind = .apply) ∧ u.mode = 2 ∧ p.func = 16 then [3] else []
  { supplied := bank ++ zhat ++ named, tid := p.tid, forward := p.kind = .store ∨ p.kind = .form, keepMode := p.kmode,
    func := if p.kind = .glaze then none else some p.func, elems := elemCount p.ixd }

/-- The reduction destination overlaps no input or output of the operation: its tensors, addend, mask and keep codes (R148). -/
def redApart (p : Plan) : Bool :=
  redOp p.prog == 0 || (p.ins ++ p.outs ++ [p.addend, p.mask, p.keep]).all (fun t => match t with
    | some t => !meets (descSpan t.d) (spanAt p.raddr (redBytes p))
    | none => true)

/-- User tables lie in the tile's window and can be read (R144, R165). -/
def tablesOk (s : Block) (q : Nat) (p : Plan) : Except Stop Unit := do
  if progPwpTable p.prog ≠ 0 then
    let n := 1024 * progBytes p.prog
    need (inWindow q (progPwpTable p.prog) n) .glazeProgram
    need (stageOp p.prog 5 != 1 || (accessStatus s none .read (progPwpTable p.prog) n).isNone) .glazeTable
  if progStencilTable p.prog ≠ 0 then
    need (inWindow q (progStencilTable p.prog) 1040) .glazeProgram
    need (accessStatus s none .read (progStencilTable p.prog) 1040).isNone .glazeTable
    need (decide (p.func ≠ 16) || blkNat (rackLe s q (ownAddr s (progStencilTable p.prog)) 1040) 1025 15 == 0) .malformed

/-- The exponents that a SLICE output reads lie in the range of R96: else the store is refused and applies nothing. -/
def sliceExpsOk (s : Block) (q : Nat) (p : Plan) : Except Stop Unit :=
  need (fmtOp p.prog != 3 || (List.range 4).all (fun j => match p.outs.getD j none with
    | some t => routeSrc p.prog j != 12 ||
        (((planElems p).map (fun x => planCoord p.org p.dimm p.dime x.1 x.2)).filter (inside t.d)).all (fun c =>
          splitExpOk (sx 16 (rackLe s q (expPos t.d c) 2)))
    | none => true)) .splitRange

/-- A store's bank must be drainable: equal pair counts (R107). -/
def bankOk (s : Block) (q : Nat) (p : Plan) : Except Stop Unit :=
  if p.kind = .store ∨ p.kind = .dgrad then
    match (bankOf (tileAt s q) p.bank).split with
    | some b => need (pairsEqual b) .splitIncomplete
    | none => .ok ()
  else .ok ()

/-- Groups of pieces of memory by cache hint. -/
abbrev Pieces := List (Nat × List (Nat × Nat))

/-- Pieces of a tensor at coordinates: elements, scale bytes, exponents. -/
def tensorPiecesAt (d : Desc) (cs : List (List Nat)) : List (Nat × Nat) :=
  (cs.filter (inside d)).flatMap (fun c => elemSpan d c ::
    (if d.kind = 0 ∧ blockScaled d.fmt then [(scalePos d c, 1)] else []) ++ (if d.kind = 4 then [(expPos d c, 2)] else []))

/-- Coordinates at which an operation reads its input `k`: those of its elements, or under expansion the dense ones (R159). -/
def inputCoords (p : Plan) (k : Nat) (t : Tensor) : List (List Nat) :=
  if readsInput p.prog k then (planElems p).map (fun x => planCoord p.org p.dimm p.dime x.1 x.2)
  else if progExpand p.prog && k == progXin p.prog then
    (List.range (min (min p.len (elemCount t.d)) (planElems p).length)).map (coordOf t.d.ext)
  else []

/-- The pieces of memory a chain operation reads and writes, element by element. -/
def planPieces (p : Plan) (u : KeepUse) : Pieces × Pieces :=
  let cs := (planElems p).map (fun x => planCoord p.org p.dimm p.dime x.1 x.2)
  let of_ := fun (t : Option Tensor) => match t with
    | none => (0, [])
    | some t => (t.hint, tensorPiecesAt t.d cs)
  let fwd := p.kind == .store || p.kind == .form
  let ins := ((List.range 4).map (fun k => match p.ins.getD k none with
    | none => (0, [])
    | some t => (t.hint, tensorPiecesAt t.d (inputCoords p k t))))
  let exps := (p.outs.filterMap id).map (fun t => (t.hint, if t.d.kind = 4 then (cs.filter (inside t.d)).map (fun c => (expPos t.d c, 2)) else []))
  let redp := if redOp p.prog = 0 then [] else [(0, [(p.raddr, redBytes p)])]
  let keep := if p.keep.isSome then [(hintOf p.keep, (u.d.base, 32) :: tensorPiecesAt u.d cs)] else []
  let cnt := if progCompress p.prog then [(0, [(p.caddr, 8)])] else []
  let cells := fun (t : Option Tensor) => match t with
    | none => (0, [])
    | some t => (t.hint, if fmtOp p.prog = 3 ∧ t.d.kind = 4 then
        (List.range (slicesOf (fmtSet p.prog))).flatMap (fun k =>
          (cs.filter (inside t.d)).map (fun c => ((elemPos t.d c).1 + k * planeGap t.d, 1)))
      else if progCompress p.prog then
        tensorPiecesAt t.d ((List.range (min (elemCount t.d) cs.length)).map (coordOf t.d.ext))
      else tensorPiecesAt t.d cs)
  (ins ++ [of_ p.addend] ++ (if fwd then [] else keep) ++ (if progCompress p.prog then [] else [of_ p.mask]) ++
      (if fmtOp p.prog = 3 then exps else []) ++ (if redAcc p.prog then redp else []),
   p.outs.map cells ++ (if fwd then keep else []) ++ (if progCompress p.prog then [of_ p.mask] else []) ++ cnt ++ redp)

/-- Bytes of other modules that an operation writes in part, since they hold several elements of a packed tensor (R168). -/
def sharedBytes (s : Block) (p : Plan) : List (Nat × Nat) :=
  ((planElems p).map (fun x => planCoord p.org p.dimm p.dime x.1 x.2)).flatMap (fun c =>
    (p.outs ++ [p.keep, p.mask]).filterMap (fun t => match t with
      | some t => if packed t.d && inside t.d c && !isOwn s (elemPos t.d c).1 then some ((elemPos t.d c).1, 1) else none
      | none => none))

/-- Whether the operation reads a built-in PWP table, of which function; and a built-in stencil table. -/
def usesPwp (p : Plan) (u : KeepUse) : Option Nat :=
  if 2 ≤ stageOp p.prog 5 then some (stageOp p.prog 5)
  else if (p.kind = .dgrad ∨ p.kind = .apply) ∧ u.mode = 2 ∧ 2 ≤ p.func ∧ p.func ≤ 6 then some p.func
  else none
def usesStencil (p : Plan) (u : KeepUse) : Option Nat :=
  if (p.kind = .dgrad ∨ p.kind = .apply) ∧ u.mode = 1 ∧ 2 ≤ p.func ∧ p.func ≤ 6 then some p.func else none

/-- The checks of a chain operation that come after its fields. -/
def planChecks (s : Block) (q : Nat) (p : Plan) : Except Stop KeepUse := do
  bankOk s q p
  tablesOk s q p
  let u ← keepUse s q p
  need (progValid p.prog (planUse p u) && redApart p) .glazeProgram
  sliceExpsOk s q p
  return u

/-- Wait for the pieces of an operation, group by group. -/
def piecesWait (s : Block) (q : Nat) (c : CmdSlot) (rd wr : Pieces) : Option Began :=
  match rd.findSome? (fun g => operandWait s q g.1 c g.2 []) with
  | some b => some b
  | none => operandWait s q 0 c [] (wr.flatMap (·.2))

/-- Touch the cache for the pieces of an operation. -/
def touchAll (s : Block) (g : Pieces) : Block := g.foldl (fun s x => touchPieces s x.1 x.2) s

/-- Apply writes by hint, in order, up to the first that is refused. -/
def applyAll (s : Block) (q idx : Nat) (ws : List (Nat × List WByte)) : Block × Option Stop :=
  ws.foldl (fun (acc : Block × Option Stop) g => match acc.2 with
    | some _ => acc
    | none => applyWrites acc.1 q idx g.1 g.2) (s, none)

/-- Errors that the reads of built-in tables meet in one operation: the element at which a PWP table and a stencil table fails, and the
reads of a stencil table that were corrected (R125, R132, R165). -/
structure TableErr where
  pwp       : Option Nat
  stencil   : Option Nat
  corrected : Nat
deriving DecidableEq, Repr

/-- The table whose read has stopped an operation is being reloaded (R132, R165). -/
def markReload (s : Block) (q : Nat) (e : Stop) (pwp st : Option Nat) : Block :=
  let x := tileAt s q
  match e.st, pwp, st with
  | .glazeTable, some f, _ => tilePut s q { x with pwpReload := BitVec.ofNat 32 (setBit x.pwpReload.toNat f true) }
  | .stencilTable, _, some f => tilePut s q { x with stReload := BitVec.ofNat 32 (setBit x.stReload.toNat f true) }
  | _, _, _ => s

/-- An operation whose operands are there runs: its reads touch the cache, its writes are applied, its events are counted. -/
def runChain (s : Block) (q : Nat) (c : CmdSlot) (p : Plan) (u : KeepUse) (rd : Pieces) (te : TableErr) : Began :=
  let pwp := usesPwp p u
  let st := usesStencil p u
  let fx := effects s q p u (if pwp.isSome then te.pwp else none) (if st.isSome then te.stencil else none)
  match applyAll (touchAll s rd) q c.idx fx.ws with
  | (s2, some e) => .stop (countEv s2 q fx.ev) e
  | (s2, none) =>
    let s3 := tallyAdd (countEv (feedSwatch s2 q fx.feed) q fx.ev) (unitTile q) .istusLow fx.low
    let s3 := if st.isSome then tallyAdd s3 (unitTile q) .tableCorrected te.corrected else s3
    match fx.stop with
    | some e => .stop (markReload s3 q e pwp st) e
    | none => .go s3 fx.warn false

/-- The keep header that an operation reads before its checks. -/
def headerPieces (p : Plan) : List (Nat × Nat) :=
  match p.keep with
  | some t => if p.kind = .dgrad ∨ p.kind = .apply then [(t.d.base, 32)] else []
  | none => []

/-- A chain operation begins. An operation that reads a table while it is being reloaded waits (R132, R165). -/
def beginChain (q : Nat) (kind : ChainKind) (te : TableErr) (s : Block) (c : CmdSlot) : Began :=
  if (kind == .store || kind == .dgrad) && !bankFilled s q c then .wait s
  else
    match planOf s q kind c.word with
    | .error e => .stop s e
    | .ok p =>
      match operandWait s q (hintOf p.keep) c (headerPieces p) [] with
      | some b => b
      | none =>
        match planChecks s q p with
        | .error e => .stop s e
        | .ok u =>
          let x := tileAt s q
          let (rd, wr) := planPieces p u
          if (usesPwp p u).any (fun f => bit x.pwpReload.toNat f) || (usesStencil p u).any (fun f => bit x.stReload.toNat f) then .wait s
          else
            match piecesWait s q c (rd ++ [(0, sharedBytes s p)]) wr with
            | some b => b
            | none => runChain s q c p u rd te

/-! ### The commands -/

/-- Variants of STORE and STENCIL by their bits. -/
def isStore (w : BitVec 128) : Bool := cmdOpcode w == 0x19 && !bit w.toNat 9 && !bit w.toNat 13
def isStoreRaw (w : BitVec 128) : Bool := cmdOpcode w == 0x19 && bit w.toNat 9
def isStoreDgrad (w : BitVec 128) : Bool := cmdOpcode w == 0x19 && !bit w.toNat 9 && bit w.toNat 13
def isStencil (apply : Bool) (w : BitVec 128) : Bool := cmdOpcode w == 0x1A && bit w.toNat 8 == apply

/-- The element at which a table read fails, as the command names it. -/
def errAt (e : Option (BitVec 48)) : Option Nat := e.map (·.toNat)

/-- What a data-gradient command meets in the built-in tables, as the chain counts elements. -/
def readsOf (r : TableReads) : TableErr := ⟨errAt r.pwpError, errAt r.stencilError, r.corrected.toNat⟩

/-- GLAZE (R141). -/
def execGlaze (t : TileId) (pwpError : Option (BitVec 48)) (s : State) : Host.Outcome State Fault Refusal := onBlock s fun s =>
  .next (startQueued s t.val (fun w => cmdOpcode w == 0x18) (beginChain t.val .glaze ⟨errAt pwpError, none, 0⟩))

/-- STORE, a forward store (R88, R105, R106, R121, R122). -/
def execStore (t : TileId) (pwpError : Option (BitVec 48)) (s : State) : Host.Outcome State Fault Refusal := onBlock s fun s =>
  .next (startQueued s t.val isStore (beginChain t.val .store ⟨errAt pwpError, none, 0⟩))

/-- STORE with DGRAD = 1 (R129). Its built-in table is the stencil table in stencil keep and the f′ polynomial in narrow
keep. -/
def execStoreDgrad (t : TileId) (reads : TableReads) (s : State) : Host.Outcome State Fault Refusal := onBlock s fun s =>
  .next (startQueued s t.val isStoreDgrad (beginChain t.val .dgrad (readsOf reads)))

/-- STENCIL FORM (R201). -/
def execStencilForm (t : TileId) (pwpError : Option (BitVec 48)) (s : State) : Host.Outcome State Fault Refusal := onBlock s fun s =>
  .next (startQueued s t.val (isStencil false) (beginChain t.val .form ⟨errAt pwpError, none, 0⟩))

/-- STENCIL APPLY (R201). -/
def execStencilApply (t : TileId) (reads : TableReads) (s : State) : Host.Outcome State Fault Refusal := onBlock s fun s =>
  .next (startQueued s t.val (isStencil true) (beginChain t.val .apply (readsOf reads)))

/-- A raw slot: X96 content and COUNT (R85, R107). -/
def rawSlot (k : Bank) (m e : Nat) : Nat :=
  let count := match k.split with
    | some b => (List.range (b.slices * (b.slices + 1) / 2)).foldl (fun a p => min a (tget 0 b.counts p)) (2 ^ 21)
    | none => k.count
  wrapInt 96 (tget 0 k.acc (128 * m + e)) + (count % 2 ^ 21) * 2 ^ 96

/-- The checks of a raw store's block and command (R15, R85, R197, R201): it runs no program, reduces nothing and counts nothing. The
tensors that its references name are checked as those of any command (R172, R198). -/
def rawStoreCheck (s : Block) (q : Nat) (w : BitVec 128) : Except Stop Nat := do
  let v ← readBlock s q w
  need (!blockReserved v (keepField w) (bit w.toNat 13) && blkNat v 0 8 == 0 && blkNat v 24 8 == 0 && blkNat v 32 8 == 0 &&
    blkTref v 80 == 0) .malformed
  let _ ← (List.range 11).mapM (fun k => trefRead s q (blkTref v (80 + 16 * k)) .natural false)
  let rows := bits (blkNat v 8 8) 6 8 + 1
  let width := bits (blkNat v 8 8) 14 7 + 1
  need (blkNat v 16 8 % 16 == 0 && seqMem s q (blkNat v 16 8) (16 * (128 * (rows - 1) + width))) .badAddress
  return v

/-- A raw store begins (R85, R200, R201). -/
def beginStoreRaw (q : Nat) (s : Block) (c : CmdSlot) : Began :=
  if !bankFilled s q c then .wait s
  else
    match rawStoreCheck s q c.word with
    | .error e => .stop s e
    | .ok v =>
      let rows := bits (blkNat v 8 8) 6 8 + 1
      let width := bits (blkNat v 8 8) 14 7 + 1
      let base := blkNat v 16 8
      let k := bankOf (tileAt s q) (bit c.word.toNat 8)
      let cells := (List.range rows).flatMap (fun m => (List.range width).map (fun e => (m, e)))
      match operandWait s q 0 c [] (cells.map (fun x => (slotAddr base x.1 x.2, 16))) with
      | some b => b
      | none =>
        match applyWrites s q c.idx 0 (cells.flatMap (fun x => wBytes (slotAddr base x.1 x.2) 16 (rawSlot k x.1 x.2))) with
        | (s1, some e) => .stop s1 e
        | (s1, none) => .go s1 .ok false

/-- STORE with RAW = 1 (R85). -/
def execStoreRaw (t : TileId) (s : State) : Host.Outcome State Fault Refusal := onBlock s fun s =>
  .next (startQueued s t.val isStoreRaw (beginStoreRaw t.val))

/-- STENCIL_TABLE_RELOAD_DONE (R132): the table is usable again, and the reload is counted. -/
def execStencilTableReloadDone (t : TileId) (func : BitVec 5) (s : State) : Host.Outcome State Fault Refusal := onBlock s fun s =>
  let x := tileAt s t
  .next (if bit x.stReload.toNat func.toNat then
      odBump (tilePut s t { x with stReload := BitVec.ofNat 32 (setBit x.stReload.toNat func.toNat false) }) 0x4310 4 1
    else s)

/-- GLAZE_TABLE_RELOAD_DONE (R165, R166). -/
def execGlazeTableReloadDone (t : TileId) (func : BitVec 5) (s : State) : Host.Outcome State Fault Refusal := onBlock s fun s =>
  let x := tileAt s t
  .next (if bit x.pwpReload.toNat func.toNat then
      odBump (tilePut s t { x with pwpReload := BitVec.ofNat 32 (setBit x.pwpReload.toNat func.toNat false) }) 0x4320 1 1
    else s)

end Sys2Proof.Machine
end

