-- ==== Sys2Proof/Machine/Mitre.lean ====
section
/-! DEFINITION. Transfers through the Mitre path: COPY with staging (R177, R178, R188, R189), MOVE (R202), GATHER (R179 to
R182) and SCATTER (R183 to R185). -/

namespace Sys2Proof.Machine

open Sys2Proof

/-! ### Shapes and sizes -/

/-- The same FMT, KIND, NDIM and extents, but along `skip` (R177, R179). -/
def sameShape (a b : Desc) (skip : Option Nat) : Bool :=
  a.fmt == b.fmt && a.kind == b.kind && a.ndim == b.ndim &&
    (List.range a.ndim).all (fun k => skip == some k || extOf a k == extOf b k)

/-- Bytes of one run of dimension 0. -/
def runBytes (d : Desc) : Nat := (extOf d 0 * elemBits d + 7) / 8

/-- Bytes of the source data: elements, and scales or exponents (R188). -/
def dataBytes (d : Desc) : Nat :=
  runBytes d * (elemCount d / extOf d 0) +
    (if d.kind = 4 then 2 * extOf d d.xdim else if hasScale d then scaleCount d else 0)

/-- The coordinates of a tensor in ascending linear index. -/
def allCoords (d : Desc) : List (List Nat) := (List.range (elemCount d)).map (coordOf d.ext)

/-- A coordinate is the first of its scale block, or names an exponent: the first along every dimension but XDIM, and but `skip`,
along which an indexed transfer writes each slice's own. -/
def leadsBlock (d : Desc) (skip : Option Nat) (c : List Nat) : Bool :=
  if d.kind = 4 then (List.range d.ndim).all (fun k => k == d.xdim || skip == some k || at_ c k == 0)
  else at_ c d.rdim % blockLen d.fmt == 0 && (!d.sq || at_ c d.sqdim % blockLen d.fmt == 0)

/-- A copy keeps dimension 0 dense on both sides, or tiles both alike: the fast path (R178). -/
def fastPath (a b : Desc) : Bool :=
  if a.tile = 0 ∧ b.tile = 0 then
    (packed a || strideOf a 0 == elemBytes a) && (packed b || strideOf b 0 == elemBytes b)
  else a.tile != 0 && a.tile == b.tile && a.tr == b.tr && a.tc == b.tc

/-! ### Elements -/

/-- Bytes of an element's scale or exponent: its address and length. -/
def sideSpan (d : Desc) (c : List Nat) : Nat × Nat := if d.kind = 4 then (expPos d c, 2) else (scalePos d c, 1)

/-- Code of a scaled element as a transfer writes it, and how many codes it clamped: the most negative code becomes the least of
the range (R46), and a code of an Istus block with EX = 0 is halved, for the block is written with EX = 1 (R55, log 24). -/
def movedCode (s : Block) (q : Nat) (d : Desc) (c : List Nat) : Except Stop (Nat × Nat) := do
  let raw ← rawElem s q d c
  if !hasScale d then return (raw, 0)
  else
    let r := intCode d.fmt raw
    let low ← if d.kind = 0 ∧ isIstus d.fmt then do
        let x ← readLe s q (scalePos d c) 1
        need (x != 255) .nonfinite
        pure (x == 0)
      else pure false
    let z := if low then rneInt r.1 1 else r.1
    return ((z % (2 ^ elemBits d : Nat)).toNat, r.2.toNat)

/-- Scale or exponent as a transfer writes it: never EX = 0 (R55). -/
def movedSide (s : Block) (q : Nat) (a b : Desc) (cs cd : List Nat) : Except Stop (List WByte) := do
  let p := sideSpan a cs
  let x ← readLe s q p.1 p.2
  return wBytes (sideSpan b cd).1 p.2 (if a.kind = 0 ∧ isIstus a.fmt ∧ x = 0 then 1 else x)

/-- Read source element `cs` and answer the writes that put it at `cd` of the destination, its scale or exponent with the first
element of the destination's block (log 24), and how many codes were clamped. -/
def moveElem (s : Block) (q : Nat) (a b : Desc) (skip : Option Nat) (cs cd : List Nat) : Except Stop (List WByte × Nat) := do
  let v ← movedCode s q a cs
  let side ← if hasScale a ∧ leadsBlock b skip cd then movedSide s q a b cs cd else pure []
  return (wElem b cd v.1 ++ side, v.2)

/-- Writes and clamped codes of a list of element moves, up to the first read that is refused. -/
def moveAll (s : Block) (q : Nat) (a b : Desc) (skip : Option Nat) : List (List Nat × List Nat) → List WByte × Nat × Option Stop
  | [] => ([], 0, none)
  | c :: t =>
    match moveElem s q a b skip c.1 c.2 with
    | .error e => ([], 0, some e)
    | .ok w =>
      let r := moveAll s q a b skip t
      (w.1 ++ r.1, w.2 + r.2.1, r.2.2)

/-- Pieces of memory of elements with their scales or exponents. -/
def coordPieces (d : Desc) (skip : Option Nat) (cs : List (List Nat)) : List (Nat × Nat) :=
  cs.map (elemSpan d) ++ (if hasScale d then (cs.filter (leadsBlock d skip)).map (sideSpan d) else [])

/-- Pieces of memory of a tensor's elements, scales and header. -/
def tensorPieces (d : Desc) : List (Nat × Nat) :=
  coordPieces d none (allCoords d) ++ (if 1 ≤ d.kind ∧ d.kind ≤ 3 then [(d.base, 32)] else [])

/-- Foreign bytes that a packed destination shares among elements must be read before they are written. -/
def sharedPieces (s : Block) (d : Desc) : List (Nat × Nat) :=
  if packed d then ((allCoords d).map (elemSpan d)).filter (fun p => !isOwn s p.1) else []

/-- The writes before the first that its home refuses. -/
def writesBefore (s : Block) (q : Nat) (ws : List WByte) : List WByte :=
  let bad := refusedLines s q ws
  if bad.isEmpty then ws else ws.takeWhile (fun w => (byteRefusal s bad w).isNone)

/-- End a command whose writes are known; the stop of a read comes after them. -/
def finishWrites (q : Nat) (c : CmdSlot) (hint : Nat) (s : Block) (ws : List WByte) (stop : Option Stop) : Began :=
  match applyWrites s q c.idx hint ws with
  | (s1, some e) => .stop s1 e
  | (s1, none) =>
    match stop with
    | some e => .stop s1 e
    | none => .go s1 .ok false

/-! ### COPY -/

/-- A staging extent of the block: address and size (R202). -/
def stageAt (v k : Nat) : Nat × Nat := (blkNat v k 8, blkNat v (k + 8) 4)

/-- The extents in use. -/
def stagesOf (v : Nat) : List (Nat × Nat) := [stageAt v 32, stageAt v 48].filter (fun e => e.1 != 0 && e.2 != 0)

/-- An extent lies in the populated part of a scratchpad on the tile's base die (R189). -/
def stageOk (s : Block) (q : Nat) (e : Nat × Nat) : Bool :=
  isOwn s e.1 &&
    (match placeOf (rackLocal e.1) with
      | .scratch t off => t / 128 == q / 128 && decide (off + e.2 ≤ 0x600000) && !tileAbsent s t
      | _ => false)

/-- Cut bytes into the staging extents, in order. -/
def stageWrites : List (Nat × Nat) → List Byte → List WByte
  | [], _ => []
  | e :: t, bs => wBytes e.1 (bs.take e.2).length (leNat (bs.take e.2)) ++ stageWrites t (bs.drop e.2)

/-- The code of an element as memory holds it, for a read that nothing refuses. -/
def stagedCode (s : Block) (q : Nat) (d : Desc) (c : List Nat) : Nat :=
  match rawElem s q d c with
  | .ok v => v
  | .error _ => 0

/-- The bytes of a source as staging holds them: the runs of dimension 0 in ascending linear index, each dense, then the scales or
exponents (log 24). -/
def stageData (s : Block) (q : Nat) (d : Desc) : List Byte :=
  let cs := allCoords d
  let w := extOf d 0
  (List.range (cs.length / w)).flatMap (fun r =>
    natLe (runBytes d) ((((cs.drop (r * w)).take w).map (stagedCode s q d)).foldr (fun v acc => v + 2 ^ elemBits d * acc) 0)) ++
  (if hasScale d then (cs.filter (leadsBlock d none)).flatMap (fun c => rackBytes s q (sideSpan d c).1 (sideSpan d c).2) else [])

/-- The copy proper: header, elements and scales of `a` go to `b`; with how many codes were clamped. -/
def copyWrites (s : Block) (q : Nat) (a b : Desc) : List WByte × Nat × Option Stop :=
  let hdr : Except Stop (List WByte) :=
    if 1 ≤ a.kind ∧ a.kind ≤ 3 then (readLe s q a.base 32).map (fun v => wBytes b.base 32 v) else .ok []
  match hdr with
  | .error e => ([], 0, some e)
  | .ok h =>
    let r := moveAll s q a b none ((allCoords a).map (fun c => (c, c)))
    (h ++ r.1, r.2)

/-- Bytes that the slow path moves: those of the writes carried out (R178). -/
def slowBytes (d : Desc) (ws : List WByte) : Nat := (ws.foldl (fun n w => n + (if w.mask = 255 then 8 else elemBits d)) 0 + 7) / 8

/-- Write the destination: the path of R178 decides what is counted. -/
def copyOut (q : Nat) (c : CmdSlot) (a b : Tensor) (s : Block) (w : List WByte × Nat × Option Stop) : Began :=
  let s := countEvent s (unitTile q) 4 w.2.1
  let s := if fastPath a.d b.d then s else countEvent s (unitTile q) 5 (slowBytes b.d (writesBefore s q w.1))
  finishWrites q c b.hint s w.1 w.2.2

/-- A COPY begins (R177, R188, R189). -/
def beginCopy (q : Nat) (s : Block) (c : CmdSlot) : Began :=
  let go : Except Stop (Nat × Tensor × Tensor) := do
    let v ← readBlock s q c.word
    need (blkNat v 44 4 == 0 && blkNat v 60 4 == 0) .malformed
    let a ← trefNeed s q (blkTref v 0) .natural false
    let b ← trefNeed s q (blkTref v 16) .natural true
    need (sameShape a.d b.d none) .layoutInvalid
    return (v, a, b)
  match go with
  | .error e => .stop s e
  | .ok (v, a, b) =>
    if a.d = b.d then .go s .ok false
    else
      let overlap := meets (descSpan a.d) (descSpan b.d)
      let stages := stagesOf v
      let total := (stages.map (·.2)).foldl (· + ·) 0
      let inPlace := bit c.word.toNat 8
      if overlap && !(inPlace && decide (dataBytes a.d ≤ 8388608)) then .stop s ⟨.layoutOverlap, 0⟩
      else if overlap && stages.any (fun e => e.1 % 64 != 0 || e.2 % 64 != 0 || !stageOk s q e) then .stop s ⟨.badAddress, 0⟩
      else if overlap && decide (total < dataBytes a.d) then .stop s ⟨.stageShort, 0⟩
      else if overlap && stages.any (fun e => meets (spanAt e.1 e.2) (descSpan a.d) || meets (spanAt e.1 e.2) (descSpan b.d)) then
        .stop s ⟨.layoutOverlap, 0⟩
      else
        let rd := tensorPieces a.d
        let wr := tensorPieces b.d
        match operandWait s q a.hint c (rd ++ sharedPieces s b.d) (wr ++ (if overlap then stages else [])) with
        | some x => x
        | none =>
          let w := copyWrites s q a.d b.d
          let s1 := touchPieces s a.hint rd
          if overlap then
            -- Phase 1 reads the whole source into staging; a read it is refused leaves the destination unchanged.
            match w.2.2 with
            | some e => .stop s1 e
            | none =>
              match applyWrites s1 q c.idx 0 (stageWrites stages (stageData s q a.d)) with
              | (s2, some e) => .stop s2 e
              | (s2, none) => copyOut q c a b s2 w
          else copyOut q c a b s1 w

/-- COPY (R177). -/
def execCopy (t : TileId) (s : State) : Host.Outcome State Fault Refusal := onBlock s fun s =>
  .next (startQueued s t.val (fun w => cmdOpcode w == 0x08) (beginCopy t.val))

/-! ### MOVE -/

/-- The source bytes up to the first line whose read is refused. -/
def moveBytes (s : Block) (q a : Nat) : List (Nat × Nat) → List WByte × Option Stop
  | [] => ([], none)
  | p :: t =>
    match readLe s q p.1 p.2 with
    | .error e => ([], some e)
    | .ok v =>
      let r := moveBytes s q a t
      (wBytes (a + p.1) p.2 v ++ r.1, r.2)

/-- A MOVE begins (R197, R202). -/
def beginMove (q : Nat) (s : Block) (c : CmdSlot) : Began :=
  let w := c.word
  let n := (cmdBits w 100 28 + 1) * 64
  let src := cmdBits w 16 42 * 64
  let dst := cmdBits w 58 42 * 64
  if cmdBits w 8 2 = 3 ∨ cmdBits w 10 2 = 3 then .stop s ⟨.malformed, 0⟩
  else if !seqMem s q src n || !seqMem s q dst n then .stop s ⟨.badAddress, 0⟩
  else if src = dst then .go s .ok false
  else if meets (spanAt src n) (spanAt dst n) then .stop s ⟨.layoutOverlap, 0⟩
  else
    match operandWait s q (cmdBits w 8 2) c [(src, n)] [(dst, n)] with
    | some x => x
    | none =>
      let (ws0, stop) := moveBytes s q 0 (linePieces src n)
      let ws := ws0.map (fun x => { x with addr := dst + (x.addr - src) })
      finishWrites q c (cmdBits w 10 2) (touchPieces s (cmdBits w 8 2) [(src, n)]) ws stop

/-- MOVE (R202). -/
def execMove (t : TileId) (s : State) : Host.Outcome State Fault Refusal := onBlock s fun s =>
  .next (startQueued s t.val (fun w => cmdOpcode w == 0x09) (beginMove t.val))

/-! ### Indexed transfers -/

/-- A GATHER or SCATTER after its checks. -/
structure Indexed where
  a     : Tensor
  b     : Tensor
  ibase : Nat
  n     : Nat
  idim  : Nat
deriving DecidableEq, Repr

/-- Read the block and make the checks of R179, R180, R183, R187. `gather` says which of the tensors the indices name. -/
def indexedOf (s : Block) (q : Nat) (w : BitVec 128) (gather : Bool) : Except Stop Indexed := do
  let v ← readBlock s q w
  let m := blkNat v 44 4
  need (bits m 3 29 == 0 && blkNat v 48 16 == 0) .malformed
  let n := blkNat v 40 4
  need (decide (1 ≤ n) && decide (n ≤ 2 ^ 24)) .malformed
  let ib := blkNat v 32 8
  need (ib % 4 == 0 && rackPopulated s ib && rackPopulated s (ib + 4 * n - 1)) .badAddress
  let a ← trefNeed s q (blkTref v 0) .natural false
  let b ← trefNeed s q (blkTref v 16) .natural true
  let k := bits m 0 3
  need (decide (k < a.d.ndim) && sameShape a.d b.d (some k)) .layoutInvalid
  need (extOf (if gather then b.d else a.d) k == n) .layoutInvalid
  need ([a.d, b.d].all (fun d => !((d.kind == 0 && blockScaled d.fmt) && (k == d.rdim || (d.sq && k == d.sqdim))))) .layoutInvalid
  need (!(packed a.d && k == 0)) .layoutInvalid
  need (!(meets (descSpan b.d) (descSpan a.d)) && !(meets (descSpan b.d) (spanAt ib (4 * n)))) .layoutOverlap
  return ⟨a, b, ib, n, k⟩

/-- The coordinates of slice `j` along a dimension, in ascending linear index. -/
def sliceCoords (d : Desc) (k j : Nat) : List (List Nat) :=
  let ext := d.ext.set k 1
  (List.range (ext.foldl (· * ·) 1)).map (fun i => (coordOf ext i).set k j)

/-- How an index is treated (R181): a slice, none for ZERO, or a stop. -/
inductive IdxUse where
  | at_ (j : Nat)
  | zero
  | stop
deriving DecidableEq, Repr

/-- The treatment of an index value under POLICY, and whether it was out of range. -/
def idxUse (policy : Nat) (ext : Nat) (z : Int) : IdxUse × Bool :=
  if 0 ≤ z ∧ z < (ext : Int) then (.at_ z.toNat, false)
  else if policy = 1 then (.at_ (if z < 0 then 0 else ext - 1), true)
  else if policy = 2 then (.stop, true)
  else (.zero, true)

/-- Index j of the tensor. -/
def indexAt (s : Block) (q : Nat) (x : Indexed) (j : Nat) : Except Stop Int :=
  (readLe s q (x.ibase + 4 * j) 4).map (fun v => sx 32 v)

/-- The treatment of index j: the slice it names, and whether it was out of range. -/
def useAt (s : Block) (q policy ext : Nat) (x : Indexed) (j : Nat) : Except Stop (IdxUse × Bool) :=
  (indexAt s q x j).map (idxUse policy ext)

/-- The slices that indices name, each with the j that names it, up to the first index that stops. -/
def slicesNamed (s : Block) (q policy ext : Nat) (x : Indexed) : List Nat → List (Nat × Nat)
  | [] => []
  | j :: t =>
    match useAt s q policy ext x j with
    | .ok (.at_ i, _) => (j, i) :: slicesNamed s q policy ext x t
    | .ok (.zero, _) => slicesNamed s q policy ext x t
    | _ => []

/-- The coalescer (R182): segments held, the least recently used last. -/
abbrev Coalescer := List (Nat × Nat)

/-- Read the segments of one slice of `n` bytes: the segments held after it, those read from memory, and the hits. -/
def coalesce (k : Coalescer) (idx n : Nat) : Coalescer × List Nat × Nat :=
  (List.range ((n + 255) / 256)).foldl (fun (r : Coalescer × List Nat × Nat) g =>
    if r.1.contains (idx, g) then ((idx, g) :: r.1.erase (idx, g), r.2.1, r.2.2 + 1)
    else (((idx, g) :: r.1).take 64, r.2.1 ++ [g], r.2.2)) (k, [], 0)

/-- Bytes of a slice along a dimension. -/
def sliceBytes (d : Desc) (k : Nat) : Nat := (elemCount d / extOf d k * elemBits d + 7) / 8

/-- Memory of segment `g` of slice `i`: the elements whose dense places in the slice lie in its 256 bytes, with their scales. -/
def segmentPieces (d : Desc) (k i g : Nat) : List (Nat × Nat) :=
  let per := 2048 / elemBits d
  coordPieces d (some k) (((sliceCoords d k i).drop (g * per)).take per)

/-- What a gather has done so far: its writes, out-of-range indices, clamped codes, the coalescer with the pieces of each segment
read from memory and its hits, and its stop. -/
structure GatherAcc where
  ws    : List WByte
  out   : Nat
  codes : Nat
  coal  : Coalescer
  reads : List (List (Nat × Nat))
  hits  : Nat
  stop  : Option Stop
deriving DecidableEq, Repr

/-- The writes that put zero at an element of slice `j`: +0, INT32 0, code 0, scale code 0x00; an Istus block takes EX = 1 (R55,
R181). Exponents that do not run along the indexed dimension are those of S; for those that do no rule states one: they are
open values (log 2). -/
def zeroElem (s : Block) (q : Nat) (x : Indexed) (cd : List Nat) : Except Stop (List WByte) := do
  let d := x.b.d
  let side ← if !(hasScale d && leadsBlock d (some x.idim) cd) then pure []
    else if d.kind ≠ 4 then pure (wBytes (scalePos d cd) 1 (if isIstus d.fmt then 1 else 0))
    else if d.xdim = x.idim then pure (wBytes (expPos d cd) 2 (openValue s (at_ cd x.idim) 16))
    else movedSide s q x.a.d d cd cd
  return wElem d cd 0 ++ side

/-- Slice `j` of a gather. -/
def gatherSlice (s : Block) (q policy : Nat) (x : Indexed) (g : GatherAcc) (j : Nat) : GatherAcc :=
  if g.stop.isSome then g
  else
    let cs := sliceCoords x.b.d x.idim j
    match useAt s q policy (extOf x.a.d x.idim) x j with
    | .error e => { g with stop := some e }
    | .ok (u, bad) =>
      let g := { g with out := g.out + bad.toNat }
      match u with
      | .stop => { g with stop := some ⟨.indexRange, j⟩ }
      | .zero =>
        match cs.mapM (zeroElem s q x) with
        | .error e => { g with stop := some e }
        | .ok l => { g with ws := g.ws ++ l.flatten }
      | .at_ i =>
        let r := coalesce g.coal i (sliceBytes x.a.d x.idim)
        let g := { g with coal := r.1, reads := g.reads ++ r.2.1.map (segmentPieces x.a.d x.idim i), hits := g.hits + r.2.2 }
        match cs.mapM (fun c => moveElem s q x.a.d x.b.d (some x.idim) (c.set x.idim i) c) with
        | .error e => { g with stop := some e }
        | .ok l => { g with ws := g.ws ++ l.flatMap (·.1), codes := g.codes + (l.map (·.2)).foldl (· + ·) 0 }

/-- Where distinct elements share bytes, each byte ends with the element of the highest linear index (R173): when the indexed
dimension is not the slowest, the elements written are written over again in ascending linear index. -/
def inIndexOrderAgain (s : Block) (q policy : Nat) (x : Indexed) : List WByte :=
  let d := x.b.d
  if (List.range d.ndim).all (fun k => decide (k ≤ x.idim) || extOf d k == 1) then []
  else (allCoords d).flatMap (fun c =>
    match useAt s q policy (extOf x.a.d x.idim) x (at_ c x.idim) with
    | .ok (.at_ i, _) => (match moveElem s q x.a.d d (some x.idim) (c.set x.idim i) c with
      | .ok w => w.1
      | .error _ => [])
    | _ => wElem d c 0)

/-- A GATHER begins (R179 to R182). -/
def beginGather (q : Nat) (s : Block) (c : CmdSlot) : Began :=
  let policy := cmdBits c.word 8 2
  if policy = 3 then .stop s ⟨.malformed, 0⟩
  else
    match indexedOf s q c.word true with
    | .error e => .stop s e
    | .ok x =>
      let index := [(x.ibase, 4 * x.n)]
      match operandWait s q 0 c index [] with
      | some b => b
      | none =>
        let used := (slicesNamed s q policy (extOf x.a.d x.idim) x (List.range x.n)).flatMap (fun p =>
          coordPieces x.a.d (some x.idim) (sliceCoords x.a.d x.idim p.2))
        match operandWait s q x.a.hint c (index ++ used ++ sharedPieces s x.b.d) (tensorPieces x.b.d) with
        | some b => b
        | none =>
          let g := (List.range x.n).foldl (gatherSlice s q policy x) ⟨[], 0, 0, [], [], 0, none⟩
          let s1 := g.reads.foldl (fun s ps => touchPieces s x.a.hint ps) (touchPieces s 0 index)
          let s2 := countEvent (countEvent (countEvent s1 (unitTile q) 6 g.out) (unitTile q) 7 g.hits) (unitTile q) 4 g.codes
          let s3 := if x.b.d.kind = 4 then { s2 with free := s2.free + x.n } else s2
          finishWrites q c x.b.hint s3 (g.ws ++ (if g.stop.isSome then [] else inIndexOrderAgain s q policy x)) g.stop

/-- GATHER (R179). -/
def execGather (t : TileId) (s : State) : Host.Outcome State Fault Refusal := onBlock s fun s =>
  .next (startQueued s t.val (fun w => cmdOpcode w == 0x1C) (beginGather t.val))

/-! ### SCATTER -/

/-- Formats that combine: INT32, FP32, FP64 as KIND 0 tensors (R183). -/
def combineFmt (d : Desc) : Bool := d.kind == 0 && (d.fmt == 0x10 || d.fmt == 0x0E || d.fmt == 0x0F)

/-- AOP of COMBINE on a format (R183, R326): 1 ADD, 2 MAX, 3 MIN. -/
def combineAop (fmt combine : Nat) : Nat :=
  if fmt = 0x10 then (if combine = 1 then 0b00000 else if combine = 2 then 0b10100 else 0b10000)
  else if combine = 1 then 0b00110 else if combine = 2 then 0b10110 else 0b10010

/-- Where an element of a destination lies: the issuing tile's own scratchpad, another tile's, or a memory that combines at its
home, in this module or another (R185). -/
inductive ScatterTo where
  | ownScratch | otherScratch | home | remote
deriving DecidableEq, Repr

def scatterTo (s : Block) (q a : Nat) : ScatterTo :=
  match placeOf (rackLocal a) with
  | .scratch t _ => if isOwn s a && t == q then .ownScratch else .otherScratch
  | _ => if isOwn s a then .home else .remote

/-- Combine one element in the issuing tile's own scratchpad, which the strict mode does not check (R421). -/
def combineBank (s : Block) (q aop n a v : Nat) : Block × Option Stop :=
  let l := rackLocal a
  match lineStatus s (seqOwner s q) .rmw l n with
  | some st => (s, some ⟨st, a / 128 * 128⟩)
  | none =>
    let m := memLe s l n
    let s := tallyAdd (countArith s (unitTile q) (aopEv n aop m v)) (unitTile q) .wrap (sumWraps n aop m v).toNat
    (memWrite s l (natLe n ((aopResult n aop m v 0).getD 0)), none)

/-- Each line's share of a slice, the lines in the order in which the slice reaches them (R185). -/
def lineShares (es : List (Nat × Nat)) : List (Nat × List (Nat × Nat)) :=
  es.foldl (fun acc e =>
    let l := e.1 / 128
    if acc.any (fun g => g.1 == l) then acc.map (fun g => if g.1 = l then (l, g.2 ++ [e]) else g) else acc ++ [(l, [e])]) []

/-- Runs of adjacent elements: address and bytes. A packet carries one (R310, log 93). -/
def elemRuns (n : Nat) : List (Nat × Nat) → List (Nat × List Byte)
  | [] => []
  | (a, v) :: t =>
    match elemRuns n t with
    | (b, bs) :: r => if b = a + n then (a, natLe n v ++ bs) :: r else (a, natLe n v) :: (b, bs) :: r
    | [] => [(a, natLe n v)]

/-- Go through a list until something stops. -/
def untilStop {α : Type} (f : Block → α → Block × Option Stop) : List α → Block → Block × Option Stop
  | [], s => (s, none)
  | x :: t, s =>
    match f s x with
    | (s1, some e) => (s1, some e)
    | (s1, none) => untilStop f t s1

/-- Combine one line's share at its home (R185). -/
def combineShare (q idx aop n hint : Nat) (s : Block) (g : Nat × List (Nat × Nat)) : Block × Option Stop :=
  match scatterTo s q (128 * g.1) with
  | .ownScratch => untilStop (fun s e => combineBank s q aop n e.1 e.2) g.2 s
  | .remote =>
    untilStop (fun s r =>
      let (s1, st) := sendRed s (rackSlot r.1) (seqReq q) (rackLocal r.1) hint aop (n == 8) r.2 (.seqWrite ⟨q % 545, by omega⟩ idx)
      if st = .ok then (s1, none) else (s, some ⟨st, r.1 / 128 * 128⟩)) (elemRuns n g.2) s
  | _ =>
    let (s1, st) := combineAll s (seqOwner s q) (strictTag (ownSlot s) (seqReq q)) hint n aop (g.2.map (fun e => (rackLocal e.1, e.2)))
    if st = .ok then (s1, none) else (s1, some ⟨st, 128 * g.1⟩)

/-- One slice of a combining scatter, into destination slice `i`. -/
def combineSlice (q idx aop : Nat) (x : Indexed) (s : Block) (j i : Nat) : Block × Option Stop :=
  match (sliceCoords x.a.d x.idim j).mapM (fun c => (rawElem s q x.a.d c).map (fun v => ((elemPos x.b.d (c.set x.idim i)).1, v))) with
  | .error e => (s, some e)
  | .ok es => untilStop (combineShare q idx aop (elemBytes x.a.d) x.b.hint) (lineShares es) s

/-- Slices of a scatter in index order, up to the first that stops (R184). -/
def scatterSlices (q policy : Nat) (x : Indexed) (act : Block → Nat → Nat → Block × Option Stop) :
    List Nat → Block → Block × Option Stop
  | [], s => (s, none)
  | j :: t, s =>
    match useAt s q policy (extOf x.b.d x.idim) x j with
    | .error e => (s, some e)
    | .ok (u, bad) =>
      let s := countEvent s (unitTile q) 6 bad.toNat
      match u with
      | .stop => (s, some ⟨.indexRange, j⟩)
      | .zero => scatterSlices q policy x act t s
      | .at_ i =>
        match act s j i with
        | (s1, some e) => (s1, some e)
        | (s1, none) => scatterSlices q policy x act t s1

/-- One slice of an overwriting scatter. -/
def overwriteSlice (q idx hint : Nat) (x : Indexed) (s : Block) (j i : Nat) : Block × Option Stop :=
  let r := moveAll s q x.a.d x.b.d (some x.idim) ((sliceCoords x.a.d x.idim j).map (fun c => (c, c.set x.idim i)))
  match r.2.2 with
  | some e => (s, some e)
  | none => applyWrites (countEvent s (unitTile q) 4 r.2.1) q idx hint r.1

/-- A SCATTER begins (R183 to R185). -/
def beginScatter (q combine : Nat) (s : Block) (c : CmdSlot) : Began :=
  let policy := cmdBits c.word 8 2
  if policy = 3 then .stop s ⟨.malformed, 0⟩
  else
    match indexedOf s q c.word false with
    | .error e => .stop s e
    | .ok x =>
      if combine ≠ 0 ∧ (!combineFmt x.a.d ∨ (allCoords x.b.d).any (fun c => scatterTo s q (elemPos x.b.d c).1 == .otherScratch)) then
        .stop s ⟨.layoutInvalid, 0⟩
      else
        let index := [(x.ibase, 4 * x.n)]
        match operandWait s q 0 c index [] with
        | some b => b
        | none =>
          let used := slicesNamed s q policy (extOf x.b.d x.idim) x (List.range x.n)
          let rd := used.flatMap (fun p => coordPieces x.a.d (some x.idim) (sliceCoords x.a.d x.idim p.1))
          let wr := used.flatMap (fun p => coordPieces x.b.d (some x.idim) (sliceCoords x.b.d x.idim p.2))
          match operandWait s q x.a.hint c (index ++ rd ++ (if combine = 0 then sharedPieces s x.b.d else [])) wr with
          | some b => b
          | none =>
            let s1 := touchPieces (touchPieces s 0 index) x.a.hint rd
            let act := if combine = 0 then overwriteSlice q c.idx x.b.hint x else combineSlice q c.idx (combineAop x.a.d.fmt combine) x
            match scatterSlices q policy x act (List.range x.n) s1 with
            | (s2, some e) => .stop s2 e
            | (s2, none) => .go s2 .ok false

/-- Whether a word is a SCATTER with this COMBINE. -/
def isScatter (k : Nat) (w : BitVec 128) : Bool := cmdOpcode w == 0x1D && cmdBits w 10 2 == k

/-- SCATTER OVERWRITE (R183). -/
def execScatterOverwrite (t : TileId) (s : State) : Host.Outcome State Fault Refusal := onBlock s fun s =>
  .next (startQueued s t.val (isScatter 0) (beginScatter t.val 0))

/-- SCATTER ADD (R183). -/
def execScatterAdd (t : TileId) (s : State) : Host.Outcome State Fault Refusal := onBlock s fun s =>
  .next (startQueued s t.val (isScatter 1) (beginScatter t.val 1))

/-- SCATTER MAX (R183). -/
def execScatterMax (t : TileId) (s : State) : Host.Outcome State Fault Refusal := onBlock s fun s =>
  .next (startQueued s t.val (isScatter 2) (beginScatter t.val 2))

/-- SCATTER MIN (R183). -/
def execScatterMin (t : TileId) (s : State) : Host.Outcome State Fault Refusal := onBlock s fun s =>
  .next (startQueued s t.val (isScatter 3) (beginScatter t.val 3))

end Sys2Proof.Machine
end

