-- ==== Sys2Proof/Machine/Sparing.lean ====
section
/-! DEFINITION. Streams that fault with their unit (R367), and the replacement of tiles by spares (R24 to R26, R368). -/

namespace Sys2Proof.Machine

open Sys2Proof

/-- A stream with every started command ended and the stop marked at its first command that is not done. `seen` limits the
scan of R215 to the commands already fetched. -/
def faultedStream (st : StreamSt) (status : Status) (seen : Bool) : StreamSt :=
  let first := match st.win.find? (fun c => c.phase != .done) with
    | some c => c.idx
    | none => st.nextFetch
  let idx := match st.stop with
    | some p => min p.idx first
    | none => first
  { st with
    win := st.win.map (fun c => if c.phase = .started then { c with phase := .done } else c)
    waiting := none
    ncmd := if seen then min st.ncmd st.nextFetch else st.ncmd
    stop := some ⟨idx, status, 0⟩ }

/-- Outstanding requests of a sequencer are given up, for `w`: answers that still arrive reach nothing (R368, R369). -/
def orphanSeq (s : Block) (q : Nat) (w : OutFor) : Block :=
  let mine := fun (o : Outst) => match o.forWhom with
    | .seqRead k _ => k.val == q
    | .seqWrite k _ => k.val == q
    | .seqSignal k _ => k.val == q
    | _ => false
  { s with fab := { s.fab with
      outst := s.fab.outst.map (fun o => if mine o then { o with forWhom := w } else o)
      held := s.fab.held.filter (fun o => !mine o) } }

/-- A unit's stream faults: its record, the aborts of its later SIGNALs and DONE, and STOPPED (R367, R368, R369). What a unit that is
reset still gets answered is counted and logged (R369). -/
def faultStream (s : Block) (q : Nat) (status : Status) (seen : Bool) : Block :=
  let s := orphanSeq s q (if status = .unitReset then .gone (seqUnit s q) else .abortMsg)
  let x := seqAt s q
  match x.stream with
  | none => s
  | some st => finishStop (seqPut s q { x with stream := some (faultedStream st status seen) }) q

/-! ### Spares -/

/-- Tensor die of a tile (R23). -/
def dieOfTile (t : Nat) : Nat := t / 128

/-- The next spare of a die that is neither mapped nor failed, and that no tile of the die tests already: a spare under test remains for
no other tile, since it is mapped when it passes and failed when it does not. -/
def nextSpare (s : Block) (die : Nat) : Option Nat :=
  let d := dieAt s die
  (List.range 4).find? (fun k => !bit d.used.toNat k && !bit d.failed.toNat k &&
    !(List.range 128).any (fun j => (tileAt s (128 * die + j)).testing == some k))

/-- What a replaced tile, or one that becomes absent, leaves: its stream faults, its launch object is aborted, its bit in
OD 0x4330.02 is set, and alarm 0x02 is raised (R26, R368). Commands in the lost scratchpad are known only as far as they
were fetched. -/
def tileGone (s : Block) (t : Nat) (phys : Option Nat) (status : Status) : Block :=
  let lost := match (seqAt s t).stream with
    | some st => decide (hbmEnd ≤ rackLocal st.base)
    | none => false
  let s := memZero (tilePut s t { tile0 with phys := phys }) (scratchBase t) (scratchBase t + 0x800000)
  let s := { s with ecc := { s.ecc with badWords := s.ecc.badWords.filter (fun w =>
      decide (16 * w < scratchBase t) || decide (scratchBase t + 0x800000 ≤ 16 * w)) } }
  let s := faultStream s t status lost
  let s := seqPut s t { seqAt s t with running := false }
  let s := odSetBit (abortObj s t) 0x4330 2 t true
  raiseAlarm s 0x02 (unitTile t) status t

/-- A failed tile: the next spare of its die starts its self-test; without one the tile becomes absent (R26). -/
def trySpare (s : Block) (t : Nat) : Block :=
  match nextSpare s (dieOfTile t) with
  | some k => tilePut s t { tileAt s t with testing := some k }
  | none => ledgerFlush (tileGone (odSetBit s 0x2101 1 t true) t none .tileAbsent)

/-- TILE_INTERNAL_ERROR (R26): a spare that the tile ran on has failed. -/
def execTileInternalError (t : TileId) (s : State) : Host.Outcome State Fault Refusal := onBlock s fun s =>
  let x := tileAt s t
  .next (if !unitsOn s || x.phys.isNone || x.testing.isSome then s
    else
      let s := match x.phys with
        | some (k + 1) => let d := dieAt s (dieOfTile t); diePut s (dieOfTile t) { d with failed := BitVec.ofNat 4 (setBit d.failed.toNat k true) }
        | _ => s
      keepRecovery (trySpare (seqPut s t { seqAt s t with intake := false }) t))

/-- SPARE_SELF_TEST_DONE (R26): a pass maps the spare to the tile number; a fail marks it failed. -/
def execSpareSelfTestDone (t : TileId) (r : TestResult) (s : State) : Host.Outcome State Fault Refusal := onBlock s fun s =>
  let x := tileAt s t
  let d := dieAt s (dieOfTile t)
  .next (match x.testing with
    | none => s
    | some k =>
      match r with
      | .pass =>
        let s := diePut s (dieOfTile t) { d with used := BitVec.ofNat 4 (setBit d.used.toNat k true), passed := BitVec.ofNat 4 (setBit d.passed.toNat k true) }
        let s := tileGone s t (some (k + 1)) .tileReplaced
        ledgerFlush (keepRecovery (seqPut s t { seqAt s t with intake := true }))
      | .fail =>
        let s := diePut s (dieOfTile t) { d with failed := BitVec.ofNat 4 (setBit d.failed.toNat k true) }
        keepRecovery (trySpare (tilePut s t { x with testing := none }) t))

end Sys2Proof.Machine
end

