-- ==== Sys2Proof/Machine/PlumbMath.lean ====
section
/-! DEFINITION. Factorisations and substitutions of Plumb (R230, R232, R234): FP64, one rounding for each fused
multiply-add, divide and square root, every sum in ascending index order (log 14). Each number carries the operations that formed it, so that a unit can count
them. -/

namespace Sys2Proof.Machine

open Sys2Proof

/-! ### Numbers with the operations that formed them, and matrices of them -/

/-- An F64 pattern, with the fused multiply-adds, invalid operations and overflows of the operations that formed it since the values it
was formed from (R58, R515). -/
structure Num where
  v    : Nat
  fmas : Nat
  inv  : Nat
  ovf  : Nat
deriving DecidableEq, Repr

/-- A pattern that no operation has formed yet. -/
def num (v : Nat) : Num := ⟨v, 0, 0, 0⟩
def num0 : Num := num 0

/-- A number formed from `s` by one more operation on the patterns `args`, of exact result `r`. -/
def numStep (s : Num) (fmas : Nat) (args : List Nat) (r : FV) : Num :=
  let o := fpResult fp64 (args.map d64) r
  ⟨o.val, s.fmas + fmas, s.inv + o.invalid.toNat, s.ovf + o.overflow.toNat⟩

/-- `s + a · b`, rounded once. -/
def fmaN (a b s : Num) : Num := numStep s 1 [a.v, b.v, s.v] (fvAdd (fvMul (d64 a.v) (d64 b.v)) (d64 s.v))
/-- The same number with the sign changed: no operation. -/
def negN (a : Num) : Num := { a with v := neg64 a.v }
/-- `s − a · b`, rounded once. -/
def fmsN (a b s : Num) : Num := fmaN (negN a) b s
/-- `s / b`, and the square root of `s`. -/
def divN (s b : Num) : Num := numStep s 0 [s.v, b.v] (fvDiv 53 (d64 s.v) (d64 b.v))
def sqrtN (s : Num) : Num := numStep s 0 [s.v] (fvSqrt 53 (d64 s.v))
/-- `s + a`, `s − a` and `s · b`. -/
def addN (s a : Num) : Num := numStep s 0 [s.v, a.v] (fvAdd (d64 s.v) (d64 a.v))
def subN (s a : Num) : Num := addN s (negN a)
def mulN (s b : Num) : Num := numStep s 0 [s.v, b.v] (fvMul (d64 s.v) (d64 b.v))
/-- `s`, with the operations that formed `a` beside its own. -/
def withN (s a : Num) : Num := ⟨s.v, s.fmas + a.fmas, s.inv + a.inv, s.ovf + a.ovf⟩

/-- Element (i, j) of a matrix; an unlisted element is +0. -/
def matGet (m : Tab Num) (i j : Nat) : Num := tget num0 m (j * 2 ^ 24 + i)
def matSet (m : Tab Num) (i j : Nat) (v : Num) : Tab Num := tset num0 m (j * 2 ^ 24 + i) v

/-- The pattern of an element, apart from the operations that formed it. -/
def elemOf (m : Tab Num) (i j : Nat) : Num := num (matGet m i j).v

/-- The operations that formed a matrix's elements: fused multiply-adds, and events. -/
def opsOf (ms : List (Tab Num)) : Num :=
  ms.foldl (fun t m => m.foldl (fun t e => withN t e.2) t) num0

/-- The numbers `lo` to `hi − 1`. -/
def span (lo hi : Nat) : List Nat := (List.range (hi - lo)).map (fun k => lo + k)

/-- Larger of two magnitudes. -/
def maxMag (a b : Nat) : Nat := if lt64 (abs64 a) (abs64 b) then abs64 b else abs64 a

/-- Sign and magnitude as one pattern: sign(±0) = +1 (R234). -/
def signed64 (p m : Nat) : Nat := if bit p 63 && abs64 p != 0 then m + 2 ^ 63 else m

/-! ### Pivots (R234, R236) -/

/-- Pivots of a factorisation: how many were flagged, the index of the first, the smallest magnitude left, and whether
one was NaN or infinite. -/
structure Pivots where
  count : Nat
  first : Nat
  small : Nat
  bad   : Bool
deriving DecidableEq, Repr

/-- No pivot yet: the smallest magnitude starts at infinity. -/
def pivots0 : Pivots := ⟨0, 0xFFFFFFFF, 0x7FF0000000000000, false⟩

/-- Treat the pivot of index `j`: the value used, and the record. `signs` keeps its sign. -/
def pivotStep (signs : Bool) (tau delta : Nat) (x : Pivots) (j : Nat) (s : Num) : Num × Pivots :=
  let p := s.v
  if !finite64 p then (s, { x with bad := true })
  else
    let flagged := if signs then lt64 (abs64 p) tau else lt64 p tau
    let m := maxMag p delta
    let v := if !flagged then p else if signs then signed64 p m else m
    let x := if flagged then { x with count := x.count + 1, first := if x.count = 0 then j else x.first } else x
    ({ s with v := v }, if lt64 (abs64 v) x.small then { x with small := abs64 v } else x)

/-- The threshold τ = ε_rel · ‖A‖_max + ε_abs. -/
def tauOf (epsRel epsAbs amax : Nat) : Nat := fma64 epsRel amax epsAbs

/-! ### Cholesky: dense, band and block tridiagonal -/

/-- Column `j` of L for rows whose first stored column is `lo`. -/
def cholCol (n : Nat) (lo : Nat → Nat) (tau delta : Nat) (a : Tab Num) (acc : Tab Num × Pivots) (j : Nat) : Tab Num × Pivots :=
  let l := acc.1
  if acc.2.bad then acc
  else
    let dot := fun (i : Nat) => (span (max (lo i) (lo j)) j).foldl (fun s k => fmsN (matGet l i k) (matGet l j k) s) (matGet a i j)
    let (p, x) := pivotStep false tau delta acc.2 j (dot j)
    if x.bad then (l, x)
    else
      let d := sqrtN p
      let l1 := matSet l j j d
      ((span (j + 1) n).foldl (fun m i => if lo i ≤ j then matSet m i j (divN (dot i) d) else m) l1, x)

/-- L of A = L · Lᵀ. -/
def cholesky (n : Nat) (lo : Nat → Nat) (tau delta : Nat) (a : Tab Num) : Tab Num × Pivots :=
  (List.range n).foldl (cholCol n lo tau delta a) ([], pivots0)

/-- Forward substitution with L, for one right-hand side of the columns `b`. -/
def lowerSolve (n : Nat) (lo : Nat → Nat) (unit : Bool) (l b : Tab Num) (c : Nat) : Tab Num :=
  (List.range n).foldl (fun y i =>
    let v := (span (lo i) i).foldl (fun s k => fmsN (matGet l i k) (matGet y k c) s) (matGet b i c)
    matSet y i c (if unit then v else divN v (matGet l i i))) []

/-- Back substitution with Lᵀ. -/
def lowerTSolve (n : Nat) (lo : Nat → Nat) (unit : Bool) (l y : Tab Num) (c : Nat) : Tab Num :=
  (List.range n).reverse.foldl (fun x i =>
    let v := (span (i + 1) n).foldl (fun s k => if lo k ≤ i then fmsN (matGet l k i) (matGet x k c) s else s) (matGet y i c)
    matSet x i c (if unit then v else divN v (matGet l i i))) []

/-! ### LDLᵀ -/

/-- Column `j` of L, with D on the diagonal. -/
def ldltCol (n tau delta : Nat) (a : Tab Num) (acc : Tab Num × Pivots) (j : Nat) : Tab Num × Pivots :=
  let l := acc.1
  if acc.2.bad then acc
  else
    let dot := fun (i : Nat) => (List.range j).foldl (fun s k => (fun t => fmsN (matGet l i k) t (withN s t)) (mulN (elemOf l j k) (matGet l k k)))
      (matGet a i j)
    let (p, x) := pivotStep true tau delta acc.2 j (dot j)
    if x.bad then (l, x)
    else ((span (j + 1) n).foldl (fun m i => matSet m i j (divN (dot i) p)) (matSet l j j p), x)

/-- L and D of A = L · D · Lᵀ. -/
def ldlt (n tau delta : Nat) (a : Tab Num) : Tab Num × Pivots := (List.range n).foldl (ldltCol n tau delta a) ([], pivots0)

/-- Divide by D. -/
def diagSolve (n : Nat) (l y : Tab Num) (c : Nat) : Tab Num :=
  (List.range n).foldl (fun z i => matSet z i c (divN (matGet y i c) (matGet l i i))) []

/-! ### LU with partial pivoting -/

/-- An LU factorisation in progress: the matrix, the pivot rows, the pivots. -/
structure LuAcc where
  m    : Tab Num
  rows : List Nat
  piv  : Pivots
deriving DecidableEq, Repr

/-- Exchange two rows in the columns `cols`. -/
def swapRows (m : Tab Num) (p q : Nat) (cols : List Nat) : Tab Num :=
  if p = q then m
  else cols.foldl (fun m j =>
    let a := matGet m p j
    let b := matGet m q j
    matSet (matSet m p j b) q j a) m

/-- Row of largest magnitude in column `k` from row `k` down, the lowest index among equals. -/
def pivotRow (m : Tab Num) (k hi : Nat) : Nat :=
  (span (k + 1) hi).foldl (fun p i => if lt64 (abs64 (matGet m p k).v) (abs64 (matGet m i k).v) then i else p) k

/-- Step `k`: the exchange, the pivot, the multipliers and the update, with `kd` rows below the diagonal. In the band form
the multipliers stay where they were formed. -/
def luStep (n kd : Nat) (band : Bool) (tau delta : Nat) (x : LuAcc) (k : Nat) : LuAcc :=
  if x.piv.bad then x
  else
    let hi := min n (k + kd + 1)
    let right := if band then min n (k + 2 * kd + 1) else n
    let p := pivotRow x.m k hi
    let m := swapRows x.m k p (span (if band then k else 0) right)
    let (v, piv) := pivotStep true tau delta x.piv k (matGet m k k)
    if piv.bad then { x with piv := piv }
    else
      let m := matSet m k k v
      let m := (span (k + 1) hi).foldl (fun m i =>
        let f := divN (matGet m i k) v
        (span (k + 1) right).foldl (fun m j => matSet m i j (fmsN f (matGet m k j) (matGet m i j))) (matSet m i k f)) m
      ⟨m, x.rows ++ [p], piv⟩

/-- L and U of P · A = L · U. -/
def luFactor (n kd : Nat) (band : Bool) (tau delta : Nat) (a : Tab Num) : LuAcc :=
  (List.range n).foldl (luStep n kd band tau delta) ⟨a, [], pivots0⟩

/-- Solve with an LU factor for one right-hand side. -/
def luSolve (n kd : Nat) (band : Bool) (f : Tab Num) (rows : List Nat) (b : Tab Num) (c : Nat) : Tab Num :=
  let b := (List.range n).foldl (fun b i => matSet b i 0 (matGet b i c)) (b.filter (fun e => e.1 / 2 ^ 24 == c))
  let y :=
    if band then
      (List.range n).foldl (fun y k =>
        let y := swapRows y k (rows.getD k k) [0]
        (span (k + 1) (min n (k + kd + 1))).foldl (fun y i => matSet y i 0 (fmsN (matGet f i k) (matGet y k 0) (matGet y i 0))) y) b
    else
      let pb := (List.range n).foldl (fun y k => swapRows y k (rows.getD k k) [0]) b
      (List.range n).foldl (fun y i =>
        matSet y i 0 ((List.range i).foldl (fun s k => fmsN (matGet f i k) (matGet y k 0) s) (matGet pb i 0))) []
  let x := (List.range n).reverse.foldl (fun x i =>
    let right := if band then min n (i + 2 * kd + 1) else n
    let v := (span (i + 1) right).foldl (fun s k => fmsN (matGet f i k) (matGet x k 0) s) (matGet y i 0)
    matSet x i 0 (divN v (matGet f i i))) []
  (List.range n).foldl (fun r i => matSet r i c (matGet x i 0)) []

end Sys2Proof.Machine
end

