-- ==== Sys2Proof/Machine/Replay.lean ====
section
/-! DEFINITION. The recorded ledger that a replay names (R440, R443 to R445), and the digests that scribe keeps (R436). -/

namespace Sys2Proof.Machine

open Sys2Proof

/-- An entry of a recorded ledger. -/
structure RecEntry where
  typ     : Nat
  step    : Nat
  payload : List Byte
deriving DecidableEq, Repr

/-- Entries from an own address up, until a TYPE that R440 does not list. Each entry has a byte that is not zero, so the
memory's length bounds their number. -/
def recEntries (s : Block) : Nat → Nat → List RecEntry
  | 0, _ => []
  | fuel + 1, a =>
    let typ := memLe s a 1
    let n := 16 * memLe s (a + 2) 2
    if typ = 0 ∨ 10 < typ then []
    else ⟨typ, memLe s (a + 8) 8, memRead s (a + 16) n⟩ :: recEntries s fuel (a + 16 + n)

/-- The ledger that REPLAY_LEDGER names, in this module's memory (R444). -/
def recorded (s : Block) : List RecEntry :=
  let a := odNat s 0x9300 7
  if a = 0 ∨ !isOwn s a then [] else recEntries s s.mem.length (rackLocal a)

/-- The DEADLINE entry of a Plumb problem in the present step (R440, R445): its status and ITER. -/
def recordedDeadline (s : Block) (g n i : Nat) : Option (Status × Nat) :=
  ((recorded s).find? (fun e => e.typ == 6 && e.step == s.ledger.step.toNat &&
    leNat (slice e.payload 0 1) == g && leNat (slice e.payload 4 4) == i && leNat (slice e.payload 8 8) == n)).map
    (fun e => (statusOf (leNat (slice e.payload 2 2)), leNat (slice e.payload 16 2)))

/-! ### Divergence (R444) -/

/-- The first difference: alarm 0x10, a FAULT entry with ST_REPLAY_DIVERGED, and OD 0x9300.08. -/
def diverged (s : Block) (step layer : Nat) : Block :=
  if odNat s 0x9300 8 ≠ 0 then s
  else
    let s := odPut s 0x9300 8 (step % 2 ^ 64 + layer % 2 ^ 32 * 2 ^ 64)
    ledgerFault (raiseAlarm s 0x10 unitTime .replayDiverged layer) .replayDiverged unitTime layer

/-- Compare a swatch with the recorded one of the same step and LAYER. -/
def compareSwatch (s : Block) (step layer sum : Nat) : Block :=
  match (recorded s).find? (fun e => e.typ == 5 && e.step == step && leNat (slice e.payload 0 4) == layer) with
  | some e => if leNat (slice e.payload 16 8) = sum then s else diverged s step layer
  | none => s

/-- Compare an input digest with the recorded one of the same step and address. -/
def compareInput (s : Block) (step addr : Nat) (dig : List Byte) : Block :=
  match (recorded s).find? (fun e => e.typ == 2 && e.step == step && leNat (slice e.payload 24 8) == addr) with
  | some e => if slice e.payload 32 64 = dig then s else diverged s step addr
  | none => s

/-! ### Scribe (R436) -/

/-- Scribe's running digests start from the value of the CRC register. -/
def scribeRunning (s : Block) (r : Nat) : Nat := (tget (BitVec.ofNat 64 crcInit) s.scribe.running r).toNat

/-- A transaction whose address lies in SCRIBE_EXCLUDE is left out (R436). -/
def scribeExcluded (s : Block) (a : Nat) : Bool :=
  isOwn s a && decide (odNat s 0x9200 3 ≤ rackLocal a) && decide (rackLocal a < odNat s 0x9200 3 + odNat s 0x9200 4)

/-- The newest checkpoint number of a requester: one for every 256 transactions. -/
def checkpoint (s : Block) (r : Nat) : Nat := tget 0 s.scribe.counts r / 256

/-- A mismatch at a checkpoint: alarm 0x0E; the halt follows at the next exchange (R437). -/
def scribeMismatch (s : Block) (r k : Nat) : Block :=
  { raiseAlarm s 0x0E unitNone .scribeHalt (r * 2 ^ 32 + k) with scribe := { s.scribe with mismatch := true, culprit := if s.scribe.culprit = 0 then r * 2 ^ 32 + k else s.scribe.culprit } }

/-- One transaction that a requester sends out of PD: opcode, size, address bits [40:0] and data join its digest, and every
256th stores a checkpoint, which is compared with a value already received for it. -/
def scribeNote (s : Block) (r op size addr : Nat) (data : List Byte) : Block :=
  if !s.scribe.on ∨ scribeExcluded s addr then s
  else
    let bytes := natLe 1 op ++ natLe 2 size ++ natLe 8 (addr % 2 ^ 41) ++ data
    let run := crcMore (scribeRunning s r) bytes
    let n := tget 0 s.scribe.counts r + 1
    let s := { s with scribe := { s.scribe with running := tset (BitVec.ofNat 64 crcInit) s.scribe.running r (BitVec.ofNat 64 run), counts := tset 0 s.scribe.counts r n } }
    if n % 256 ≠ 0 then s
    else
      let dig : Word := BitVec.ofNat 64 (run ^^^ (2 ^ 64 - 1))
      let ring := (tget [] s.scribe.rings r).filter (fun e => decide (n / 256 < e.1 + 64)) ++ [(n / 256, dig)]
      let held := tget [] s.scribe.heldCmp r
      let s := { s with scribe := { s.scribe with rings := tset [] s.scribe.rings r ring, heldCmp := tset [] s.scribe.heldCmp r (held.filter (fun e => e.1 != n / 256)) } }
      match held.find? (fun e => e.1 == n / 256) with
      | some e => if e.2 = dig then s else scribeMismatch s r (n / 256)
      | none => s

end Sys2Proof.Machine
end

