-- ==== Sys2Proof/Machine/PlumbQp.lean ====
section
/-! DEFINITION. The quadratic programs of Plumb (R229, R231, R234 to R237, R240): the data, the iterate, the factorisation of the KKT
matrix by the Riccati recursion, and one iteration of Mehrotra's predictor and corrector. What R235 and R237 leave open of the order
of these operations is settled here and logged (log 14). -/

namespace Sys2Proof.Machine

open Sys2Proof

/-! ### Sizes and places -/

/-- Values of an iterate, of the factor and of the data of a QP (R229, R231). -/
def qpV (d : SolveDesc) : Nat :=
  2 * (d.n1 + 1) * d.n2 + d.n1 * d.n3 + 2 * (d.n1 * (2 * d.n2 + 2 * d.n3 + d.n4) + 2 * d.n2)
def qpPhi (d : SolveDesc) : Nat := d.n1 * (d.n2 * d.n2 + d.n2 * d.n3 + d.n3 * d.n3) + d.n2 * d.n2
def qpStageMats (d : SolveDesc) : Nat :=
  2 * d.n2 * d.n2 + d.n2 * d.n3 + d.n3 * d.n3 + d.n4 * d.n2 + d.n4 * d.n3
def qpStageVecs (d : SolveDesc) : Nat := 4 * d.n2 + 3 * d.n3 + d.n4
def qpDelta (d : SolveDesc) : Nat :=
  (if d.lti then 1 else d.n1) * qpStageMats d + d.n2 * d.n2 + d.n1 * qpStageVecs d + 2 * d.n2

/-- Words of a matrix block's start, of P_N, of stage k's vectors, and of p_N and x_0. -/
def qpMats (d : SolveDesc) : Nat := (if d.lti then 1 else d.n1) * qpStageMats d
def qpMatAt (d : SolveDesc) (k : Nat) : Nat := if d.lti then 0 else k * qpStageMats d
def qpVecAt (d : SolveDesc) (k : Nat) : Nat := qpMats d + d.n2 * d.n2 + k * qpStageVecs d
def qpPn (d : SolveDesc) : Nat := qpVecAt d d.n1
def qpX0 (d : SolveDesc) : Nat := qpPn d + d.n2

/-- Places of the bounds and of d among a stage's vectors: they may be infinite (R231). -/
def qpIsBound (d : SolveDesc) (k : Nat) : Bool :=
  let v := k - qpVecAt d 0
  let o := v % qpStageVecs d
  decide (qpVecAt d 0 ≤ k) && decide (k < qpPn d) && decide (2 * d.n2 + d.n3 ≤ o)

/-- NaN anywhere, or an infinity outside the bounds and d (R231). -/
def qpBadData (d : SolveDesc) (w : List Nat) : Bool :=
  ((List.range w.length).zip w).any (fun e =>
    !finite64 e.2 && (!qpIsBound d e.1 || abs64 e.2 != 0x7FF0000000000000))

/-- HASH of the pattern (R240). -/
def qpHash (d : SolveDesc) (w : List Nat) : Nat :=
  let nz := fun (v : Nat) => abs64 v != 0
  let stage := fun (k : Nat) => ((w.drop (qpMatAt d k)).take (qpStageMats d)).map nz
  let mats := if d.lti then stage 0 else (List.range d.n1).flatMap stage
  let pn := ((w.drop (qpMats d)).take (d.n2 * d.n2)).map nz
  let vecs := (List.range d.n1).flatMap (fun k =>
    ((w.drop (qpVecAt d k + 2 * d.n2 + d.n3)).take (2 * d.n2 + 2 * d.n3 + d.n4)).map finite64)
  let all := mats ++ pn ++ vecs
  let byte := fun (k : Nat) => (List.range 8).foldl (fun a j => if all.getD (8 * k + j) false then a + 2 ^ j else a) 0
  crc64 ((List.range ((all.length + 7) / 8)).map (fun k => BitVec.ofNat 8 (byte k)))

/-- An iterate's words stand in the order R237 names them: x_0 to x_N, u_0 to u_(N−1), the costates, s, z (log 14). -/
def qpU (d : SolveDesc) : Nat := (d.n1 + 1) * d.n2
def qpS (d : SolveDesc) : Nat := 2 * (d.n1 + 1) * d.n2 + d.n1 * d.n3
def qpM (d : SolveDesc) : Nat := d.n1 * (2 * d.n2 + 2 * d.n3 + d.n4) + 2 * d.n2

/-- Bounds and d of each stage in the order of R231, one for each inequality; the last 2·nx places hold none. -/
def qpLimits (d : SolveDesc) (w : List Nat) : List Nat :=
  (List.range d.n1).flatMap (fun k => (w.drop (qpVecAt d k + 2 * d.n2 + d.n3)).take (2 * d.n2 + 2 * d.n3 + d.n4))

/-! ### Matrices and vectors of a QP -/

/-- A matrix of `r` rows and `c` columns. -/
def build (r c : Nat) (f : Nat → Nat → Num) : Tab Num :=
  (List.range c).foldl (fun m j => (List.range r).foldl (fun m i => matSet m i j (f i j)) m) []

/-- `s + Σ a_k · b_k`, k ascending. -/
def sumOver (n : Nat) (s : Num) (a b : Nat → Num) : Num := (List.range n).foldl (fun t k => fmaN (a k) (b k) t) s
/-- `s − Σ a_k · b_k`, k ascending. -/
def lessOver (n : Nat) (s : Num) (a b : Nat → Num) : Num := (List.range n).foldl (fun t k => fmsN (a k) (b k) t) s
/-- `s + Σ a_k · (b_k · c_k)`, k ascending. -/
def sumOver3 (n : Nat) (s : Num) (a b c : Nat → Num) : Num :=
  (List.range n).foldl (fun t k => (fun p => fmaN (a k) p (withN t p)) (mulN (b k) (c k))) s

/-- The same patterns, apart from the operations that formed them. -/
def bare (m : Tab Num) : Tab Num := (m.map (fun e => (e.1, num e.2.v))).filter (fun e => e.2.v != 0)
/-- Matrix of words in columns. -/
def wordsTab (v : List Nat) (start r c : Nat) : Tab Num :=
  ((List.range c).zip ((List.range c).map (fun j => (v.drop (start + j * r)).take r))).foldl (fun m e =>
    ((List.range r).zip e.2).foldl (fun m x => matSet m x.1 e.1 (num x.2)) m) []
/-- The words of a matrix, by columns. -/
def tabWords (m : Tab Num) (r c : Nat) : List Nat :=
  (List.range c).flatMap (fun j => (List.range r).map (fun i => (matGet m i j).v))
/-- Put a vector into a column. -/
def putCol (m : Tab Num) (r j : Nat) (v : Tab Num) : Tab Num := (List.range r).foldl (fun m i => matSet m i j (matGet v i 0)) m

/-- Element (i, j) of a stage's matrix that begins `off` words into its block and has `ld` rows. -/
def qpElem (d : SolveDesc) (w : List Nat) (k off ld i j : Nat) : Num := num (w.getD (qpMatAt d k + off + j * ld + i) 0)
def qpA (d : SolveDesc) (w : List Nat) (k i j : Nat) : Num := qpElem d w k 0 d.n2 i j
def qpB (d : SolveDesc) (w : List Nat) (k i j : Nat) : Num := qpElem d w k (d.n2 * d.n2) d.n2 i j
def qpQ (d : SolveDesc) (w : List Nat) (k i j : Nat) : Num := qpElem d w k (d.n2 * (d.n2 + d.n3)) d.n2 i j
def qpR (d : SolveDesc) (w : List Nat) (k i j : Nat) : Num := qpElem d w k (d.n2 * (2 * d.n2 + d.n3)) d.n3 i j
def qpC (d : SolveDesc) (w : List Nat) (k i j : Nat) : Num := qpElem d w k (d.n2 * (2 * d.n2 + d.n3) + d.n3 * d.n3) d.n4 i j
def qpD (d : SolveDesc) (w : List Nat) (k i j : Nat) : Num :=
  qpElem d w k (d.n2 * (2 * d.n2 + d.n3) + d.n3 * d.n3 + d.n4 * d.n2) d.n4 i j
/-- P_N, p_N and x_0. -/
def qpPN (d : SolveDesc) (w : List Nat) (i j : Nat) : Num := num (w.getD (qpMats d + j * d.n2 + i) 0)
def qpPnAt (d : SolveDesc) (w : List Nat) (i : Nat) : Num := num (w.getD (qpPn d + i) 0)
def qpX0At (d : SolveDesc) (w : List Nat) (i : Nat) : Num := num (w.getD (qpX0 d + i) 0)
/-- Components of q_k, r_k and c_k. -/
def qpq (d : SolveDesc) (w : List Nat) (k i : Nat) : Num := num (w.getD (qpVecAt d k + i) 0)
def qpr (d : SolveDesc) (w : List Nat) (k i : Nat) : Num := num (w.getD (qpVecAt d k + d.n2 + i) 0)
def qpc (d : SolveDesc) (w : List Nat) (k i : Nat) : Num := num (w.getD (qpVecAt d k + d.n2 + d.n3 + i) 0)

/-! ### Inequalities: those of stage k bound x_(k+1), u_k and C_k x_k + D_k u_k, each as "g ≤ h" (R231) -/

/-- Inequalities of a stage. -/
def qpNi (d : SolveDesc) : Nat := 2 * d.n2 + 2 * d.n3 + d.n4
/-- The bound or component of d that inequality r of stage k has. -/
def qpBound (d : SolveDesc) (w : List Nat) (r k : Nat) : Nat := w.getD (qpVecAt d k + 2 * d.n2 + d.n3 + r) 0
/-- Whether it is present. -/
def qpHas (d : SolveDesc) (w : List Nat) (r k : Nat) : Bool := finite64 (qpBound d w r k)
/-- h: a lower bound changes its sign. -/
def qpH (d : SolveDesc) (w : List Nat) (r k : Nat) : Num :=
  let b := num (qpBound d w r k)
  if r < d.n2 ∨ (2 * d.n2 ≤ r ∧ r < 2 * d.n2 + d.n3) then negN b else b
/-- g of (x, u): the left-hand side. -/
def qpG (d : SolveDesc) (w : List Nat) (x u : Tab Num) (r k : Nat) : Num :=
  let nx := d.n2
  let nu := d.n3
  if r < nx then negN (elemOf x r (k + 1))
  else if r < 2 * nx then elemOf x (r - nx) (k + 1)
  else if r < 2 * nx + nu then negN (elemOf u (r - 2 * nx) k)
  else if r < 2 * nx + 2 * nu then elemOf u (r - 2 * nx - nu) k
  else
    let c := r - 2 * nx - 2 * nu
    sumOver nu (sumOver nx num0 (qpC d w k c) (fun j => elemOf x j k)) (qpD d w k c) (fun j => elemOf u j k)
/-- `s` with the gradient in x_k component i of Σ t · g, and in u_k component i. -/
def qpBackX (d : SolveDesc) (w : List Nat) (t : Tab Num) (i k : Nat) (s : Num) : Num :=
  let s := if k = 0 then s else addN (subN s (elemOf t i (k - 1))) (elemOf t (d.n2 + i) (k - 1))
  if k < d.n1 then sumOver d.n4 s (fun r => qpC d w k r i) (fun r => elemOf t (2 * d.n2 + 2 * d.n3 + r) k) else s
def qpBackU (d : SolveDesc) (w : List Nat) (t : Tab Num) (i k : Nat) (s : Num) : Num :=
  let s := addN (subN s (elemOf t (2 * d.n2 + i) k)) (elemOf t (2 * d.n2 + d.n3 + i) k)
  sumOver d.n4 s (fun r => qpD d w k r i) (fun r => elemOf t (2 * d.n2 + 2 * d.n3 + r) k)
/-- A value for each present inequality. -/
def qpEach (d : SolveDesc) (w : List Nat) (f : Nat → Nat → Num) : Tab Num :=
  build (qpNi d) d.n1 (fun r k => if qpHas d w r k then f r k else num0)
/-- The present inequalities, in ascending order. -/
def qpPresent (d : SolveDesc) (w : List Nat) : List (Nat × Nat) :=
  (List.range d.n1).flatMap (fun k => ((List.range (qpNi d)).filter (fun r => qpHas d w r k)).map (fun r => (r, k)))

/-! ### The iterate (R237) -/

/-- An iterate, or a step from one: a column for each stage. -/
structure QpIter where
  x : Tab Num
  u : Tab Num
  l : Tab Num
  s : Tab Num
  z : Tab Num
deriving DecidableEq, Repr

def qpIter (d : SolveDesc) (v : List Nat) : QpIter :=
  ⟨wordsTab v 0 d.n2 (d.n1 + 1), wordsTab v (qpU d) d.n3 d.n1, wordsTab v (qpU d + d.n1 * d.n3) d.n2 (d.n1 + 1),
   wordsTab v (qpS d) (qpNi d) d.n1, wordsTab v (qpS d + qpM d) (qpNi d) d.n1⟩
def qpWords (d : SolveDesc) (y : QpIter) : List Nat :=
  let pad := List.replicate (2 * d.n2) 0
  tabWords y.x d.n2 (d.n1 + 1) ++ tabWords y.u d.n3 d.n1 ++ tabWords y.l d.n2 (d.n1 + 1) ++
    tabWords y.s (qpNi d) d.n1 ++ pad ++ tabWords y.z (qpNi d) d.n1 ++ pad
/-- The operations that formed an iterate. -/
def qpIterOps (y : QpIter) : Num := opsOf [y.x, y.u, y.l, y.s, y.z]

/-- 1 and 0.995. -/
def one64 : Nat := 0x3FF0000000000000
def nearOne : Nat := 0x3FEFD70A3D70A3D7

/-- x_k, as a column, from x_(k−1) and u_(k−1) with `c` in place of c_(k−1). -/
def qpNext (d : SolveDesc) (w : List Nat) (k : Nat) (c x u : Nat → Num) : Tab Num :=
  build d.n2 1 (fun i _ => sumOver d.n3 (sumOver d.n2 (c i) (qpA d w k i) x) (qpB d w k i) u)

/-- A cold start: x simulated from x_0 with u = 0, costates 0, each s max(h − g, 1), each z 1; a slack and a dual of an absent
inequality are 0. -/
def qpCold (d : SolveDesc) (w : List Nat) : QpIter :=
  let x := (List.range d.n1).foldl (fun x k => putCol x d.n2 (k + 1) (qpNext d w k (qpc d w k) (fun j => elemOf x j k) (fun _ => num0)))
    (build d.n2 1 (fun i _ => qpX0At d w i))
  ⟨x, [], [], qpEach d w (fun r k => (fun v => if lt64 v.v one64 then { v with v := one64 } else v) (subN (qpH d w r k) (qpG d w x [] r k))),
   qpEach d w (fun _ _ => num one64)⟩

/-- Raise every s and z of a present inequality that lies below the floor (R242). -/
def qpFloor (d : SolveDesc) (w v : List Nat) (floor : Nat) : List Nat :=
  let pres := (qpLimits d w).map finite64
  ((List.range v.length).zip v).map (fun e =>
    if e.1 < qpS d then e.2
    else if pres.getD ((e.1 - qpS d) % qpM d) false ∧ lt64 e.2 floor then floor else e.2)

/-! ### Residuals and measures (R237) -/

/-- The residuals of an iterate: dynamics and x_0, inequalities, and the gradient of the Lagrangian in x and in u. -/
structure QpRes where
  b  : Tab Num
  g  : Tab Num
  hx : Tab Num
  hu : Tab Num
deriving DecidableEq, Repr

def qpRes (d : SolveDesc) (w : List Nat) (y : QpIter) : QpRes :=
  { b := build d.n2 (d.n1 + 1) (fun i k =>
      if k = 0 then subN (qpX0At d w i) (elemOf y.x i 0)
      else subN (matGet (qpNext d w (k - 1) (qpc d w (k - 1)) (fun j => elemOf y.x j (k - 1)) (fun j => elemOf y.u j (k - 1))) i 0)
        (elemOf y.x i k)),
    g := qpEach d w (fun r k => subN (addN (qpG d w y.x y.u r k) (elemOf y.s r k)) (qpH d w r k)),
    hx := build d.n2 (d.n1 + 1) (fun i k =>
      let s := if k < d.n1 then
          sumOver d.n2 (sumOver d.n2 (qpq d w k i) (qpQ d w k i) (fun j => elemOf y.x j k)) (fun j => qpA d w k j i) (fun j => elemOf y.l j (k + 1))
        else sumOver d.n2 (qpPnAt d w i) (qpPN d w i) (fun j => elemOf y.x j k)
      qpBackX d w y.z i k (subN s (elemOf y.l i k))),
    hu := build d.n3 d.n1 (fun i k =>
      qpBackU d w y.z i k (sumOver d.n2 (sumOver d.n3 (qpr d w k i) (qpR d w k i) (fun j => elemOf y.u j k)) (fun j => qpB d w k j i)
        (fun j => elemOf y.l j (k + 1)))) }

/-- Whether a pattern is a NaN. -/
def isNan64 (v : Nat) : Bool := d64 v == .nan
/-- Whether a ≤ b: false of a NaN. -/
def le64 (a b : Nat) : Bool := fvLt (d64 a) (d64 b) || fvEq (d64 a) (d64 b)
/-- The larger of two; a NaN stays. -/
def maxNan (a b : Nat) : Nat := if isNan64 a then a else if isNan64 b then b else if lt64 a b then b else a
/-- ‖·‖∞; a NaN stays. -/
def normInf (ms : List (Tab Num)) : Nat := ms.foldl (fun a m => m.foldl (fun a e => maxNan a (abs64 e.2.v)) a) 0
/-- 1 + the largest magnitude among values. -/
def onePlus (l : List Nat) : Num := addN (num one64) (num (l.foldl maxMag 0))

/-- RP, RD, MU and the merit of an iterate, and the operations that formed them. -/
structure QpMeas where
  rp    : Nat
  rd    : Nat
  mu    : Nat
  merit : Nat
  ops   : Num
deriving DecidableEq, Repr

/-- MU = sᵀz / m, or 0 when no inequality is present. -/
def qpMu (d : SolveDesc) (w : List Nat) (s z : Tab Num) : Num :=
  let l := qpPresent d w
  if l.isEmpty then num0
  else divN (l.foldl (fun t e => fmaN (elemOf s e.1 e.2) (elemOf z e.1 e.2) t) num0) (num (fpRound fp64 (fvInt (l.length : Int) 0)).val)

def qpMeas (d : SolveDesc) (w : List Nat) (y : QpIter) : QpMeas :=
  let r := qpRes d w y
  let vecs := fun (off n : Nat) => (List.range d.n1).flatMap (fun k => (w.drop (qpVecAt d k + off)).take n)
  let pn := (w.drop (qpPn d)).take d.n2
  let x0 := (w.drop (qpX0 d)).take d.n2
  let rp := divN (num (normInf [r.b, r.g])) (onePlus (vecs (d.n2 + d.n3) d.n2 ++ x0 ++ (qpLimits d w).filter finite64))
  let rd := divN (num (normInf [r.hx, r.hu])) (onePlus (vecs 0 (d.n2 + d.n3) ++ pn))
  let mu := qpMu d w y.s y.z
  ⟨rp.v, rd.v, mu.v, maxNan (maxNan rp.v rd.v) mu.v, withN (withN (withN (opsOf [r.b, r.g, r.hx, r.hu]) rp) rd) mu⟩

/-! ### The factorisation of K (R234, R235) -/

/-- The thresholds latched for a SOLVE, with ‖A‖_max's τ. -/
structure QpThr where
  tau    : Nat
  delta  : Nat
  deltaP : Nat
  deltaD : Nat
deriving DecidableEq, Repr

/-- Pivots of a further block, whose first pivot has the index `off`. -/
def pivotsJoin (a b : Pivots) (off : Nat) : Pivots :=
  ⟨a.count + b.count, if a.count = 0 ∧ b.count ≠ 0 then b.first + off else a.first, if lt64 b.small a.small then b.small else a.small,
   a.bad || b.bad⟩

/-- A factorisation: for each stage the Cholesky factor L of R_k + B_kᵀ P_(k+1) B_k and W = L⁻¹(B_kᵀ P_(k+1) A_k), for each stage and
the terminal block the damped P, the pivots, and the operations. -/
structure QpFac where
  l   : List (Tab Num)
  w   : List (Tab Num)
  p   : List (Tab Num)
  piv : Pivots
  ops : Num
deriving DecidableEq, Repr

/-- Σ of each present inequality. -/
def qpSigma (d : SolveDesc) (w : List Nat) (y : QpIter) : Tab Num := qpEach d w (fun r k => divN (elemOf y.z r k) (elemOf y.s r k))

/-- Blocks of H + Σ + δ_p·I: in x_k, in u_k, and between u_k and x_k. -/
def qpHxx (d : SolveDesc) (w : List Nat) (th : QpThr) (sg : Tab Num) (k i j : Nat) : Num :=
  let s := if k < d.n1 then qpQ d w k i j else qpPN d w i j
  let s := if i = j then addN s (num th.deltaP) else s
  let s := if i = j ∧ k ≠ 0 then addN (addN s (elemOf sg i (k - 1))) (elemOf sg (d.n2 + i) (k - 1)) else s
  if k < d.n1 then
    sumOver3 d.n4 s (fun r => qpC d w k r i) (fun r => elemOf sg (2 * d.n2 + 2 * d.n3 + r) k) (fun r => qpC d w k r j)
  else s
def qpHuu (d : SolveDesc) (w : List Nat) (th : QpThr) (sg : Tab Num) (k i j : Nat) : Num :=
  let s := qpR d w k i j
  let s := if i = j then addN (addN (addN s (num th.deltaP)) (elemOf sg (2 * d.n2 + i) k)) (elemOf sg (2 * d.n2 + d.n3 + i) k) else s
  sumOver3 d.n4 s (fun r => qpD d w k r i) (fun r => elemOf sg (2 * d.n2 + 2 * d.n3 + r) k) (fun r => qpD d w k r j)
def qpHux (d : SolveDesc) (w : List Nat) (sg : Tab Num) (k i j : Nat) : Num :=
  sumOver3 d.n4 num0 (fun r => qpD d w k r i) (fun r => elemOf sg (2 * d.n2 + 2 * d.n3 + r) k) (fun r => qpC d w k r j)

/-- (I + δ_d · P)⁻¹ · P: what −δ_d·I in the block of the dynamics makes of P. -/
def qpDamp (nx deltaD : Nat) (p : Tab Num) : Tab Num × Num :=
  let m := build nx nx (fun i j => fmaN (num deltaD) (elemOf p i j) (if i = j then num one64 else num0))
  -- No threshold: these are no pivots of R235.
  let l := (cholesky nx (fun _ => 0) 0xFFF0000000000000 0 m).1
  let b := bare l
  let x := (List.range nx).flatMap (fun c => lowerTSolve nx (fun _ => 0) false b (lowerSolve nx (fun _ => 0) false b p c) c)
  (x, opsOf [l, x])

/-- The terminal block: its factor, and P_N damped. -/
def qpTerminal (d : SolveDesc) (w : List Nat) (th : QpThr) (sg : Tab Num) : QpFac :=
  let nx := d.n2
  let (l, piv) := cholesky nx (fun _ => 0) th.tau th.delta (build nx nx (qpHxx d w th sg d.n1))
  let p := build nx nx (fun i j => sumOver (min i j + 1) num0 (elemOf l i) (elemOf l j))
  let (pt, ops) := qpDamp nx th.deltaD (bare p)
  ⟨[], [], [bare pt], pivotsJoin pivots0 piv (d.n1 * d.n3), withN (opsOf [l, p]) ops⟩

/-- Stage `k`, below the stages done. -/
def qpStage (d : SolveDesc) (w : List Nat) (th : QpThr) (sg : Tab Num) (f : QpFac) (k : Nat) : QpFac :=
  if f.piv.bad then f
  else
    let nx := d.n2
    let nu := d.n3
    let pt := f.p.headD []
    let pa := build nx nx (fun i j => sumOver nx num0 (elemOf pt i) (fun m => qpA d w k m j))
    let pb := build nx nu (fun i j => sumOver nx num0 (elemOf pt i) (fun m => qpB d w k m j))
    let re := build nu nu (fun i j => sumOver nx (qpHuu d w th sg k i j) (fun m => qpB d w k m i) (fun m => elemOf pb m j))
    let fx := build nu nx (fun i j => sumOver nx (qpHux d w sg k i j) (fun m => qpB d w k m i) (fun m => elemOf pa m j))
    let (l, piv) := cholesky nu (fun _ => 0) th.tau th.delta re
    let wk := (List.range nx).flatMap (lowerSolve nu (fun _ => 0) false l fx)
    let p := build nx nx (fun i j =>
      lessOver nu (sumOver nx (qpHxx d w th sg k i j) (fun m => qpA d w k m i) (fun m => elemOf pa m j)) (fun r => elemOf wk r i)
        (fun r => elemOf wk r j))
    let (pt, ops) := qpDamp nx th.deltaD (bare p)
    ⟨bare l :: f.l, bare wk :: f.w, bare pt :: f.p, pivotsJoin f.piv piv (k * nu), withN (withN f.ops (opsOf [pa, pb, l, wk, p])) ops⟩

/-- Factor K: the terminal block, then the stages from the last to the first. -/
def qpFactor (d : SolveDesc) (w : List Nat) (th : QpThr) (sg : Tab Num) : QpFac :=
  (List.range d.n1).reverse.foldl (qpStage d w th sg) (qpTerminal d w th sg)

/-- The words of a factorisation, and the factorisation that words hold: L, W and P of each stage, then P_N. -/
def qpFacWords (d : SolveDesc) (f : QpFac) : List Nat :=
  (List.range d.n1).flatMap (fun k => tabWords (f.l.getD k []) d.n3 d.n3 ++ tabWords (f.w.getD k []) d.n3 d.n2 ++
    tabWords (f.p.getD k []) d.n2 d.n2) ++ tabWords (f.p.getD d.n1 []) d.n2 d.n2
def qpFacOf (d : SolveDesc) (v : List Nat) : QpFac :=
  let n := d.n3 * d.n3 + d.n3 * d.n2 + d.n2 * d.n2
  ⟨(List.range d.n1).map (fun k => wordsTab v (k * n) d.n3 d.n3),
   (List.range d.n1).map (fun k => wordsTab v (k * n + d.n3 * d.n3) d.n3 d.n2),
   (List.range (d.n1 + 1)).map (fun k => wordsTab v (if k < d.n1 then k * n + d.n3 * d.n3 + d.n3 * d.n2 else d.n1 * n) d.n2 d.n2),
   pivots0, num0⟩

/-! ### Directions -/

/-- The backward sweep: p of the stage above, and of each stage done the damped p above it and y = L⁻¹(…). -/
structure QpBack where
  p   : Tab Num
  ps  : List (Tab Num)
  ys  : List (Tab Num)
  ops : Num
deriving DecidableEq, Repr

/-- p less δ_d · P · p, P damped. -/
def qpDampVec (nx deltaD : Nat) (pt p : Tab Num) : Tab Num :=
  build nx 1 (fun i _ => (fun t => fmsN (num deltaD) t (withN (elemOf p i 0) t)) (sumOver nx num0 (elemOf pt i) (fun j => elemOf p j 0)))

def qpBackStage (d : SolveDesc) (w : List Nat) (deltaD : Nat) (f : QpFac) (b hx hu : Tab Num) (a : QpBack) (k : Nat) : QpBack :=
  let nx := d.n2
  let nu := d.n3
  let pt := f.p.getD (k + 1) []
  let wk := f.w.getD k []
  let ps := qpDampVec nx deltaD pt a.p
  let h := build nx 1 (fun i _ => sumOver nx (elemOf ps i 0) (elemOf pt i) (fun j => elemOf b j (k + 1)))
  let fu := build nu 1 (fun i _ => sumOver nx (elemOf hu i k) (fun j => qpB d w k j i) (fun j => elemOf h j 0))
  let y := lowerSolve nu (fun _ => 0) false (f.l.getD k []) fu 0
  let p := build nx 1 (fun i _ => lessOver nu (sumOver nx (elemOf hx i k) (fun j => qpA d w k j i) (fun j => elemOf h j 0))
    (fun r => elemOf wk r i) (fun r => elemOf y r 0))
  ⟨p, ps :: a.ps, y :: a.ys, withN a.ops (opsOf [ps, h, y, p])⟩

/-- The forward sweep's step: dx, du and the step of the costates so far. -/
structure QpFore where
  x   : Tab Num
  u   : Tab Num
  l   : Tab Num
  ops : Num
deriving DecidableEq, Repr

/-- Column `k` of dx and dλ, where dx + δ_d · dλ is `v` and dλ = P · v + p. -/
def qpForeCol (d : SolveDesc) (deltaD : Nat) (pt ps v : Tab Num) (a : QpFore) (k : Nat) : QpFore :=
  let dl := build d.n2 1 (fun i _ => sumOver d.n2 (elemOf ps i 0) (elemOf pt i) (fun j => elemOf v j 0))
  let dx := build d.n2 1 (fun i _ => fmsN (num deltaD) (elemOf dl i 0) (elemOf v i 0))
  { a with x := putCol a.x d.n2 k dx, l := putCol a.l d.n2 k dl }

def qpForeStage (d : SolveDesc) (w : List Nat) (deltaD : Nat) (f : QpFac) (b : Tab Num) (back : QpBack) (a : QpFore) (k : Nat) : QpFore :=
  let wk := f.w.getD k []
  let y := back.ys.getD k []
  let r := build d.n3 1 (fun i _ => sumOver d.n2 (elemOf y i 0) (elemOf wk i) (fun j => elemOf a.x j k))
  let t := lowerTSolve d.n3 (fun _ => 0) false (f.l.getD k []) r 0
  let du := build d.n3 1 (fun i _ => negN (matGet t i 0))
  let v := qpNext d w k (fun i => elemOf b i (k + 1)) (fun j => elemOf a.x j k) (fun j => elemOf du j 0)
  qpForeCol d deltaD (f.p.getD (k + 1) []) (back.ps.getD (k + 1) []) v
    { a with u := putCol a.u d.n3 k du, ops := withN a.ops (opsOf [v]) } (k + 1)

/-- Solve with the factorisation for the gradient (hx, hu) and the residual b. -/
def qpSolve (d : SolveDesc) (w : List Nat) (deltaD : Nat) (f : QpFac) (b hx hu : Tab Num) : QpFore :=
  let back := (List.range d.n1).reverse.foldl (qpBackStage d w deltaD f b hx hu)
    ⟨build d.n2 1 (fun i _ => elemOf hx i d.n1), [], [], num0⟩
  let ps := qpDampVec d.n2 deltaD (f.p.getD 0 []) back.p
  let back := { back with ps := ps :: back.ps, ops := withN back.ops (opsOf [ps]) }
  let start := qpForeCol d deltaD (f.p.getD 0 []) ps (build d.n2 1 (fun i _ => elemOf b i 0)) ⟨[], [], [], back.ops⟩ 0
  (List.range d.n1).foldl (qpForeStage d w deltaD f b back) start

/-- The Newton step whose complementarity residual is `rc`, and the operations that formed it. -/
def qpDirection (d : SolveDesc) (w : List Nat) (deltaD : Nat) (f : QpFac) (y : QpIter) (r : QpRes) (sg rc : Tab Num) : QpIter × Num :=
  let t := qpEach d w (fun i k => divN (fmaN (elemOf y.z i k) (elemOf r.g i k) (negN (elemOf rc i k))) (elemOf y.s i k))
  let hx := build d.n2 (d.n1 + 1) (fun i k => qpBackX d w t i k (elemOf r.hx i k))
  let hu := build d.n3 d.n1 (fun i k => qpBackU d w t i k (elemOf r.hu i k))
  let q := qpSolve d w deltaD f r.b hx hu
  let e := qpEach d w (qpG d w q.x q.u)
  let y : QpIter := ⟨q.x, q.u, q.l, qpEach d w (fun i k => negN (addN (elemOf r.g i k) (elemOf e i k))),
    qpEach d w (fun i k => fmaN (elemOf sg i k) (elemOf e i k) (elemOf t i k))⟩
  (y, withN (withN (opsOf [t, hx, hu, e]) q.ops) (qpIterOps y))

/-! ### One iteration (R237) -/

/-- The multiple of a step at which s or z first reaches 0; +∞ when none does. -/
def qpReach (d : SolveDesc) (w : List Nat) (y dy : QpIter) : Nat :=
  let least := fun (a v dv : Nat) => if lt64 dv 0 then (fun q => if lt64 q a then q else a) (div64 v (neg64 dv)) else a
  (qpPresent d w).foldl (fun a e =>
    least (least a (matGet y.s e.1 e.2).v (matGet dy.s e.1 e.2).v) (matGet y.z e.1 e.2).v (matGet dy.z e.1 e.2).v) 0x7FF0000000000000

/-- An iterate moved by a multiple of a step. -/
def qpMove (d : SolveDesc) (w : List Nat) (a : Nat) (y dy : QpIter) : QpIter :=
  let go := fun (m dm : Tab Num) (r c : Nat) => build r c (fun i j => fmaN (num a) (elemOf dm i j) (elemOf m i j))
  let each := fun (m dm : Tab Num) => qpEach d w (fun i j => fmaN (num a) (elemOf dm i j) (elemOf m i j))
  ⟨go y.x dy.x d.n2 (d.n1 + 1), go y.u dy.u d.n3 d.n1, go y.l dy.l d.n2 (d.n1 + 1), each y.s dy.s, each y.z dy.z⟩

/-- The smaller of a step and 1. -/
def atMost1 (a : Nat) : Nat := if lt64 a one64 then a else one64

/-- The step of an iteration with a factorisation in hand: the predictor, σ = (μ of the predictor / μ)³, the corrector, and 0.995 of the
distance to the boundary. -/
def qpAdvance (d : SolveDesc) (w : List Nat) (deltaD : Nat) (f : QpFac) (y : QpIter) : QpIter × Num :=
  let r := qpRes d w y
  let sg := qpSigma d w y
  let rc := qpEach d w (fun i k => mulN (elemOf y.s i k) (elemOf y.z i k))
  let (pre, o1) := qpDirection d w deltaD f y r sg rc
  let aff := qpMove d w (atMost1 (qpReach d w y pre)) y pre
  let mu := qpMu d w y.s y.z
  let muA := qpMu d w aff.s aff.z
  let ratio := divN (num muA.v) (num mu.v)
  let target := if abs64 mu.v = 0 then num0 else mulN (mulN (mulN ratio (num ratio.v)) (num ratio.v)) (num mu.v)
  let rc2 := qpEach d w (fun i k => subN (fmaN (elemOf pre.s i k) (elemOf pre.z i k) (elemOf rc i k)) (num target.v))
  let (cor, o2) := qpDirection d w deltaD f y r sg rc2
  let y1 := qpMove d w (atMost1 (mul64 nearOne (qpReach d w y cor))) y cor
  (y1, [qpIterOps aff, mu, muA, target, o2, qpIterOps y1, opsOf [r.b, r.g, r.hx, r.hu, sg, rc, rc2]].foldl withN o1)

end Sys2Proof.Machine
end

