-- ==== Sys2Proof/Machine/Plumb.lean ====
section
/-! DEFINITION. The Plumb solver engine: SOLVE and its checks (R221 to R231), problems and their endings (R226, R234 to
R238, R240 to R246), deadlines (R243, R245). -/

namespace Sys2Proof.Machine

open Sys2Proof

/-! ### The descriptor (R227) -/

def solveDesc (v : Nat) : SolveDesc :=
  let w := fun (k : Nat) => blkNat v k 8
  { cls := bits v 0 4, op := bits v 4 2, regset := bits v 6 2, warm := bit v 8, cont := bit v 9, early := bit v 10,
    lti := bit v 11, depth := bits v 12 2, count := bits v 16 16 + 1, n1 := bits v 32 16, n2 := bits v 48 16,
    n3 := bits v 64 8, n4 := bits v 72 8, maxit := bits v 80 10,
    abase := w 16, astride := w 24, bbase := w 32, bstride := w 40, xbase := w 48, xstride := w 56,
    fbase := w 64, fstride := w 72, wbase := w 80, wstride := w 88, rbase := w 96,
    deadline := BitVec.ofNat 64 (w 104), tol := BitVec.ofNat 64 (w 112) }

/-- Reserved bits and encodings of a descriptor (R15, R227). -/
def solveReserved (v : Nat) (d : SolveDesc) : Bool :=
  bits v 14 2 != 0 || bits v 90 38 != 0 || blkNat v 120 8 != 0 || d.cls == 0 || decide (7 < d.cls) || d.op == 3 ||
    (d.cls == 7 && d.op != 0) ||
    [d.abase, d.bbase, d.xbase, d.fbase, d.wbase, d.rbase].any (fun b => decide (2 ^ 48 ≤ b)) ||
    [d.astride, d.bstride, d.xstride, d.fstride, d.wstride].any (fun b => decide (2 ^ 40 ≤ b))

/-- Right-hand sides: none when only a factor is asked for. -/
def rhsOf (d : SolveDesc) : Nat := if d.op = 1 then 0 else d.n3 + 1
/-- Order of the matrix. -/
def orderOf (d : SolveDesc) : Nat := if d.cls = 6 then (d.n2 + 1) * d.n1 else d.n1
/-- Workspace footprint of a problem (R229). -/
def footprint (d : SolveDesc) : Nat :=
  let n := d.n1
  let r := rhsOf d
  match d.cls with
  | 1 => 8 * n * n + 16 * n + 8 * n * r
  | 2 => 8 * n * n + 16 * n + 8 * n * r
  | 3 => 8 * n * n + 20 * n + 8 * n * r
  | 4 => 8 * (d.n2 + 1) * n + 8 * n + 8 * n * r
  | 5 => 8 * (3 * d.n2 + 1) * n + 12 * n + 8 * n * r
  | 6 => 16 * (d.n2 + 1) * n * n + 8 * (d.n2 + 1) * n * r
  | _ => 64 + 8 * (3 * qpV d + qpPhi d + qpDelta d)

/-- Bytes of a problem's A region, of its B and X regions, and of its F region (R230, R231, R244). -/
def aBytes (d : SolveDesc) : Nat :=
  let n := d.n1
  match d.cls with
  | 4 => 8 * (d.n2 + 1) * n
  | 5 => 8 * (2 * d.n2 + 1) * n
  | 6 => 8 * (2 * d.n2 + 1) * n * n
  | 7 => 8 * qpDelta d
  | _ => 8 * n * n
def bBytes (d : SolveDesc) : Nat := if d.cls = 7 then 8 * d.n3 else 8 * orderOf d * rhsOf d
def fBytes (d : SolveDesc) : Nat :=
  let n := d.n1
  match d.cls with
  | 1 => 4 * n * (n + 1)
  | 2 => 4 * n * (n + 1)
  | 3 => 8 * n * n + 4 * n
  | 4 => 8 * (d.n2 + 1) * n
  | 5 => 8 * (3 * d.n2 + 1) * n + 4 * n
  | 6 => 8 * (2 * d.n2 + 1) * n * n
  | _ => 0

/-- Regions of a problem that its class and OP use: base, stride, bytes, and whether Plumb writes it. -/
def regionsOf (d : SolveDesc) : List (Nat × Nat × Nat × Bool) :=
  (if d.op = 2 then [] else [(d.abase, d.astride, aBytes d, false)]) ++
    (if d.cls = 7 ∨ d.op = 1 then [] else [(d.bbase, d.bstride, bBytes d, false)]) ++
    (if d.op = 1 then [] else [(d.xbase, d.xstride, bBytes d, true)]) ++
    (if d.cls = 7 then [] else [(d.fbase, d.fstride, fBytes d, d.op != 2)]) ++
    [(d.rbase, 64, 64, true)]

/-! ### Placement (R222, R223) -/

/-- Clusters of each group, and whether a group is in PIPE. -/
def groupSize (s : Block) : Nat := 64 / plumbGroups s
def groupPipe (s : Block) (g : Nat) : Bool := odNat s 0x5101 (g + 1) == 1
/-- Problems a cluster keeps in flight. -/
def inFlightMax (s : Block) (d : SolveDesc) : Nat :=
  if d.cls = 7 then (d.count + groupSize s - 1) / groupSize s else d.depth + 1

/-- Workspace address of problem `i`. -/
def workAt (s : Block) (g : Nat) (d : SolveDesc) (i : Nat) : Nat :=
  if groupPipe s g then d.wbase + i * d.wstride
  else
    let n := groupSize s
    let k := inFlightMax s d
    d.wbase + (i % n) * 0x100000 + (if d.cls = 7 then i / n else i / n % k) * d.wstride

/-- First byte of the local store of a cluster, module-local. -/
def storeBase (c : Nat) : Nat := plumbBase + c * 0x100000

/-- The problems whose workspaces differ: those a BATCH keeps in flight at once, or all of a PIPE. -/
def workProblems (s : Block) (g : Nat) (d : SolveDesc) : List Nat :=
  List.range (if groupPipe s g then d.count else min d.count (groupSize s * inFlightMax s d))

/-- Every workspace, with its footprint, lies where R222 or R223 lets it lie. -/
def workFits (s : Block) (g : Nat) (d : SolveDesc) : Bool :=
  let n := groupSize s
  let first := g * n
  let fp := footprint d
  isOwn s d.wbase &&
    (groupPipe s g ||
      (decide (storeBase first ≤ rackLocal d.wbase) && decide (rackLocal d.wbase < storeBase (first + 1)))) &&
    (workProblems s g d).all (fun i =>
      let a := rackLocal (workAt s g d i)
      let c := if groupPipe s g then first else first + i % n
      let hi := if groupPipe s g then storeBase (first + n) else storeBase (c + 1)
      decide (storeBase c ≤ a) && decide (a + fp ≤ hi))

/-- The limits of R229 and the field rules of R228. -/
def limitsOk (s : Block) (g : Nat) (d : SolveDesc) : Bool :=
  let n := d.n1
  (match d.cls with
    | 4 => decide (1 ≤ n) && decide (d.n2 ≤ 64) && decide (d.n2 < n)
    | 5 => decide (1 ≤ n) && decide (d.n2 ≤ 64) && decide (d.n2 < n)
    | 6 => decide (1 ≤ n) && decide (n ≤ 64)
    | 7 => decide (1 ≤ n) && decide (n ≤ 256) && decide (1 ≤ d.n2) && decide (d.n2 ≤ 64) && decide (1 ≤ d.n3) &&
        decide (d.n3 ≤ 32) && decide (d.n4 ≤ 64) && decide (1 ≤ d.maxit) && decide (d.maxit ≤ 1000)
    | _ => decide (1 ≤ n) && decide (n ≤ 2048)) &&
  (d.cls == 7 || (!d.warm && !d.cont && !d.early && !d.lti && d.n4 == 0 && d.maxit == 0 && d.tol == 0)) &&
  (d.op != 1 || d.n3 == 0) &&
  (!(d.cls == 7 || groupPipe s g) || d.depth == 0) &&
  (d.cls != 7 || groupPipe s g || decide (inFlightMax s d ≤ 4)) &&
  decide (footprint d ≤ d.wstride) && workFits s g d

/-- Bases and strides are aligned and lie in the module's own HBM or the local stores (R227). -/
def placesOk (s : Block) (d : SolveDesc) : Bool :=
  d.wbase % 64 == 0 && d.rbase % 64 == 0 && d.wstride % 64 == 0 &&
  (regionsOf d).all (fun r =>
    let l := rackLocal r.1
    let n := (d.count - 1) * r.2.1 + r.2.2.1
    r.1 % 8 == 0 && r.2.1 % 8 == 0 && isOwn s r.1 &&
      (inHbm l n || (decide (plumbBase ≤ l) && decide (l + n ≤ plumbBase + 0x4000000))))

/-- Span of a region over all problems. -/
def regionSpan (d : SolveDesc) (r : Nat × Nat × Nat × Bool) : Span := ⟨r.1, r.1 + (d.count - 1) * r.2.1 + r.2.2.1⟩
/-- Span of the workspaces: from the first byte of problem 0's to the last of problem COUNT − 1's (R228). -/
def workSpan (s : Block) (g : Nat) (d : SolveDesc) : Span :=
  ⟨workAt s g d 0, workAt s g d (d.count - 1) + footprint d⟩

/-- No written region meets another, or A or B (R228). -/
def regionsApart (s : Block) (g : Nat) (d : SolveDesc) : Bool :=
  let w := workSpan s g d
  let rs := regionsOf d
  let wr := (rs.filter (fun r => r.2.2.2)).map (regionSpan d)
  let ro := (rs.filter (fun r => !r.2.2.2)).map (regionSpan d)
  (w :: wr).all (fun x => ro.all (fun y => !meets x y)) &&
    ((List.range (w :: wr).length).all (fun i => (List.range i).all (fun j =>
      !meets ((w :: wr).getD i ⟨0, 0⟩) ((w :: wr).getD j ⟨0, 0⟩))))

/-! ### The SOLVE in progress -/

def prob0 : ProbSt := ⟨none, false, 0, false, 0, 0, 0, false, false, 0, 0xFFFFFFFF, 0, 0, 0, 0⟩
def solveAt (s : Block) (g : Nat) : Option SolveSt := (s.plumb.find? (fun e => e.1 == g)).map (·.2)
def solvePut (s : Block) (g : Nat) (v : Option SolveSt) : Block :=
  let rest := s.plumb.filter (fun e => e.1 != g)
  match v with
  | none => { s with plumb := rest }
  | some x => { s with plumb := rest.filter (fun e => decide (e.1 < g)) ++ [(g, x)] ++ rest.filter (fun e => decide (g < e.1)) }
def probAt (x : SolveSt) (i : Nat) : ProbSt := tget prob0 x.probs i
def probPut (x : SolveSt) (i : Nat) (p : ProbSt) : SolveSt := { x with probs := tset prob0 x.probs i p }

/-- Whether problem `i` may come into flight: not ended, with fewer than k problems of its cluster ahead of it (R222, R223). -/
def mayFly (s : Block) (g : Nat) (x : SolveSt) (i : Nat) : Bool :=
  (probAt x i).ended.isNone &&
    (if groupPipe s g then (List.range i).all (fun j => (probAt x j).ended.isSome)
     else
       let n := groupSize s
       decide ((((List.range i).filter (fun j => j % n == i % n && (probAt x j).ended.isNone))).length < inFlightMax s x.desc))

/-- Problems that may start start, each at the hall time `t`. -/
def launchProblems (s : Block) (g : Nat) (t : Word) (x : SolveSt) : SolveSt :=
  ((List.range x.desc.count).filter (fun i => !(probAt x i).started && mayFly s g x i)).foldl
    (fun y i => probPut y i { probAt y i with started := true, mark := t }) x

/-- Whether problem `i` is in flight: started, and not ended. -/
def inFlight (x : SolveSt) (i : Nat) : Bool := decide (i < x.desc.count) && (probAt x i).started && (probAt x i).ended.isNone

/-- A unit number for a problem's cluster. -/
def probUnit (s : Block) (g i : Nat) : Nat :=
  let n := groupSize s
  unitPlumb (g * n + (if groupPipe s g then 0 else i % n))

/-- SOLVE begins: the descriptor's checks, then the thresholds are latched (R226 to R229, R234). -/
def beginSolve (g : Nat) (s : Block) (c : CmdSlot) : Began :=
  let a := cmdBlock c.word
  let go : Except Stop SolveDesc := do
    need (seqMem s (512 + g) a 128) .badAddress
    let v ← readLe s (512 + g) a 128
    let d := solveDesc v
    need (!solveReserved v d) .malformed
    need (limitsOk s g d) .plumbDesc
    need (placesOk s d) .badAddress
    need (regionsApart s g d) .layoutOverlap
    return d
  match go with
  | .error e => .stop s e
  | .ok d =>
    let od := fun (k : Nat) => BitVec.ofNat 64 (odNat s 0x5110 (5 * d.regset + k))
    let x : SolveSt := ⟨c.idx, d, [], od 1, od 2, od 3, od 4, od 5⟩
    -- 200 clk600 cycles of setup are 333 ns and a third (R247).
    .go (scribeNote (solvePut (touchPieces s 0 [(a, 128)]) g (some (launchProblems s g (hallNow s + 333) x))) (96 + g) (Config.scribeOpcode 4 d.cls) 128 a
      (memRead s (rackLocal a) 128)) .ok false

/-- SOLVE (R226): it starts when every earlier command of the stream has completed. -/
def execSolve (g : Fin 16) (s : State) : Host.Outcome State Fault Refusal := onBlock s fun s =>
  .next (startQueued s (512 + g.val) (fun w => cmdOpcode w == 0x20) (beginSolve g.val))

/-! ### Result entries and the end of a SOLVE -/

/-- The result entry of R246. -/
def resultBytes (s : Block) (st : Status) (slot : Nat) (p : ProbSt) (sig rp rd mu : Nat) : List Byte :=
  natLe 2 (statusCode st) ++ natLe 2 ((if p.warmRej then 1 else 0) + 2 * slot + (if p.fcache then 8 else 0)) ++
    natLe 2 p.iter ++ natLe 2 0 ++ natLe 4 p.regCount ++ natLe 4 p.firstReg ++ natLe 2 p.firstIt ++ natLe 6 0 ++
    natLe 8 sig ++ natLe 8 rp ++ natLe 8 rd ++ natLe 8 mu ++ natLe 8 (hallNat s)

/-- Write to an own rack address. -/
def plumbWrite (s : Block) (a : Nat) (bs : List Byte) : Block := innerWrite s none 0 (rackLocal a) bs

/-- End problem `i` with a status: its result entry, counts and ledger entry. -/
def endProblem (s : Block) (g i : Nat) (st : Status) (p : ProbSt) (slot sig rp rd mu : Nat) : Block :=
  match solveAt s g with
  | none => s
  | some x =>
    let s := plumbWrite s (x.desc.rbase + 64 * i) (resultBytes s st slot p sig rp rd mu)
    let s := solvePut s g (some (probPut x i { p with ended := some st }))
    let s := if st = .deadline ∨ st = .deadlineMid then
        let s := report (odBump s 0x5130 2 1) (probUnit s g i) 3 1 st i
        ledgerPut s 6 (natLe 1 g ++ natLe 1 0 ++ natLe 2 (statusCode st) ++ natLe 4 i ++ natLe 8 (seqAt s (512 + g)).n ++
          natLe 2 p.iter)
      else s
    if p.regCount = 0 then s
    else countEvent (odBump s 0x5130 1 p.regCount) (probUnit s g i) 2 p.regCount

/-- Open values of 64 bits (R5, log 2). -/
def openWords (s : Block) (n : Nat) : Block × List Nat :=
  (List.range n).foldl (fun a _ => ((freeNext a.1).2, a.2 ++ [openValue a.1 0 64])) (s, [])

/-- End a problem that has no result: RP and RD of its entry are not stated, nor MU of a QP, nor SIG of a QP whose data was not loaded;
a QP returns no iterate (R226, R243, R245, R246). -/
def endEmpty (s : Block) (g i : Nat) (d : SolveDesc) (st : Status) (p : ProbSt) : Block :=
  let (s, w) := openWords s 4
  let q := d.cls == 7
  endProblem s g i st p (if q then 3 else 0) (if q then (if p.begun then p.hash.toNat else w.getD 3 0) else 0) (w.getD 0 0) (w.getD 1 0)
    (if q then w.getD 2 0 else 0)

/-- Outcomes that let a SOLVE's stream go on (R226). -/
def goesOn (d : SolveDesc) (st : Status) : Bool :=
  st == .ok || st == .regularised ||
    (d.cls == 7 && d.cont && (st == .deadline || st == .deadlineMid || st == .qpMaxiter || st == .qpInfeasible))

/-- The statuses of the problems that have ended, in problem order. -/
def endings (x : SolveSt) : List (Nat × Status) :=
  x.probs.filterMap (fun e => e.2.ended.map (fun st => (e.1, st)))

/-- After an ending that stops the stream, problems not yet started are not run, and otherwise those that now may start do; when every
problem has ended, the SOLVE completes or stops its stream (R226). `cut` is the status a deadline of another class gives the stream
(R245). -/
def solveSettle (s : Block) (g : Nat) (cut : Option Status) : Block :=
  match solveAt s g with
  | none => s
  | some x0 =>
    let bad := (endings x0).any (fun e => !goesOn x0.desc e.2)
    let rest := (List.range x0.desc.count).filter (fun i => (probAt x0 i).ended.isNone && !(probAt x0 i).started)
    let s := if bad then rest.foldl (fun s i => endEmpty s g i x0.desc .notStarted prob0) s
      else if rest.isEmpty then s
      else solvePut s g (some (launchProblems s g (hallNow s) x0))
    match solveAt s g with
    | none => s
    | some x =>
      if (List.range x.desc.count).any (fun i => (probAt x i).ended.isNone) then s
      else
        let q := 512 + g
        let s := solvePut s g none
        let es := endings x
        let stop := es.find? (fun e => !goesOn x.desc e.2)
        match (seqAt s q).stream.bind (fun st => st.win.find? (fun c => c.idx == x.idx)) with
        | none => s
        | some c =>
          match stop with
          | some e => stopSlot s q c ⟨cut.getD e.2, e.1⟩
          | none =>
            let warn := ((es.find? (fun e => e.2 != .ok)).map (·.2)).getD .ok
            completeSlot (warnStream s q warn) q x.idx

/-! ### Factor classes -/

/-- F64 value at own rack address. -/
def f64At (s : Block) (a : Nat) : Nat := memLe s (rackLocal a) 8

/-- First stored column of a row of L. -/
def firstCol (d : SolveDesc) (i : Nat) : Nat :=
  match d.cls with
  | 4 => i - d.n2
  | 6 => (i / d.n1 - 1) * d.n1
  | _ => 0

/-- Address in the A region of element (i, j), where the class stores it (R230). -/
def aPlace (d : SolveDesc) (base i j : Nat) : Option Nat :=
  let n := d.n1
  match d.cls with
  | 4 => if j ≤ i ∧ i ≤ j + d.n2 then some (base + 8 * (j * (d.n2 + 1) + (i - j))) else none
  | 5 => if i ≤ j + d.n2 ∧ j ≤ i + d.n2 then some (base + 8 * (j * (2 * d.n2 + 1) + (i + d.n2 - j))) else none
  | 6 =>
    let bi := i / n
    let bj := j / n
    if bi = bj then some (base + 8 * (2 * bj * n * n + j % n * n + i % n))
    else if bi = bj + 1 then some (base + 8 * ((2 * bj + 1) * n * n + j % n * n + i % n))
    else none
  | _ => some (base + 8 * (j * n + i))

/-- Address in the F region of element (i, j) of the factor. -/
def fPlace (d : SolveDesc) (base i j : Nat) : Option Nat :=
  let n := d.n1
  match d.cls with
  | 3 => some (base + 8 * (j * n + i))
  | 5 => if i ≤ j + d.n2 ∧ j ≤ i + 2 * d.n2 then some (base + 8 * (j * (3 * d.n2 + 1) + (i + 2 * d.n2 - j))) else none
  | 4 => aPlace d base i j
  | 6 => if i / n = j / n ∧ i < j then none else aPlace d base i j
  | _ => if j ≤ i then some (base + 8 * (j * n - j * (j - 1) / 2 + (i - j))) else none

/-- The positions of a matrix of order n that a class stores. -/
def storedAt (d : SolveDesc) (place : Nat → Nat → Option Nat) : List (Nat × Nat × Nat) :=
  let n := orderOf d
  let w := if d.cls = 4 ∨ d.cls = 5 then 2 * d.n2 else if d.cls = 6 then 2 * d.n1 else n
  (List.range n).flatMap (fun j => (span (j - w) (min n (j + w + 1))).filterMap (fun i => (place i j).map (fun a => (i, j, a))))

/-- Read a stored matrix. -/
def readMat (s : Block) (d : SolveDesc) (place : Nat → Nat → Option Nat) : Tab Num :=
  (storedAt d place).foldl (fun m x => matSet m x.1 x.2.1 (num (f64At s x.2.2))) []

/-- Read right-hand sides. -/
def readRhs (s : Block) (d : SolveDesc) (base : Nat) : Tab Num :=
  let n := orderOf d
  (List.range (rhsOf d)).foldl (fun m c => (List.range n).foldl (fun m i => matSet m i c (num (f64At s (base + 8 * (c * n + i))))) m) []

/-- Largest magnitude of the input elements. -/
def maxOf (m : Tab Num) : Nat := m.foldl (fun a e => maxMag a e.2.v) 0

/-- A factor: its matrix, pivot rows and pivots, and ‖A‖_max. -/
structure Factor where
  m    : Tab Num
  rows : List Nat
  piv  : Pivots
  amax : Nat
deriving DecidableEq, Repr

/-- Factor the matrix of a problem (R234). -/
def factorOf (x : SolveSt) (a : Tab Num) : Factor :=
  let d := x.desc
  let n := orderOf d
  let amax := maxOf a
  let tau := tauOf x.epsRel.toNat x.epsAbs.toNat amax
  let delta := x.delta.toNat
  match d.cls with
  | 2 => let r := ldlt n tau delta a; ⟨r.1, [], r.2, amax⟩
  | 3 => let r := luFactor n n false tau delta a; ⟨r.m, r.rows, r.piv, amax⟩
  | 5 => let r := luFactor n d.n2 true tau delta a; ⟨r.m, r.rows, r.piv, amax⟩
  | _ => let r := cholesky n (firstCol d) tau delta a; ⟨r.1, [], r.2, amax⟩

/-- Address of the INT32 pivot rows. -/
def pivotBase (d : SolveDesc) (base : Nat) : Nat :=
  if d.cls = 5 then base + 8 * (3 * d.n2 + 1) * d.n1 else base + 8 * d.n1 * d.n1

/-- Whether a class keeps pivot rows. -/
def keepsRows (d : SolveDesc) : Bool := d.cls == 3 || d.cls == 5

/-- Read a factor written earlier (OP 0b10). -/
def readFactor (s : Block) (d : SolveDesc) (base : Nat) : Factor :=
  let rows := if keepsRows d then (List.range d.n1).map (fun k => memLe s (rackLocal (pivotBase d base + 4 * k)) 4) else []
  ⟨readMat s d (fPlace d base), rows, pivots0, 0⟩

/-- Write a factor. -/
def writeFactor (s : Block) (d : SolveDesc) (base : Nat) (f : Factor) : Block :=
  let s := (storedAt d (fPlace d base)).foldl (fun s x => plumbWrite s x.2.2 (natLe 8 (matGet f.m x.1 x.2.1).v)) s
  if keepsRows d then plumbWrite s (pivotBase d base) (f.rows.flatMap (natLe 4)) else s

/-- One column of the solution. -/
def solveCol (d : SolveDesc) (f : Factor) (b : Tab Num) (c : Nat) : Tab Num :=
  let n := orderOf d
  match d.cls with
  | 2 => lowerTSolve n (firstCol d) true f.m (diagSolve n f.m (lowerSolve n (firstCol d) true f.m b c) c) c
  | 3 => luSolve n n false f.m f.rows b c
  | 5 => luSolve n d.n2 true f.m f.rows b c
  | _ => lowerTSolve n (firstCol d) false f.m (lowerSolve n (firstCol d) false f.m b c) c

/-- Count the operations of a problem on its cluster: fused multiply-adds, invalid operations and overflows (R58, R515). -/
def countOps (s : Block) (u : Nat) (n : Num) : Block :=
  countArith (countEvent s u 1 n.fmas) u { ev0 with invalid := n.inv, overflow := n.ovf }

/-- The regions of problem `i` that are read, and those that are written, as own pieces. -/
def probPieces (d : SolveDesc) (i : Nat) : List (Nat × Nat) × List (Nat × Nat) :=
  let rs := (regionsOf d).map (fun r => (r.1 + i * r.2.1, r.2.2.1, r.2.2.2))
  ((rs.filter (fun r => !r.2.2)).map (fun r => (r.1, r.2.1)), (rs.filter (fun r => r.2.2)).map (fun r => (r.1, r.2.1)))

/-- The refusal that a problem's reads or writes would meet at its memory (R293). -/
def probRefusal (s : Block) (d : SolveDesc) (i : Nat) : Option Status :=
  let p := probPieces d i
  match p.1.findSome? (fun r => accessStatus s none .read (rackLocal r.1) r.2) with
  | some e => some e.1
  | none => (p.2.findSome? (fun r => accessStatus s none .write (rackLocal r.1) r.2)).map (·.1)

/-- Whether Plumb's own reads find every line of a problem free. -/
def probFree (s : Block) (d : SolveDesc) (i : Nat) : Bool :=
  piecesFree s (probPieces d i).1 false && piecesFree s (probPieces d i).2 true
/-- Recall the lines that are not. -/
def probAsk (s : Block) (d : SolveDesc) (i : Nat) : Block :=
  if piecesFree s (probPieces d i).1 false then piecesAsk s (probPieces d i).2 true else piecesAsk s (probPieces d i).1 false

/-- A problem of a factor class finishes: factor, substitute, write F and X, then the entry (R230, R234, R236, R246). -/
def finishProblem (s : Block) (g i : Nat) (x : SolveSt) : Block :=
  let d := x.desc
  let fbase := d.fbase + i * d.fstride
  let f := if d.op = 2 then readFactor s d fbase
    else factorOf x (readMat s d (aPlace d (d.abase + i * d.astride)))
  let p := { probAt x i with regCount := f.piv.count, firstReg := f.piv.first }
  let s := touchPieces s 0 (probPieces d i).1
  if f.piv.bad then endProblem (countOps s (probUnit s g i) (opsOf [f.m])) g i .nonfinite p 0 0 f.amax f.piv.small 0
  else
    let b := readRhs s d (d.bbase + i * d.bstride)
    let cols := (List.range (rhsOf d)).map (fun c => (c, solveCol d f b c))
    let s := countOps s (probUnit s g i) (opsOf (f.m :: cols.map (·.2)))
    let s := if d.op = 2 then s else writeFactor s d fbase f
    let n := orderOf d
    let s := cols.foldl (fun s e => plumbWrite s (d.xbase + i * d.xstride + 8 * e.1 * n)
      ((List.range n).flatMap (fun k => natLe 8 (matGet e.2 k e.1).v))) s
    let st := if f.piv.count = 0 then Status.ok else .regularised
    -- Where no matrix was factored, ‖A‖_max and the smallest pivot are not stated (log 2).
    if d.op = 2 then endEmpty s g i d st p else endProblem s g i st p 0 0 f.amax f.piv.small 0

/-- Whether the deadline of a SOLVE has been reached; a replay ignores it (R243, R445). -/
def deadlineDue (s : Block) (d : SolveDesc) : Bool :=
  d.deadline != 0 && decide (d.deadline.toNat ≤ hallNat s) && !odOn s 0x9000 6

/-- The ending a replay takes from the recorded ledger. -/
def replayEnding (s : Block) (g i : Nat) : Option (Status × Nat) :=
  if odOn s 0x9000 6 then recordedDeadline s g (seqAt s (512 + g)).n i else none

/-- Whether the deadline has gone by: hall time is past it (R243). -/
def deadlinePast (s : Block) (d : SolveDesc) : Bool := deadlineDue s d && decide (d.deadline.toNat < hallNat s)

/-- The deadline of a SOLVE of a class other than QP: problems in their step when hall time reached it are abandoned, and the rest is not
started. A problem is in its step when it started before the deadline (R245). -/
def missDeadline (s : Block) (g : Nat) (x : SolveSt) : Block :=
  let d := x.desc
  let flying := (List.range d.count).filter (fun i => inFlight x i && decide ((probAt x i).mark.toNat < d.deadline.toNat))
  let s := flying.foldl (fun s i => endEmpty s g i d .deadlineMid (probAt x i)) s
  let rest := (List.range d.count).filter (fun i => (probAt x i).ended.isNone && !flying.contains i)
  let s := rest.foldl (fun s i => endEmpty s g i d .notStarted prob0) s
  solveSettle s g (some (if flying.isEmpty then .deadline else .deadlineMid))

/-- PROBLEM_ENDED: a problem of a class other than QP finishes (R226); one still in its step at the deadline is abandoned (R245). -/
def execProblemEnded (g : Fin 16) (i : Nat) (s : State) : Host.Outcome State Fault Refusal := onBlock s fun s =>
  .next (match solveAt s g with
    | none => s
    | some x =>
      if x.desc.cls = 7 ∨ !inFlight x i then s
      else if deadlineDue s x.desc then ledgerFlush (missDeadline s g x)
      else
        match replayEnding s g i with
        | some (st, _) => ledgerFlush (solveSettle (endEmpty s g i x.desc st (probAt x i)) g (some st))
        | none =>
          if !probFree s x.desc i then probAsk s x.desc i
          else
            match probRefusal s x.desc i with
            | some st => ledgerFlush (solveSettle (endEmpty s g i x.desc st (probAt x i)) g none)
            | none => ledgerFlush (solveSettle (finishProblem s g i x) g none))

/-! ### Quadratic programs -/

/-- The A region as F64 words, in the order of R231. -/
def qpData (s : Block) (d : SolveDesc) (i : Nat) : List Nat :=
  (List.range (qpDelta d)).map (fun k => f64At s (d.abase + i * d.astride + 8 * k))

/-- The `n`-th order of the entries of a list: the n mod L-th of its L entries, then an order of the rest. -/
def pickOrder : Nat → Nat → List Nat → List Nat
  | 0, _, _ => []
  | k + 1, n, l => l.getD (n % l.length) 0 :: pickOrder k (n / l.length) (l.eraseIdx (n % l.length))

/-- Offset of area `k` of a workspace whose five areas, the three slots, the factor and the data copy, follow the header in the `n`-th
order (R239). -/
def qpAreaIn (d : SolveDesc) (n k : Nat) : Nat :=
  let size := fun (a : Nat) => if a < 3 then qpV d else if a = 3 then qpPhi d else qpDelta d
  64 + 8 * (((pickOrder 5 n [0, 1, 2, 3, 4]).takeWhile (fun a => a != k)).map size).foldl (· + ·) 0
/-- The implementation chooses the order (R239). -/
def qpAreaAt (d : SolveDesc) (k : Nat) : Nat := qpAreaIn d (Config.qpOrder % 120) k

/-- Read and write the words of a slot. -/
def slotWords (s : Block) (d : SolveDesc) (w slot : Nat) : List Nat :=
  (List.range (qpV d)).map (fun k => f64At s (w + qpAreaAt d slot + 8 * k))
def slotWrite (s : Block) (d : SolveDesc) (w slot : Nat) (v : List Nat) : Block :=
  plumbWrite s (w + qpAreaAt d slot) (v.flatMap (natLe 8))

/-- The measures of the iterate that words hold (R237). -/
def qpMeasures (d : SolveDesc) (data v : List Nat) : QpMeas := qpMeas d data (qpIter d v)

/-- Whether ‖(x, u)‖∞ or ‖z‖∞ exceeds INF_BOUND · (1 + largest data magnitude) (R238). -/
def qpExceeds (s : Block) (d : SolveDesc) (w v : List Nat) : Bool :=
  let mag := fun (l : List Nat) => l.foldl maxMag 0
  let lim := mul64 (odNat s 0x5120 1) (onePlus (w.filter finite64)).v
  lt64 lim (mag (v.take (qpU d + d.n1 * d.n3))) || lt64 lim (mag (v.drop (qpS d + qpM d)))

/-- The words of a workspace header (R239). -/
def qpHeader (d : SolveDesc) (p : ProbSt) (ret hash : Nat) : List Byte :=
  let w0 := 1 + (if p.fcache then 2 else 0) + p.cur % 4 * 4 + p.best % 4 * 16 + ret % 4 * 64 + d.n1 * 2 ^ 16 + d.n2 * 2 ^ 32 +
    d.n3 * 2 ^ 40 + d.n4 * 2 ^ 48 + (if d.lti then 2 ^ 56 else 0)
  natLe 8 w0 ++ natLe 8 hash ++ natLe 48 0

/-- A QP ends: header, u_0 of the returned iterate, result entry (R242, R244). `ret` 3 returns none; the signature that the header then
holds is that of the data loaded, and not stated where the data was not (log 2). -/
def endQp (s : Block) (g i : Nat) (x : SolveSt) (p : ProbSt) (st : Status) (ret : Nat) : Block :=
  let d := x.desc
  let w := workAt s g d i
  let data := qpData s d i
  let v := slotWords s d w ret
  let st := if st = .ok ∧ p.regCount ≠ 0 then .regularised else st
  if ret = 3 then
    let p := if p.begun then p else { p with hash := BitVec.ofNat 64 (openValue s 3 64) }
    endEmpty (plumbWrite s w (qpHeader d p ret p.hash.toNat)) g i d st p
  else
    let m := qpMeasures d data v
    let s := plumbWrite s w (qpHeader d p ret p.hash.toNat)
    let s := plumbWrite s (d.xbase + i * d.xstride) (((v.drop (qpU d)).take d.n3).flatMap (natLe 8))
    endProblem s g i st p ret p.hash.toNat m.rp m.rd m.mu

/-- The tests of R238 at a commit, and those of a replay (R445): the ending and the slot returned. -/
def qpTest (s : Block) (g i : Nat) (x : SolveSt) (p : ProbSt) (data v : List Nat) : Option (Status × Nat) :=
  let d := x.desc
  let m := qpMeasures d data v
  let tol := d.tol.toNat
  if le64 m.rp tol && le64 m.rd tol && le64 m.mu tol then some (.ok, p.cur)
  else
    match replayEnding s g i with
    | some (st, it) => if it = p.iter then some (st, if st = .deadlineMid then p.cur else p.best) else rest s d p data v
    | none =>
      if deadlineDue s d then some (.deadline, p.best)
      else if d.early && d.deadline != 0 && !odOn s 0x9000 6 && decide (d.deadline.toNat < hallNat s + p.lastDur.toNat) then
        some (.deadline, p.best)
      else rest s d p data v
where
  /-- The tests after those of the deadline. -/
  rest (s : Block) (d : SolveDesc) (p : ProbSt) (data v : List Nat) : Option (Status × Nat) :=
    if p.iter = d.maxit then some (.qpMaxiter, p.best)
    else if qpExceeds s d data v then some (.qpInfeasible, p.best)
    else none

/-- Start of a QP: load, signature, warm or cold start, iterate 0 (R237, R240 to R242). No factorisation has been begun (R242). -/
def qpStart (s : Block) (g i : Nat) (x : SolveSt) (data : List Nat) : Block × ProbSt :=
  let d := x.desc
  let w := workAt s g d i
  let hash := qpHash d data
  let h := memLe s (rackLocal w) 16
  let dims := bits h 16 16 == d.n1 && bits h 32 8 == d.n2 && bits h 40 8 == d.n3 && bits h 48 8 == d.n4 && bit h 56 == d.lti
  let ret := bits h 6 2
  let usable := bit h 0 && ret != 3 && dims
  let same := bits h 64 64 == hash
  let warm := d.warm && usable
  let full := warm && same && bit h 1
  let rej := d.warm && !full
  let slot := if warm then ret else 0
  let cold := qpCold d data
  let v := if warm then qpFloor d data (slotWords s d w ret) (odNat s 0x5120 2) else qpWords d cold
  let s := slotWrite (touchPieces s 0 (probPieces d i).1) d w slot v
  let s := plumbWrite s (w + qpAreaAt d 4) (data.flatMap (natLe 8))
  let s := if rej then odBump s 0x5130 3 1 else s
  let m := qpMeasures d data v
  let s := countOps s (probUnit s g i) (if warm then m.ops else withN m.ops (qpIterOps cold))
  (s, { probAt x i with begun := true, cur := slot, best := slot, bestMerit := BitVec.ofNat 64 m.merit, warmRej := rej,
                        fcache := false, hash := BitVec.ofNat 64 hash, mark := hallNow s })

/-- The thresholds of a problem's factorisation: ‖A‖_max is over every Q, R, A, B, C and D (R234). -/
def qpThr (x : SolveSt) (data : List Nat) : QpThr :=
  ⟨tauOf x.epsRel.toNat x.epsAbs.toNat ((data.take (qpMats x.desc)).foldl maxMag 0), x.delta.toNat, x.deltaP.toNat, x.deltaD.toNat⟩

/-- The factorisation of an iteration: the cached one in the first iteration of a full warm start, which a problem that asked for a warm
start and was not rejected has; else K at CUR is factored (R237, R241). -/
def qpFacAt (s : Block) (g i : Nat) (x : SolveSt) (p : ProbSt) (data : List Nat) (y : QpIter) : Bool × QpFac :=
  let d := x.desc
  if d.warm && !p.warmRej && p.iter == 0 then
    (true, qpFacOf d ((List.range (qpPhi d)).map (fun k => f64At s (workAt s g d i + qpAreaAt d 3 + 8 * k))))
  else (false, qpFactor d data (qpThr x data) (qpSigma d data y))

/-- One iteration's commit (R237); a pivot that is NaN or infinite stops the problem in its factorisation (R234), which is then
abandoned. -/
def qpIterateOnce (s : Block) (g i : Nat) (x : SolveSt) (p : ProbSt) (data : List Nat) : Block × ProbSt × Bool :=
  let d := x.desc
  let w := workAt s g d i
  let y := qpIter d (slotWords s d w p.cur)
  let (cached, f) := qpFacAt s g i x p data y
  let u := probUnit s g i
  let p := { p with regCount := p.regCount + f.piv.count,
                    firstReg := if p.regCount = 0 ∧ f.piv.count ≠ 0 then f.piv.first else p.firstReg,
                    firstIt := if p.regCount = 0 ∧ f.piv.count ≠ 0 then p.iter + 1 else p.firstIt }
  if f.piv.bad then (countOps s u f.ops, { p with fcache := false }, false)
  else
    let s := if cached then s else plumbWrite s (w + qpAreaAt d 3) ((qpFacWords d f).flatMap (natLe 8))
    let (y1, ops) := qpAdvance d data x.deltaD.toNat f y
    let slot := ([0, 1, 2].find? (fun k => k != p.cur && k != p.best)).getD 0
    let v := qpWords d y1
    let m := qpMeasures d data v
    let better := le64 m.merit p.bestMerit.toNat
    let s := countOps (slotWrite s d w slot v) u (withN (withN f.ops (if cached then ops else withN ops (opsOf [qpSigma d data y]))) m.ops)
    (s, { p with iter := p.iter + 1, cur := slot, best := if better then slot else p.best,
                 bestMerit := if better then BitVec.ofNat 64 m.merit else p.bestMerit, fcache := p.fcache || !cached,
                 lastDur := hallNow s - p.mark, mark := hallNow s }, true)

/-- Apply the tests at a commit. -/
def qpAfter (s : Block) (g i : Nat) (x : SolveSt) (p : ProbSt) (data : List Nat) : Block :=
  let v := slotWords s x.desc (workAt s g x.desc i) p.cur
  match qpTest s g i x p data v with
  | some (st, slot) =>
    let p := if st = .deadlineMid then { p with fcache := false } else p
    solveSettle (endQp s g i x p st slot) g none
  | none => solvePut s g (some (probPut x i p))

/-- The deadline ends problem `i` of a QP in its work: what was in progress is abandoned (R243). -/
def qpDeadline (s : Block) (g i : Nat) : Block :=
  match solveAt s g with
  | none => s
  | some x =>
    let p := probAt x i
    if p.begun then endQp s g i x { p with fcache := false } .deadlineMid p.cur else endQp s g i x p .deadlineMid 3

/-- QP_COMMIT: iterate 0 is committed, or an iteration commits its iterate, and the tests of R238 are applied; a deadline that has gone
by reached the problem in that work (R243). -/
def execQpCommit (g : Fin 16) (i : Nat) (s : State) : Host.Outcome State Fault Refusal := onBlock s fun s =>
  .next (match solveAt s g with
    | none => s
    | some x =>
      let p := probAt x i
      if x.desc.cls ≠ 7 ∨ !inFlight x i then s
      else if deadlinePast s x.desc then ledgerFlush (solveSettle (qpDeadline s g i) g none)
      else if !probFree s x.desc i then probAsk s x.desc i
      else
        match (probRefusal s x.desc i).or ((accessStatus s none .read (rackLocal (workAt s g x.desc i)) (footprint x.desc)).map (·.1)) with
        | some st => ledgerFlush (solveSettle (endEmpty s g i x.desc st p) g none)
        | none =>
          let data := qpData s x.desc i
          if p.begun then
            let (s1, p1, done) := qpIterateOnce s g i x p data
            ledgerFlush (if done then qpAfter s1 g i x p1 data else solveSettle (endQp s1 g i x p1 .nonfinite 3) g none)
          else if qpBadData x.desc data then
            ledgerFlush (solveSettle (endQp s g i x { p with begun := true, hash := BitVec.ofNat 64 (qpHash x.desc data) } .nonfinite 3) g none)
          else
            let (s1, p1) := qpStart s g i x data
            ledgerFlush (qpAfter s1 g i x p1 data))

/-! ### Deadlines -/

/-- A PIPE of QPs that go on: each later problem starts and meets the deadline at once. -/
def qpDeadlines (g : Nat) : Nat → Block → Block
  | 0, s => s
  | fuel + 1, s =>
    match solveAt s g with
    | none => s
    | some x =>
      match (List.range x.desc.count).filter (inFlight x) with
      | [] => s
      | l => qpDeadlines g fuel (solveSettle (l.foldl (fun s i => qpDeadline s g i) s) g none)

/-- PLUMB_DEADLINE: hall time has reached the DEADLINE of the group's SOLVE (R243, R245). -/
def execPlumbDeadline (g : Fin 16) (s : State) : Host.Outcome State Fault Refusal := onBlock s fun s =>
  .next (match solveAt s g with
    | none => s
    | some x =>
      if !deadlineDue s x.desc then s
      else if x.desc.cls = 7 then ledgerFlush (qpDeadlines g (x.desc.count + 1) s)
      else ledgerFlush (missDeadline s g x))

end Sys2Proof.Machine
end

