-- ==== Sys2Proof/Machine/MemoryRows.lean ====
section
/-! DEFINITION. The memory system's own events (R273, R277, R285 to R287, R294 to R297). -/

namespace Sys2Proof.Machine

open Sys2Proof

/-! ### Zeroing (R273, R277) -/

/-- HBM written to zero: contents, bad marks, cache and directory of a memory that no job uses (R277). -/
def zeroHbm (s : Block) : Block :=
  { memZero s 0 hbmEnd with
    ecc := { s.ecc with badWords := s.ecc.badWords.filter (fun w => decide (hbmEnd ≤ 16 * w)) }
    cache := []
    coh := { s.coh with dir := [], held := [] } }

/-- All memory of a job written to zero, with every mark cleared and every cache line invalid (R5, R273, R582). -/
def zeroAll (s : Block) : Block :=
  { s with mem := [], ecc := { s.ecc with badWords := [] }, cache := [], coh := { s.coh with dir := [], held := [] } }

/-! ### The interleave map (R274, R277) -/

/-- Whether byte values are those of a map. -/
def mapBytesOk (v : Nat) : Bool :=
  (List.range 384).all (fun r => let b := bits v (8 * r) 8; b == 0 || (decide (0x10 ≤ b) && decide (b ≤ 0x13)))

/-- Regions that a map places on one base die. -/
def mapCount (v d : Nat) : Nat := ((List.range 384).filter (fun r => bits v (8 * r) 8 == 0x10 + d)).length

/-! ### Temperature (R285 to R287) -/

/-- A stack that has not been sampled. -/
def stack0 : StackSt := ⟨0, false, 0, 0, false⟩
def stackAt (s : Block) (k : Nat) : StackSt := tget stack0 s.hbm k
def stackPut (s : Block) (k : Nat) (x : StackSt) : Block := { s with hbm := tset stack0 s.hbm k x }

/-- The throttle step after a reading: it rises to the highest threshold reached, or falls by one when the reading lies at
least HYST below the threshold of the present step (R286). -/
def throttleStep (s : Block) (step temp : Nat) : Nat :=
  let reached := ((List.range 4).filter (fun k => decide (odNat s 0x3010 (k + 1) ≤ temp))).length
  if step < reached then reached
  else if 0 < step ∧ temp + odNat s 0x3010 5 ≤ odNat s 0x3010 step then step - 1 else step

/-- A change of step is counted and published; a rise into step 3 or 4 raises alarm 0x04 (R286, R530). -/
def setStep (s : Block) (k old new : Nat) : Block :=
  if old = new then s
  else
    let s := report (odSetByte s 0x3010 6 k new) (unitHbm k) 5 1 .ok new
    if old < new ∧ 3 ≤ new then raiseAlarm s 0x04 (unitHbm k) .ok new else s

/-- A sample of a stack's temperature (R285 to R287): a reading, or none when it fails. -/
def stackSample (stack : Nat) (reading : Option (BitVec 8)) (s : Block) : Block :=
  let x := stackAt s stack
  if powerState s < 2 then s
    else match reading with
    | none =>
      let s := stackPut s stack { x with missed := x.missed + 1 }
      if x.missed + 1 = 3 then
        let s := stackPut s stack { x with missed := 3, step := 4, doubled := true }
        let s := odSetByte s 0x3010 7 stack 0xFF
        ledgerFlush (raiseAlarm (setStep s stack x.step 4) 0x05 (unitHbm stack) .ok stack)
      else s
    | some t =>
      let new := throttleStep s x.step t.toNat
      let doubled := if 85 < t.toNat then true else if t.toNat ≤ 82 then false else x.doubled
      let s := stackPut s stack { x with missed := 0, step := new, doubled := doubled }
      ledgerFlush (setStep (odSetByte s 0x3010 7 stack t.toNat) stack x.step new)

/-! ### Patrol scrub (R294, R295) -/

/-- Lines of HBM. -/
def hbmLines : Nat := 3221225472

/-- The next line of a stack from module line `l`; the scrub goes through HBM in ascending module address (log 21). Only
lines of the stack that are not retired are read. `fuel` bounds the lines looked at. -/
def nextScrub (s : Block) (stack : Nat) : Nat → Nat → Option Nat
  | 0, _ => none
  | fuel + 1, l =>
    if hbmLines ≤ l then none
    else if stackOf s (l * 128) = stack ∧ !retiredAt s (l * 128) then some l
    -- A DIE-LOCAL region of another die holds no line of the stack: the scrub goes on at the next region.
    else if 0x10 ≤ regionMode s (l / 8388608) ∧ regionMode s (l / 8388608) - 0x10 ≠ stack / 4 then
      nextScrub s stack fuel ((l / 8388608 + 1) * 8388608)
    else nextScrub s stack fuel (l + 1)

/-- Lines looked at in one search: a run without a line of the stack is at most 1,024 lines long, and retired pages lengthen
it by their 32 lines. -/
def scrubFuel (s : Block) : Nat := 4096 + 384 + 64 * s.ecc.retired.length

/-- SCRUB_READ (R294): the next line is read; at the end of a pass the corrected-error counts of the stack's rows start
anew. -/
def execScrubRead (stack : Fin 16) (ecc : Ecc) (s : State) : Host.Outcome State Fault Refusal := onBlock s fun s =>
  let x := stackAt s stack
  .next (if powerState s < 2 then s
    else match nextScrub s stack (scrubFuel s) x.scrub with
    | some l => ledgerFlush (eccRead (stackPut (stackEvent s (l * 128) 1) stack { x with scrub := l + 1 }) (l * 128) ecc)
    | none =>
      let s := { s with ecc := { s.ecc with rowCe := s.ecc.rowCe.filter (fun r => r.1 != stack.val) } }
      match nextScrub s stack (scrubFuel s) 0 with
      | some l => ledgerFlush (eccRead (stackPut (stackEvent s (l * 128) 1) stack { x with scrub := l + 1 }) (l * 128) ecc)
      | none => stackPut s stack { x with scrub := 0 })

/-! ### Row repair (R296, R297) -/

/-- ROW_REPAIR_DONE (R296, R297): the oldest repair of the stack is recorded, pending its hard repair, and counted; the accesses that
waited for its bank group go on. -/
def execRowRepairDone (stack : Fin 16) (s : State) : Host.Outcome State Fault Refusal := onBlock s fun s =>
  .next (match s.ecc.repairing.find? (fun r => r.1 == stack.val) with
    | none => s
    | some (k, key) =>
      let s := { s with ecc := { s.ecc with repairing := s.ecc.repairing.filter (fun r => !(r.1 == k && r.2 == key)) } }
      match s.ecc.rows.find? (fun r => r.row == key) with
      | none =>
        let s := { s with ecc := { s.ecc with rows := s.ecc.rows ++ [⟨k, key, 0, false⟩] } }
        ledgerFlush (drainAll (report (odBump (odBump s 0x3030 3 1) 0x3030 4 1) (unitHbm k) 5 1 .ok 0))
      | some r =>
        let s := { s with ecc := { s.ecc with rows := s.ecc.rows.map (fun y =>
          if y.row = key then { y with remaps := r.remaps + 1, hard := false } else y) } }
        let s := if r.hard then odBump s 0x3030 4 1 else s
        ledgerFlush (drainAll (report (odBump s 0x3030 5 1) (unitHbm k) 5 1 .ok 0)))

end Sys2Proof.Machine
end

