-- ==== Sys2Proof/WellFormed.lean ====
section
/-! DEFINITION. The bounds the spec puts on a command's operands that its type does not already put there: a packet
carries at most 16 payload slots of 16 bytes (R309), a line is 128 bytes (R340), a flit holds fifteen slots (R306). -/

namespace Sys2Proof

/-- Data of a packet: at most 256 bytes (R309). -/
def packetData (d : List Byte) : Bool := decide (d.length ≤ 256)

/-- Data of a request that writes: 1 to 256 bytes (R309). -/
def someData (d : List Byte) : Bool := decide (1 ≤ d.length) && decide (d.length ≤ 256)

/-- The bytes of a line that a coherence packet may carry. -/
def optLine : Option (List Byte) → Bool
  | none => true
  | some d => decide (d.length = 128)

/-- Whether a command is one that the hardware can be given. -/
def Instr.wf (i : Instr) : Bool :=
  match i with
  | .launch _ => true
  | .halt _ => true
  | .fence _ => true
  | .wait _ => true
  | .waitRelease _ => true
  | .waitTimeout _ => true
  | .signalAdd _ => true
  | .signalSet _ => true
  | .counterSnap _ => true
  | .counterStamp _ => true
  | .swatchBegin _ => true
  | .swatchEnd _ => true
  | .copy _ => true
  | .move _ => true
  | .load _ => true
  | .weightLoadDone _ => true
  | .fstream _ => true
  | .tstream _ => true
  | .rawadd _ => true
  | .glaze _ _ => true
  | .store _ _ => true
  | .storeRaw _ => true
  | .storeDgrad _ _ => true
  | .stencilForm _ _ => true
  | .stencilApply _ _ => true
  | .gather _ => true
  | .scatterOverwrite _ => true
  | .scatterAdd _ => true
  | .scatterMax _ => true
  | .scatterMin _ => true
  | .commandCompletion _ _ => true
  | .stencilTableReloadDone _ _ => true
  | .glazeTableReloadDone _ _ => true
  | .tileInternalError _ => true
  | .spareSelfTestDone _ _ => true
  | .solve _ => true
  | .problemEnded _ _ => true
  | .qpCommit _ _ => true
  | .plumbDeadline _ => true
  | .groups _ _ => true
  | .groupMode _ _ _ => true
  | .syncAdd _ _ _ _ => true
  | .syncSet _ _ _ _ => true
  | .syncAbort _ _ _ => true
  | .syncWait _ _ _ _ => true
  | .syncWaitRelease _ => true
  | .syncRead _ _ _ => true
  | .htime _ _ => true
  | .htwait _ _ _ => true
  | .htwaitRelease _ => true
  | .tamoAdd _ => true
  | .tamoSwap _ => true
  | .tamoXor _ => true
  | .tamoCas _ => true
  | .tamoFadd _ => true
  | .tamoOr _ => true
  | .tamoAnd _ => true
  | .tamoMin _ => true
  | .tamoMax _ => true
  | .tamoMinu _ => true
  | .tamoMaxu _ => true
  | .coreLoad _ _ _ _ _ _ _ => true
  | .coreStore _ _ _ _ _ => true
  | .coreFence _ _ _ => true
  | .coreAmo _ _ _ _ _ _ _ _ => true
  | .vectorAccess _ => true
  | .vsetvl _ _ _ _ => true
  | .otnhint _ _ => true
  | .otnmtcmp _ _ => true
  | .mtip _ => true
  | .interleaveMap _ _ => true
  | .jobZeroingDone => true
  | .stackTempSample _ _ => true
  | .scrubRead _ _ => true
  | .rowRepairDone _ => true
  | .flitReceived _ f => decide (f.slots.length = 15)
  | .nak _ _ => true
  | .laneFault _ _ => true
  | .retrainDone _ _ => true
  | .downPortRetrain _ => true
  | .planeReturn _ _ _ => true
  | .rd _ _ _ => true
  | .rdrsp _ _ data => packetData data
  | .wr _ data => someData data
  | .wrack _ _ => true
  | .atom _ _ _ _ => true
  | .atomrsp _ _ _ _ => true
  | .atomack _ _ _ => true
  | .red _ _ data => someData data
  | .redrsp _ _ _ => true
  | .abort _ _ => true
  | .bulk _ data => someData data
  | .bulkack _ _ => true
  | .fabricTimeout _ => true
  | .reach _ _ _ => true
  | .reachLost _ => true
  | .timeSync _ _ _ _ => true
  | .delayReqDue => true
  | .delayRsp _ _ _ => true
  | .planeSourceLost => true
  | .cgets _ _ _ => true
  | .cgetm _ _ _ => true
  | .cput _ _ _ data => optLine data
  | .crecallInv _ _ _ _ => true
  | .crecallFwd _ _ _ _ => true
  | .cdata _ _ _ _ _ _ data => (decide (data.length = 128) || data.isEmpty)
  | .cack _ _ _ data => optLine data
  | .recallTimeout _ => true
  | .cownAcqExcl _ _ _ => true
  | .cownAcqRead _ _ _ => true
  | .cownRelease _ _ _ => true
  | .cownPing _ _ => true
  | .cownPingDue => true
  | .cownrsp _ _ _ _ => true
  | .acquireExcl _ _ _ => true
  | .acquireRead _ _ _ => true
  | .ownRelease _ _ _ => true
  | .clearLost _ _ => true
  | .unitReset _ _ _ => true
  | .ridgeLinkFailure _ => true
  | .coll _ => true
  | .form _ => true
  | .reform _ => true
  | .park _ => true
  | .dissolve _ => true
  | .formUp _ _ _ _ => true
  | .formDown _ _ => true
  | .ready _ _ _ _ => true
  | .chunkStart _ _ _ => true
  | .chunkData _ _ _ data => packetData data
  | .chunkHeader _ _ _ => true
  | .resend _ _ => true
  | .pieceTimeout _ _ => true
  | .fail _ _ _ => true
  | .trussAck _ => true
  | .failAckTimeout _ _ _ => true
  | .probe _ => true
  | .probeAnswer _ _ => true
  | .memberTimeout _ => true
  | .doneUp _ => true
  | .doneDown _ => true
  | .count _ _ => true
  | .barrierArrive _ _ _ => true
  | .barrierRelease _ _ _ => true
  | .barrierTrelReached _ => true
  | .barrierTimeout _ => true
  | .htrefFrame _ _ => true
  | .htrefEdge => true
  | .ieee1588Message _ => true
  | .holdoverExpiry => true
  | .scribeExchangeDue => true
  | .scribe _ entries _ => decide (entries.length ≤ 112)
  | .scribeLost => true
  | .arm => true
  | .armingComplete => true
  | .sketchSweepGranule => true
  | .priorityCopyDone => true
  | .sketchCopyEnd => true
  | .sketchDrainTimeout => true
  | .restore f => decide (f.length ≤ 2)
  | .jobManifest _ bytes => decide (bytes.length ≤ 8388608)
  | .lChunk _ _ _ _ => true
  | .lGot _ _ _ => true
  | .lChunkResendDue _ => true
  | .launchTimeout => true
  | .lJoin _ _ => true
  | .lAck _ _ => true
  | .lReport _ _ => true
  | .lReplace _ _ _ _ => true
  | .lStart _ _ _ => true
  | .hartsStart => true
  | .lAbort _ _ => true
  | .hello _ _ _ _ => true
  | .openSession _ _ _ => true
  | .close _ => true
  | .read _ _ _ _ _ => true
  | .write _ _ _ _ _ _ _ => true
  | .blockRead _ items => decide (items.length ≤ 64)
  | .blockWrite _ items => decide (items.length ≤ 64)
  | .subscribe _ _ _ _ _ => true
  | .unsubscribe _ _ => true
  | .notifyPeriod _ _ => true
  | .notifyCoalesceEnd _ _ => true
  | .requestTimeout _ => true
  | .idleTimeout _ => true
  | .odWrite _ _ _ _ _ => true
  | .cursor _ _ => true
  | .dataRead _ _ => true
  | .dataWrite _ _ => true
  | .commit _ _ => true
  | .exportedTo _ _ => true
  | .funcDisable _ _ _ => true
  | .disableDrainTimeout => true
  | .funcEnable _ _ _ _ => true
  | .flow _ _ _ => true
  | .transportData s => decide (s.data.length ≤ 9000)
  | .transportAck _ => true
  | .transportSendRecord _ => true
  | .transportRto _ _ => true
  | .ackDelay _ => true
  | .counterConfig _ _ => true
  | .counterValues _ => true
  | .snapTime _ _ => true
  | .snapshotLatch => true
  | .thaw => true
  | .logTokenRefill _ => true
  | .alarmAck _ _ => true
  | .oldestUnexported _ _ => true
  | .powerUp _ => true
  | .standbyReached failures => failures.all (fun k => decide (k < 65536))
  | .readyReached failedTiles failedUnits failedPorts failedStacks => (failedTiles.all (fun t => decide (t < 528)) && failedUnits.all (fun u => decide (u < 737)) &&
      failedPorts.all (fun p => decide (p < 18)) && failedStacks.all (fun k => decide (k < 16)))
  | .standby _ => true
  | .powerDown _ => true
  | .releaseJob _ => true
  | .reset _ => true
  | .maintenanceReset _ => true
  | .watchdogExpiry => true
  | .pllLockLoss => true
  | .referenceLoss => true
  | .inputApplied => true
  | .inputHeldInRange => true
  | .strapRead _ _ _ => true
  | .modEnFall => true
  | .inputSample _ _ => true
  | .dieTempSample _ => true
  | .coolantSample _ _ _ => true
  | .leakAsserted => true
  | .flowPulseLoss => true
  | .powerLoopEvaluation => true
  | .tripLatchCleared => true
  | .gateDelayExpiry _ => true
  | .fwImage _ _ => true
  | .svnCommit _ _ => true
  | .identityCert _ _ => true
  | .identityCertCheck => true
  | .hallTimeSave => true
  | .quote _ => true
  | .htrefFramesMissing => true
  | .leakDeasserted => true
  | .referenceRestored => true

end Sys2Proof
end

