-- ==== Sys2Proof/Machine/Tenon.lean ====
section
/-! DEFINITION. Tenon: flits and ports (R302 to R307), plane failover (R321 to R324), requests served at the home (R325 to
R331), responses at the requester (R324, R330, R333), reachability (R313). -/

namespace Sys2Proof.Machine

open Sys2Proof

/-! ### Requesters: what an answer gives them -/

/-- Among started commands, the one with an index. -/
def startedSlot (s : Block) (q idx : Nat) : Option CmdSlot :=
  ((seqAt s q).stream.map (·.win)).bind (fun w => w.find? (fun c => c.idx == idx && c.phase == .started))

/-- A line of another module reaches a hart that waits for it, or its refusal does. -/
def hartLine (s : Block) (h line : Nat) (st : Status) (data : List Byte) : Block :=
  let k := hartAt s h
  match k.blocked with
  | some (.lines need) =>
    let left := need.filter (fun l => l != line)
    let k1 := { k with blocked := if left.isEmpty then none else some (.lines left) }
    if st = .ok then hartPut s h { k1 with lines := tset [] k.lines line data }
    else hartPut s h { k1 with refused := k.refused ++ [(line, st)] }
  | _ => s

/-- What the end of a request does at its requester: the value or status of a load or atomic, the failure of a store (R263),
the line or refusal of a stream's read, the stop of a stream whose write or signal failed (R206, R293). -/
def deliverTo (s : Block) (w : OutFor) (d addr : Nat) (st : Status) (data : List Byte) (old : Nat) : Block :=
  match w with
  | .hartLoad h =>
    match (hartAt s h).blocked with
    | some (.remoteLoad rd va n signed) =>
      if st = .ok then
        let v := leNat (data.take (2 ^ n))
        retireRd s h rd (if signed then signExt (2 ^ n) v else BitVec.ofNat 64 v)
      else takeTrap s h causeLoadFault (BitVec.ofNat 64 va)
    | _ => hartLine s h (partKey (rackAddr d addr)) st data
  | .hartStore h =>
    if st = .ok then s else noteFailed s h st
  | .hartAtom h => atomDone s h st old
  | .seqRead q line =>
    let x := seqAt s q
    if x.stream.isNone then s
    else if st = .ok then seqPut s q { x with lines := tset [] x.lines line data }
    else seqPut s q { x with refused := x.refused ++ [(line, st)] }
  | .seqWrite q idx =>
    match startedSlot s q idx with
    | some c => if st = .ok then s else stopSlot s q c ⟨st, rackAddr d addr / 128 * 128⟩
    | none => s
  | .seqSignal q idx =>
    match startedSlot s q idx with
    | some c => if st = .ok then s else stopSlot s q c ⟨st, 0⟩
    | none => s
  | .abortMsg => s
  | .gone _ => s

/-- The outcome of a tagged request of a unit that has been reset since is counted and logged (R369, log 78). -/
def lateOutcome (s : Block) (o : Outst) (st : Status) : Block :=
  match o.forWhom with
  | .gone u => (logOccur (tallyAdd s u .lateOutcome 1) (unitClass u) 0 u st 0 (BitVec.ofNat 64 (rackAddr o.pkt.dslot o.pkt.addr))).1
  | _ => s

/-! ### Failover (R321 to R324) -/

/-- Slots to which plane `k` is alive. -/
def planeSlots (s : Block) (k : Nat) : List Nat := (List.range 72).filter (fun d => planeAlive s k d)

/-- The next plane generation toward a slot. -/
def genNext (s : Block) (d : Nat) : Block :=
  { s with fab := { s.fab with gen := tset 0 s.fab.gen d ((tget 0 s.fab.gen d + 1) % 16) } }

/-- Send one outstanding request again on the substitute plane; without one it stays outstanding until a plane is usable
or its limit passes. -/
def resendOne (s : Block) (o : Outst) : Block × Outst :=
  match planeFor s o.pkt.addr o.pkt.dslot with
  | none => (s, { o with resent := true, pkt := { o.pkt with plane := none } })
  | some k =>
    let pkt := { o.pkt with plane := some k, retry := o.pkt.retry || isTagged o.pkt.ptype, pgen := tget 0 s.fab.gen o.pkt.dslot }
    let s := setStreamPlane s (streamKey o.pkt.req o.pkt.dslot o.pkt.addr) k
    (sendPkt s pkt, { o with resent := true, pkt := pkt })

/-- Send again the outstanding requests that a test selects, in issue order. -/
def resendIf (s : Block) (p : Outst → Bool) : Block :=
  s.fab.outst.foldl (fun s o =>
    if p o && !o.timedOut then
      let (s1, o1) := resendOne s o
      { s1 with fab := { s1.fab with outst := s1.fab.outst.map (fun y => if y = o then o1 else y) } }
    else s) s

/-- The kind of a recall. -/
def recallKind (d : DirEnt) : Nat := if d.fwd then 1 else 0

/-- Send a recall once more to the clusters that have not answered, with its TID (R346, R348). -/
def resendRecall (s : Block) (line : Nat) (p : Nat → Bool) : Block :=
  let d := dirAt s line
  (sharerList d.acks).foldl (fun s k =>
    let slot := 8 * (ownSlot s / 8) + k / 12
    if p slot then sendCoh s 0x13 slot line (cohExt s d.tid.toNat (k % 12) (recallKind d) 0 0 false) .ok [] else s) s

/-- Send a coherence request of a cluster for a line of another module (R347). -/
def sendCget (s : Block) (q : CohAsk) : Block :=
  let a := 128 * q.line
  sendCohHint s (if q.excl then 0x11 else 0x10) (rackSlot a) q.hint (lineOf (rackLocal a)) (cohExt s q.tid.toNat q.c 0 0 0 false) .ok []

/-- Send an ownership request (R347, R351). -/
def sendCown (s : Block) (r : OwnReq) : Block :=
  let kind := if r.release then 2 else if r.read then 1 else 0
  sendCoh s 0x16 r.slot (r.region * 16384) (cohExt s r.tid 0 kind r.unit r.region false) .ok []

/-- Coherence requests and recalls that travelled on a lost plane go again with their TIDs (R348); `old` is the state before
the loss. -/
def resendCoh (old s : Block) (k : Nat) (ds : List Nat) : Block :=
  let lost := fun (a d : Nat) => ds.contains d && planeFor old a d == some k
  let s := (s.coh.dir.filter (fun e => e.2.st == .b)).foldl (fun s e => resendRecall s e.1 (fun d => lost (128 * e.1) d)) s
  let s := s.coh.asked.foldl (fun s q =>
    let a := 128 * q.line
    if lost (rackLocal a) (rackSlot a) then sendCget s q else s) s
  s.own.mine.foldl (fun s r => if !r.held && r.tid != 65536 && lost (128 * (r.region * 16384)) r.slot then sendCown s r else s) s

/-- Plane `k` has become unusable toward the slots `ds` (R324); `old` is the state before. -/
def failPlane (old s : Block) (k : Nat) (ds : List Nat) : Block :=
  let s := ds.foldl genNext s
  let s := resendIf s (fun o => o.pkt.plane == some k && ds.contains o.pkt.dslot)
  let p := portAt s k
  let queued := (p.waiting.flatMap (fun e => e.2)).filter (fun x => x.ptype == 0x07 && ds.contains x.dslot)
  let again := (p.acks.map (fun e => e.2)).filter (fun x => ds.contains x.dslot) ++ queued
  let s := portPut s k { p with
    acks := p.acks.filter (fun e => !ds.contains e.2.dslot)
    waiting := p.waiting.foldl (fun w e => tset [] w e.1 (e.2.filter (fun x => !ds.contains x.dslot))) [] }
  let s := again.foldl (fun s x => sendAtomAck s x.dslot x.req x.seq x.addr) s
  resendCoh old s k ds

/-- Planes have become usable: stranded requests leave, and tagged requests that timed out are released (R333). -/
def planesBack (s : Block) : Block :=
  let s := resendIf s (fun o => o.pkt.plane.isNone)
  let late := s.fab.outst.filter (fun o => o.timedOut && (planeFor s o.pkt.addr o.pkt.dslot).isSome)
  let s := { s with fab := { s.fab with outst := s.fab.outst.filter (fun o =>
    !(o.timedOut && (planeFor s o.pkt.addr o.pkt.dslot).isSome)) } }
  releaseHeld (late.foldl (fun s o => sendAtomAck s o.pkt.dslot o.pkt.req o.pkt.seq o.pkt.addr) s)

/-! ### Flits (R306, R307) -/

/-- Drop what a FACK acknowledges, among the flits of the replay buffer. -/
def dropAcked (us : List Flit) (fack : BitVec 12) : List Flit :=
  if (us.take 512).any (fun f => f.fseq == fack) then (us.dropWhile (fun f => f.fseq != fack)).drop 1 else us

/-- A FACK reaches port `k`: acknowledged flits, and the ATOMACKs they carried, need not be kept. -/
def takeFack (s : Block) (k : Nat) (fack : BitVec 12) : Block :=
  let p := portAt s k
  let us := dropAcked p.unacked fack
  portPut s k { p with unacked := us, stalls := if us.length = p.unacked.length then p.stalls else 0, acks := p.acks.filter (fun e => us.any (fun f => f.fseq == e.1)) }

/-- Send again from FACK + 1, in the original order; every flit sent again is counted, and so is the replay until a flit is
acknowledged (R304). -/
def replayFrom (s : Block) (k : Nat) (fack : BitVec 12) : Block :=
  let s := takeFack s k fack
  let us := (portAt s k).unacked.take 512
  if us.any (fun f => f.fseq == fack + 1) then
    let again := us.dropWhile (fun f => f.fseq != fack + 1)
    let s := countEvent (countEvent (odBump s 0x6030 1 again.length) (unitPort k) 2 again.length) (unitPort k) 1 again.length
    let s := portPut s k { portAt s k with stalls := (portAt s k).stalls + 1 }
    emit s (.flits k none again)
  else s

/-- A good flit in sequence: its slots and its credit are taken, it acknowledges or asks for a replay, and the port sends what it now may
and returns the credit that it owes. -/
def acceptFlit (s : Block) (k : Nat) (f : Flit) : Block :=
  let p := portAt s k
  let r := takeSlots { p with rxSeq := p.rxSeq + 1, nakked := false, accepted := p.accepted + 1, credits := tset 0 p.credits f.cvc.toNat (tget 0 p.credits f.cvc.toNat + f.cred.toNat) } f
  let s := portPut (wakeUnit s (unitPort k)) k r.1
  let s := { s with fab := { s.fab with discards := s.fab.discards + r.2 } }
  returnCredits (runPort (if f.kind = .nak then replayFrom s k f.fack else takeFack s k f.fack) k) k

/-- FLIT_RECEIVED (R307): a corrected codeword is counted whatever becomes of its flit. -/
def execFlitReceived (port : Fin 18) (f : Flit) (s : State) : Host.Outcome State Fault Refusal := onBlock s fun s =>
  .next (if !portUp s port then s
    else
      let p := portAt s port
      let s := if f.fixed then odBump s 0x6030 2 1 else s
      let good := f.good && f.slots.length == 15
      if good && f.fseq == p.rxSeq then acceptFlit s port f
      else if !good || !p.nakked then
        emit (portPut s port { p with nakked := true }) (.flits port (some (p.rxSeq - 1)) [])
      else s)

/-- NAK (R307). -/
def execNak (port : Fin 18) (fack : BitVec 12) (s : State) : Host.Outcome State Fault Refusal := onBlock s fun s =>
  .next (if portUp s port then replayFrom s port fack else s)

/-! ### Retraining (R304, R305) -/

/-- Whether a cause of a retrain holds as far as the port can see: a stalled replay has gone 8 times without progress (R304). -/
def faultHolds (p : Port) (cause : LaneCause) : Bool := cause != .replayStalled || decide (8 ≤ p.stalls)

/-- LANE_FAULT (R304): each of the four causes starts a retrain. -/
def execLaneFault (port : Fin 18) (cause : LaneCause) (s : State) : Host.Outcome State Fault Refusal := onBlock s fun s =>
  .next (if portUp s port && faultHolds (portAt s port) cause then
      odSetByte (portPut s port { portAt s port with before := portState s port, stalls := 0 }) 0x6000 1 port 1
    else s)

/-- State code of a port by the lanes that pass (R304). -/
def trainedCode (n : Nat) : Nat := if n = 8 then 2 else if 6 ≤ n then 3 else if 4 ≤ n then 4 else 0

/-- Lanes that pass. -/
def lanesPassed (v : BitVec 8) : Nat := ((List.range 8).filter (fun k => bit v.toNat k)).length

/-- RETRAIN_DONE (R304, R305): the port returns with no more lanes than it had, or goes DOWN. -/
def execRetrainDone (port : Fin 18) (passed : BitVec 8) (s : State) : Host.Outcome State Fault Refusal := onBlock s fun s =>
  .next (if portState s port ≠ 1 then s
    else
      let p := portAt s port
      let n := trainedCode (lanesPassed passed)
      let new := if n = 0 then 0 else max n p.before
      let ds := planeSlots s port
      let s1 := portPut (odSetByte s 0x6000 1 port new) port { p with before := 0 }
      let s1 := report s1 (unitPort port) 4 1 .ok new
      if new = 0 then
        let s2 := if p.before = 0 then s1 else raiseAlarm s1 0x03 (unitPort port) .ok new
        ledgerFlush (failPlane s s2 port ds)
      else
        let s2 := if 3 ≤ new ∧ new ≠ p.before then raiseAlarm (odBump s1 0x6030 3 1) 0x03 (unitPort port) .ok new else s1
        -- Flits held in the replay buffer during the retrain are sent after it.
        let s3 := if p.unacked.isEmpty then s2 else emit s2 (.flits port none (p.unacked.take 512))
        ledgerFlush (runPort (planesBack s3) port))

/-- DOWN_PORT_RETRAIN (R304): a DOWN port that is not disabled trains again. -/
def execDownPortRetrain (port : Fin 18) (s : State) : Host.Outcome State Fault Refusal := onBlock s fun s =>
  let p := portAt s port
  .next (if powerState s < 2 || portState s port != 0 || p.disabled then s
    else odSetByte (portPut s port { p with before := 0 }) 0x6000 1 port 1)

/-- PLANE_RETURN (R323): a stream without outstanding requests goes back to a better plane. -/
def execPlaneReturn (req : BitVec 10) (slot : SlotId) (line : BitVec 34) (s : State) : Host.Outcome State Fault Refusal := onBlock s fun s =>
  let a := 128 * line.toNat
  let key := streamKey req.toNat slot a
  let busy := s.fab.outst.any (fun o => streamKey o.pkt.req o.pkt.dslot o.pkt.addr == key)
  .next (if busy || tget 0 s.fab.streams key == 0 then s
    else match planeFor s a slot with
    | some k => setStreamPlane s key k
    | none => s)

/-! ### Reachability (R313) -/

/-- REACH (R313): the latest map is kept, counting a MAPSEQ 1 to 32,767 ahead as later. -/
def execReach (plane : Fin 18) (mapSeq : BitVec 16) (reachable : BitVec 72) (s : State) : Host.Outcome State Fault Refusal := onBlock s fun s =>
  .next (if !portUp s plane then s
    else
      let p := planeAt s plane
      let later := match p.mapSeq with
        | none => true
        | some m => decide (1 ≤ (mapSeq - m).toNat) && decide ((mapSeq - m).toNat ≤ 32767)
      let p1 := if later then { p with mapSeq := some mapSeq, reachable := reachable } else p
      let ds := planeSlots s plane
      let s1 := planePut s plane { p1 with lost := false }
      let gone := ds.filter (fun d => !planeAlive s1 plane d)
      let s2 := if gone.isEmpty then s1 else failPlane s s1 plane gone
      ledgerFlush (planesBack s2))

/-- REACH_LOST (R313): the plane is unusable toward every slot. -/
def execReachLost (plane : Fin 18) (s : State) : Host.Outcome State Fault Refusal := onBlock s fun s =>
  let p := planeAt s plane
  .next (if p.lost then s
    else ledgerFlush (failPlane s (planePut s plane { p with lost := true }) plane (planeSlots s plane)))

/-! ### Requests at the home -/

/-- Whether a slot is in the peer map; the module's own slot always is (R316). -/
def peerOk (s : Block) (slot : Nat) : Bool := slot == ownSlot s || bit (odNat s 0x6000 2) slot

/-- A packet that asks for no answer, or is one, from a slot outside the peer map applies nothing and is counted (R316). -/
def peerOnly (s : Block) (slot : Nat) (t : Block) : Block := if peerOk s slot then t else odBump s 0x6030 7 1

/-- A packet that is not served, counted with the discarded ones (R310, R324). -/
def discardPkt (s : Block) : Block := { s with fab := { s.fab with discards := s.fab.discards + 1 } }

/-- The port and the generation of an arriving request (R324): none when it is discarded. -/
def arrive (s : Block) (p : PktHdr) : Option Block :=
  let seen := tget 0 s.fab.seenGen p.sslot
  let behind := (seen + 15 - p.pgen.toNat) % 16
  if seen ≠ 0 ∧ 1 ≤ behind ∧ behind ≤ 8 then none
  else some { s with fab := { s.fab with seenGen := tset 0 s.fab.seenGen p.sslot (p.pgen.toNat + 1) } }

/-- A refusal of R316, counted. -/
def denyPeer (s : Block) (p : PktHdr) (ptype seq : Nat) (payload : List (BitVec 128)) : Block :=
  respond (odBump s 0x6030 7 1) p ptype seq .peerDenied payload

/-- An access of a request lies in one line and carries a hint that R279 lists. -/
def oneLine (p : PktHdr) (n : Nat) : Bool := decide (p.addr.toNat % 128 + n ≤ 128) && p.hint.toNat != 3

/-- Serve an arriving request: `ptype` and `payload` are those of a response with a status alone. -/
def serve (s : Block) (p : PktHdr) (ptype seq : Nat) (payload : List (BitVec 128)) (ok : Bool) (body : Block → Block) : Block :=
  if !portUp s p.plane then s
  else match arrive s p with
    | none => discardPkt s
    | some s1 =>
      if !peerOk s1 p.sslot then denyPeer s1 p ptype seq payload
      else if !ok then respond s1 p ptype seq .malformed payload
      else ledgerFlush (body s1)

/-- RD (R325). -/
def execRd (p : PktHdr) (size : BitVec 8) (ecc : Ecc) (s : State) : Host.Outcome State Fault Refusal := onBlock s fun s =>
  let n := size.toNat + 1
  .next (serve s p 0x02 0 [] (oneLine p n) (fun s =>
    let a := p.addr.toNat
    homeAdmit (if populated s a then eccRead s a ecc else s) (lineOf a) (.rd p n)))

/-- WR (R325). -/
def execWr (p : PktHdr) (data : List Byte) (s : State) : Host.Outcome State Fault Refusal := onBlock s fun s =>
  .next (serve s p 0x04 0 [] (someData data && oneLine p data.length) (fun s => homeAdmit s (lineOf p.addr.toNat) (.wr p data)))

/-- BULK (R310): within one granule, applied whole or not at all; a packet over both lines of its granule is answered when
the later piece is performed. -/
def execBulk (p : PktHdr) (data : List Byte) (s : State) : Host.Outcome State Fault Refusal := onBlock s fun s =>
  let a := p.addr.toNat
  .next (serve s p 0x31 0 [] (someData data && decide (a % 256 + data.length ≤ 256) && p.hint.toNat != 3) (fun s =>
    match accessStatus s (requesterOf p.sslot p.req.toNat) .write a data.length with
    | some (st, _) => respond s p 0x31 0 st []
    | none =>
      let n := 128 - a % 128
      if data.length ≤ n then homeAdmit s (lineOf a) (.bulk p data)
      else
        let s1 := homeAdmit s (lineOf a + 1) (.inner (requesterOf p.sslot p.req.toNat) p.hint.toNat (a + n) (data.drop n))
        homeAdmit s1 (lineOf a) (.bulk p (data.take n))))

/-! ### Tagged requests (R328 to R331) -/

/-- A new SEPOCH frees every entry of its slot (R329). -/
def noteEpoch (s : Block) (p : PktHdr) (x : TagExt) : Block :=
  let old := tget 0 s.fab.sepoch p.sslot
  if old = x.sepoch.toNat + 1 then s
  else { s with fab := { s.fab with
    replay := s.fab.replay.filter (fun e => e.slot != p.sslot.val)
    sepoch := tset 0 s.fab.sepoch p.sslot (x.sepoch.toNat + 1) } }

/-- Whether a waiting request is this tagged request. -/
def sameTagged (p : PktHdr) (x : TagExt) (r : HomeReq) : Bool :=
  match r with
  | .atom p1 x1 _ _ => p1.sslot == p.sslot && p1.req == p.req && x1.seq == x.seq
  | .red p1 x1 _ => p1.sslot == p.sslot && p1.req == p.req && x1.seq == x.seq
  | _ => false

/-- The same tagged request already waits for its line. -/
def alreadyWaits (s : Block) (p : PktHdr) (x : TagExt) : Bool := s.coh.waiting.any (fun e => e.2.any (sameTagged p x))

/-- A tagged request that waits is sent again: it keeps its place, and its response returns on the plane of the later arrival (R320). -/
def waitAnew (s : Block) (p : PktHdr) (x : TagExt) : Block :=
  let anew (r : HomeReq) : HomeReq := if sameTagged p x r then
      (match r with
      | .atom _ _ o c => .atom p x o c
      | .red _ _ d => .red p x d
      | r => r)
    else r
  { s with coh := { s.coh with waiting := s.coh.waiting.map (fun e => (e.1, e.2.map anew)) } }

/-- The procedure of R329, with response type `ptype`. -/
def tagged (s : Block) (p : PktHdr) (x : TagExt) (ptype : Nat) (body : Block → Block) : Block :=
  serve s p ptype x.seq.toNat [rspSlot s 0] true (fun s =>
    let s := noteEpoch s p x
    match s.fab.replay.find? (fun e => e.slot == p.sslot.val && e.req == p.req.toNat && e.seq == x.seq.toNat) with
    | some e => respond (odBump s 0x6030 5 1) p ptype x.seq.toNat e.status [rspSlot s e.old.toNat]
    | none =>
      if x.retry && x.hepoch.toNat != homeEpoch s then respond s p ptype x.seq.toNat .outcomeUnknown [rspSlot s 0]
      else if alreadyWaits s p x then waitAnew s p x
      else body s)

/-- Store the outcome of a tagged request and answer it. -/
def answerTagged (s : Block) (p : PktHdr) (x : TagExt) (ptype : Nat) (st : Status) (old : Nat) : Block :=
  respond (replayPut s ⟨p.sslot, p.req.toNat, x.seq.toNat, st, BitVec.ofNat 64 old⟩) p ptype x.seq.toNat st [rspSlot s old]

/-- ATOM (R326, R329): SIGADD and SIGSET reach the sync unit, the other operations their line. -/
def execAtom (p : PktHdr) (x : TagExt) (opnd cmp : Word) (s : State) : Host.Outcome State Fault Refusal := onBlock s fun s =>
  let a := p.addr.toNat
  .next (tagged s p x 0x06 (fun s =>
    if x.aop.toNat = 0b11110 ∨ x.aop.toNat = 0b11111 then
      if 16384 ≤ a then answerTagged s p x 0x06 .malformed 0
      else
        let old := (syncAt s a).count.toNat
        let s := if x.aop.toNat = 0b11110 then signalAdd s a opnd else signalSet s a opnd
        answerTagged s p x 0x06 .ok old
    else if !atomAops.contains x.aop.toNat ∨ a % (if x.w64 then 8 else 4) ≠ 0 ∨ p.hint.toNat = 3 then
      answerTagged s p x 0x06 .malformed 0
    else homeAdmit s (lineOf a) (.atom p x opnd cmp)))

/-- RED (R326, R329). -/
def execRed (p : PktHdr) (x : TagExt) (data : List Byte) (s : State) : Host.Outcome State Fault Refusal := onBlock s fun s =>
  let a := p.addr.toNat
  let n := if x.w64 then 8 else 4
  .next (tagged s p x 0x09 (fun s =>
    if !someData data ∨ !redAops.contains x.aop.toNat ∨ a % n ≠ 0 ∨ data.length % n ≠ 0 ∨ !oneLine p data.length then
      answerTagged s p x 0x09 .malformed 0
    else homeAdmit s (lineOf a) (.red p x data)))

/-- ABORT (R314). -/
def execAbort (p : PktHdr) (x : TagExt) (s : State) : Host.Outcome State Fault Refusal := onBlock s fun s =>
  let a := p.addr.toNat
  .next (tagged s p x 0x09 (fun s =>
    if 16384 ≤ a ∨ x.aop ≠ 0 ∨ x.w64 then answerTagged s p x 0x09 .malformed 0
    else answerTagged (abortObj s a) p x 0x09 .ok 0))

/-- ATOMACK (R330): the entry named by REQ and SEQ is freed; one that names none is ignored. -/
def execAtomack (sslot : SlotId) (req : BitVec 10) (seq : BitVec 16) (s : State) : Host.Outcome State Fault Refusal := onBlock s fun s =>
  .next (peerOnly s sslot { s with fab := { s.fab with replay := s.fab.replay.filter (fun e =>
      !(e.slot == sslot.val && e.req == req.toNat && e.seq == seq.toNat)) } })

/-! ### Responses at the requester -/

/-- The outstanding request that a response answers. -/
def answered (s : Block) (r : RspHdr) (types : List Nat) : Option Outst :=
  s.fab.outst.find? (fun o => types.contains o.pkt.ptype && o.pkt.dslot == r.sslot.val && o.pkt.req == r.req.toNat &&
    o.pkt.addr == r.addr.toNat && (!isTagged o.pkt.ptype || o.pkt.seq == r.seq.toNat))

/-- Remove one outstanding request. -/
def dropOutst (s : Block) (o : Outst) : Block := { s with fab := { s.fab with outst := s.fab.outst.erase o } }

/-- A release leaves once the owner's write-backs to the region are performed (R352); until then its TID is 65,536. -/
def sendReleases (s : Block) : Block :=
  s.own.mine.foldl (fun s r =>
    let busy := (s.fab.outst ++ s.fab.held).any (fun o => o.pkt.ptype == 0x03 && o.pkt.dslot == r.slot &&
      o.pkt.addr / 0x200000 == r.region && !o.timedOut && decide (o.pkt.req / 8 = r.unit))
    if r.release && r.tid == 65536 && !busy then
      let tid := s.coh.nextTid
      let r1 := { r with tid := tid.toNat }
      let s := { s with coh := { s.coh with nextTid := tid + 1 }, own := { s.own with mine := s.own.mine.map (fun y => if y = r then r1 else y) } }
      sendCown s r1
    else s) s

/-- The end of an untagged request. -/
def endPlain (s : Block) (r : RspHdr) (types : List Nat) (st : Status) (data : List Byte) : Block :=
  peerOnly s r.sslot (match answered s r types with
  | none => discardPkt s
  | some o => ledgerFlush (sendReleases (releaseHeld (deliverTo (dropOutst s o) o.forWhom o.pkt.dslot o.pkt.addr st data 0))))

/-- The end of a tagged request: the epoch is recorded, ATOMACK leaves, and the outcome is delivered unless the request has
timed out (R329, R330, R333). -/
def endTagged (s : Block) (r : RspHdr) (types : List Nat) (st : Status) (old : Nat) (hepoch : BitVec 32) : Block :=
  peerOnly s r.sslot (
  let s := { s with fab := { s.fab with hepoch := tset 0 s.fab.hepoch r.sslot hepoch.toNat } }
  match answered s r types with
  | none => discardPkt s
  | some o =>
    let s := sendAtomAck (dropOutst s o) o.pkt.dslot o.pkt.req o.pkt.seq o.pkt.addr
    if o.timedOut then releaseHeld (discardPkt s)
    else
      let s := lateOutcome (if st = .outcomeUnknown then odBump s 0x6030 6 1 else s) o st
      ledgerFlush (releaseHeld (deliverTo s o.forWhom o.pkt.dslot o.pkt.addr st [] old)))

/-- RDRSP (R325). -/
def execRdrsp (r : RspHdr) (st : Status) (data : List Byte) (s : State) : Host.Outcome State Fault Refusal := onBlock s fun s =>
  .next (if packetData data then endPlain s r [0x01] st data else discardPkt s)

/-- WRACK (R210). -/
def execWrack (r : RspHdr) (st : Status) (s : State) : Host.Outcome State Fault Refusal := onBlock s fun s => .next (endPlain s r [0x03] st [])

/-- BULKACK (R310). -/
def execBulkack (r : RspHdr) (st : Status) (s : State) : Host.Outcome State Fault Refusal := onBlock s fun s => .next (endPlain s r [0x30] st [])

/-- ATOMRSP (R330). -/
def execAtomrsp (r : RspHdr) (st : Status) (old : Word) (hepoch : BitVec 32) (s : State) : Host.Outcome State Fault Refusal := onBlock s fun s =>
  .next (endTagged s r [0x05] st old.toNat hepoch)

/-- REDRSP (R330). -/
def execRedrsp (r : RspHdr) (st : Status) (hepoch : BitVec 32) (s : State) : Host.Outcome State Fault Refusal := onBlock s fun s =>
  .next (endTagged s r [0x08, 0x3E] st 0 hepoch)

/-- FABRIC_TIMEOUT (R332, R333): a request whose limit has passed ends with ST_FABRIC_TIMEOUT; the SEQ of a tagged one stays
reserved until its ATOMACK is sent. -/
def execFabricTimeout (r : RspHdr) (s : State) : Host.Outcome State Fault Refusal := onBlock s fun s =>
  .next (match answered s r [0x01, 0x03, 0x30, 0x05, 0x08, 0x3E] with
    | none => s
    | some o =>
      if o.timedOut ∨ hallNat s < o.since.toNat + reqLimit s o.pkt.dslot then s
      else
        let s := if isTagged o.pkt.ptype then { s with fab := { s.fab with outst := s.fab.outst.map (fun y => if y = o then { o with timedOut := true } else y) } } else dropOutst s o
        let s := deliverTo s o.forWhom o.pkt.dslot o.pkt.addr .fabricTimeout [] 0
        ledgerFlush (sendReleases (planesBack s)))

end Sys2Proof.Machine
end

