-- ==== Sys2Proof/Machine/Time.lean ====
section
/-! DEFINITION. The time unit (R312, R432 to R434, R574, R577). -/

namespace Sys2Proof.Machine

open Sys2Proof

/-- TIME_STATE of R432: 0 UNSET, 1 LOCKED_PLANES, 2 LOCKED_HTREF, 3 LOCKED_PTP, 4 HOLDOVER, 5 FREE_RUN. -/
def timeState (s : Block) : Nat := odNat s 0x9400 2

/-- A change of state is an event of the time unit; FREE_RUN raises alarm 0x0C (R432, R433). -/
def setTimeState (s : Block) (v : Nat) : Block :=
  if timeState s = v then s
  else
    let s := { s with time := { s.time with holdSince := if v = 4 then some (hallNow s) else none } }
    let s := report (odPut s 0x9400 2 v) unitTime 3 1 .ok v
    if v = 5 then raiseAlarm s 0x0C unitTime .ok v else s

/-- Correct hall time by `c` ns: below 1 µs by slewing; a larger forward offset by a step, a larger backward one by
slewing, each with an alarm (R434). -/
def timeCorrect (s : Block) (c : Int) : Block :=
  if -1000 < c ∧ c < 1000 then { s with clk := { s.clk with slew := c } }
  else if 0 < c then
    let s := { s with clk := { s.clk with slew := 0, hall := s.clk.hall + BitVec.ofInt 64 c } }
    let s := { s with fab := { s.fab with planes := s.fab.planes.map (fun e => (e.1, { e.2 with offset := e.2.offset + c })) } }
    raiseAlarm s 0x0D unitTime .ok c.toNat
  else raiseAlarm { s with clk := { s.clk with slew := c } } 0x0D unitTime .ok (-c).toNat

/-- Whether TIME_SOURCE admits a source: 1 planes, 2 HTREF, 3 PTP; 0 admits all (R432). -/
def sourceAllowed (s : Block) (k : Nat) : Bool := odNat s 0x9400 1 == 0 || odNat s 0x9400 1 == k

/-- A plane's offset is known once it has sent a SYNC with SRC 0 and answered a DELAY_REQ (R312). -/
def planeTimed (p : Plane) : Bool := p.heard && p.src == 0 && p.synced

/-- The offsets of the planes that serve as a source. -/
def planeOffsets (s : Block) : List Int := (s.fab.planes.filter (fun e => planeTimed e.2)).map (fun e => e.2.offset)

/-- The median; of an even number of offsets the lower of the two in the middle (log 22). -/
def median (l : List Int) : Int := (l.mergeSort (fun a b => decide (a ≤ b))).getD ((l.length - 1) / 2) 0

/-- Sources in their order (R432). -/
def planesHere (s : Block) : Bool := sourceAllowed s 1 && !(planeOffsets s).isEmpty
def htrefHere (s : Block) : Bool := sourceAllowed s 2 && (decide (3 ≤ s.time.htGood) || (timeState s == 2 && !s.time.htLost))

/-- The source in use is gone: the next one takes over, or HOLDOVER begins (R432). PTP takes over at its next message. -/
def nextSource (s : Block) : Block :=
  if planesHere s then setTimeState s 1 else if htrefHere s then setTimeState s 2 else setTimeState s 4

/-- TIME_SYNC (R312): the offset from the plane, and the median of the planes' offsets corrects hall time. -/
def execTimeSync (plane : Fin 18) (t1 : Word) (_tseq : BitVec 16) (src : BitVec 2) (s : State) : Host.Outcome State Fault Refusal := onBlock s fun s =>
  .next (if !portUp s plane ∨ src = 3 then s
    else
      let p := planeAt s plane
      let off : Int := (hallNat s : Int) - t1.toNat - p.delay
      let s := planePut s plane { p with t1 := t1, t2 := hallNow s, src := src, heard := true, offset := off }
      if planesHere s then ledgerFlush (setTimeState (timeCorrect s (-(median (planeOffsets s)))) 1)
      else if timeState s = 1 then ledgerFlush (nextSource s) else s)

/-- DELAY_REQ_DUE (R312): one request on each UP port. -/
def execDelayReqDue (s : State) : Host.Outcome State Fault Refusal := onBlock s fun s =>
  .next (((List.range 18).filter (portUp s)).foldl (fun s k =>
    let n := s.fab.delaySeq
    let s := planePut s k { planeAt s k with t3 := hallNow s, tseq := n }
    emit { s with fab := { s.fab with delaySeq := n + 1 } } (.delayReq k n)) s)

/-- DELAY_RSP (R312): the link delay by the latest answered request. -/
def execDelayRsp (plane : Fin 18) (t4 : Word) (tseq : BitVec 16) (s : State) : Host.Outcome State Fault Refusal := onBlock s fun s =>
  let p := planeAt s plane
  .next (if !portUp s plane ∨ !p.heard ∨ p.tseq ≠ tseq then s
    else
      let d : Int := (((p.t2.toNat : Int) - p.t1.toNat) + ((t4.toNat : Int) - p.t3.toNat)) / 2
      planePut s plane { p with delay := d, offset := p.offset + p.delay - d, synced := true })

/-- PLANE_SOURCE_LOST (R312): no SYNC with SRC 0 for 1 ms. -/
def execPlaneSourceLost (s : State) : Host.Outcome State Fault Refusal := onBlock s fun s =>
  let s1 := { s with fab := { s.fab with planes := s.fab.planes.map (fun e => (e.1, { e.2 with heard := false })) } }
  .next (if timeState s = 1 then ledgerFlush (nextSource s1) else s1)

/-- HTREF is lost as a source (R574). -/
def htrefLost (s : Block) : Block :=
  let s := { s with time := { s.time with htGood := 0, htPend := none, htTime := none, htBad := 0, htLost := true } }
  -- Each input fault is written to the log (R574).
  let s := (logOccur s 12 0 unitTime .ok 1 0).1
  if timeState s = 2 then nextSource s else s

/-- HTREF_FRAME (R574, R577): a frame is taken when its CRC matches and it continues the series, which counts from its third frame
after a break; three in a row that fail their CRC lose the source. -/
def execHtrefFrame (time : Word) (crcOk : Bool) (s : State) : Host.Outcome State Fault Refusal := onBlock s fun s =>
  .next (if powerState s = 0 then s
    else if !crcOk then
      let s := { s with time := { s.time with htPend := none, htBad := s.time.htBad + 1 } }
      if s.time.htBad = 3 then ledgerFlush (htrefLost s) else s
    else
      let goes := match s.time.htTime with
        | some t => time == t + 1000000
        | none => false
      let n := if goes then min 3 (s.time.htGood + 1) else 1
      { s with time := { s.time with
        htTime := some time, htGood := n, htBad := 0, htLost := s.time.htLost && n < 3
        htPend := if n = 3 then some time else none, htAt := if n = 3 then hallNow s else s.time.htAt } })

/-- HTREF_EDGE (R577): the edge within a millisecond of a taken frame has the time that the frame names. -/
def execHtrefEdge (s : State) : Host.Outcome State Fault Refusal := onBlock s fun s =>
  .next (match s.time.htPend with
    | none => s
    | some t =>
      let s := { s with time := { s.time with htPend := none } }
      if planesHere s || !htrefHere s || decide (s.time.htAt.toNat + 1000000 < hallNat s) then s
      else ledgerFlush (setTimeState (timeCorrect s ((t.toNat : Int) - hallNat s)) 2))

/-- HTREF_FRAMES_MISSING (R574). -/
def execHtrefFramesMissing (s : State) : Host.Outcome State Fault Refusal := onBlock s fun s =>
  .next (if s.time.htLost ∨ powerState s = 0 then s else ledgerFlush (htrefLost s))

/-- IEEE_1588_MESSAGE (R432): `offset` is the module's offset from its PTP source. -/
def execIeee1588Message (offset : Int) (s : State) : Host.Outcome State Fault Refusal := onBlock s fun s =>
  .next (if powerState s < 2 || !sourceAllowed s 3 || planesHere s || htrefHere s then s
    else ledgerFlush (setTimeState (timeCorrect s (-offset)) 3))

/-- HOLDOVER_EXPIRY (R433): 10 s of HOLDOVER end in FREE_RUN. -/
def execHoldoverExpiry (s : State) : Host.Outcome State Fault Refusal := onBlock s fun s =>
  .next (match s.time.holdSince with
    | some t => if timeState s = 4 ∧ t.toNat + 10000000000 ≤ hallNat s then ledgerFlush (setTimeState s 5) else s
    | none => s)

/-- A write of TIME_SOURCE may exclude the source in use (R432). -/
def timeRepick (s : Block) : Block :=
  let k := timeState s
  if 1 ≤ k ∧ k ≤ 3 ∧ !sourceAllowed s k then nextSource s else s

end Sys2Proof.Machine
end

