-- ==== Sys2Proof/Machine/Coherence.lean ====
section
/-! DEFINITION. Coherence within the bay (R340 to R348) and the ownership of regions (R349 to R356). -/

namespace Sys2Proof.Machine

open Sys2Proof

/-- Whether two slots lie in one bay (R340). -/
def sameBay (s : Block) (d : Nat) : Bool := d / 8 == ownSlot s / 8

/-! ### Requests of caching agents at the home (R344, R348) -/

/-- Answer a cluster's request with a status and no line. -/
def refuseCget (s : Block) (a : Agent) (line : Nat) (tid : BitVec 16) (st : Status) : Block :=
  sendCoh s 0x14 a.slot line (cohExt s tid.toNat a.cluster 0 0 0 false) st []

/-- A request for a line that is already open or waits: it gets the same response again, or the one to come (R348). -/
def cgetAgain (s : Block) (a : Agent) (line : Nat) (tid : BitVec 16) : Option Block :=
  match s.coh.opened.find? (fun o => o.slot == a.slot.val && o.c == a.cluster.val && o.line == line && o.tid == tid) with
  | some o =>
    some (if o.st = .ok then
        sendCoh s 0x14 a.slot line (cohExt s tid.toNat a.cluster 0 0 0 true) .ok (memRead s (line * 128) 128)
      else refuseCget s a line tid o.st)
  | none =>
    if (waitingAt s line).any (fun r => match r with
      | .cget a1 _ t1 _ => a1 == a && t1 == tid
      | _ => false) then some s else none

/-- CGETS and CGETM: served at once, or after the recalls the table of R344 asks for. Only clusters of the bay and owners of
the region hold copies (R342). -/
def takeCget (s : Block) (a : Agent) (line : Nat) (tid : BitVec 16) (hint : BitVec 2) (excl : Bool) : Block :=
  if powerState s < 2 then s
  else
    match cgetAgain s a line tid with
    | some s1 => s1
    | none =>
      if !peerOk s a.slot then refuseCget (odBump s 0x6030 7 1) a line tid .peerDenied
      else if hint = 3 then refuseCget s a line tid .malformed
      else if hbmLines ≤ line then refuseCget s a line tid .badAddress
      else if !sameBay s a.slot && !agentOwns s a line then refuseCget s a line tid .malformed
      else ledgerFlush (homeAdmit s line (.cget a excl tid hint.toNat))

/-- CGETS (R344). -/
def execCgets (a : Agent) (line : BitVec 34) (ask : LineAsk) (s : State) : Host.Outcome State Fault Refusal := onBlock s fun s =>
  .next (takeCget s a line.toNat ask.tid ask.hint false)

/-- CGETM (R344). -/
def execCgetm (a : Agent) (line : BitVec 34) (ask : LineAsk) (s : State) : Host.Outcome State Fault Refusal := onBlock s fun s =>
  .next (takeCget s a line.toNat ask.tid ask.hint true)

/-- A line that a cluster returned is written at its home (R344). -/
def putBack (s : Block) (line : Nat) (data : List Byte) : Block :=
  clearBad (memWrite (cacheTouch s (line * 128) 0 true true) (line * 128) data) (line * 128) data.length

/-- CPUT (R344): the holder's data are written and it is no sharer any more; the owner of a region writes back what it holds
(R352). Every CPUT is acknowledged, a repeated one without effect (R348). -/
def execCput (a : Agent) (line : BitVec 34) (tid : BitVec 16) (data : Option (List Byte)) (s : State) : Host.Outcome State Fault Refusal := onBlock s fun s =>
  let l := line.toNat
  let ext := cohExt s tid.toNat a.cluster 0 0 0 false
  .next (if powerState s < 2 then s
    else if !optLine data then discardPkt s
    else if !peerOk s a.slot then sendCoh (odBump s 0x6030 7 1) 0x15 a.slot l ext .peerDenied []
    else
      let d := dirAt s l
      let me := BitVec.ofNat 96 (2 ^ sharerBit a)
      let holder := sameBay s a.slot && (d.sharers &&& me) != 0
      let owner := (ownEntries s (regionOf (l * 128))).any (fun e => e.oslot == a.slot.val && e.ounit == a.cluster.val && !e.read && !e.lost)
      let s1 := match data with
        | some bs => if holder || owner then putBack s l bs else s
        | none => s
      let s2 := if !holder then s1
        else
          let left := d.sharers &&& ~~~me
          if d.st = .b then dirPut s1 l { d with sharers := left }
          else dirPut s1 l { d with sharers := left, st := if left = 0 then .u else .s, wasM := false }
      ledgerFlush (drainLine l ((waitingAt s2 l).length + 1) (sendCoh s2 0x15 a.slot l ext .ok [])))

/-! ### Recalls at a cluster (R344, R348) -/

/-- Reservations of a cluster's harts on a line it drops are lost. -/
def dropResv (s : Block) (c rackLine : Nat) : Block :=
  { s with harts := s.harts.map (fun e =>
      if e.1 / 8 = c ∧ e.2.resv = some rackLine then (e.1, { e.2 with resv := none }) else e) }

/-- A cluster answers a recall: INV drops the line and returns it if dirty, FWD returns it and keeps it in S; a TID already
answered gets the same CACK again. A line that a reset has lost gets no answer (R346, R369). -/
def takeRecall (s : Block) (home c line : Nat) (tid : BitVec 16) (fwd : Bool) : Block :=
  let rackLine := rackAddr home (line * 128) / 128
  let reply := fun (s : Block) (data : Option (List Byte)) =>
    sendCoh s 0x15 home line (cohExt s tid.toNat c 0 0 0 data.isSome) .ok (data.getD [])
  if powerState s < 2 then s
  else if !peerOk s home then sendCoh (odBump s 0x6030 7 1) 0x15 home line (cohExt s tid.toNat c 0 0 0 false) .peerDenied []
  else if (heldAt s rackLine c).excl && (heldAt s rackLine c).data.isEmpty then s
  else
    match s.coh.answered.find? (fun x => x.home == home && x.c == c && x.line == line && x.tid == tid) with
    | some x => reply s x.data
    | none =>
      let h := heldAt s rackLine c
      let data := if h.data.isEmpty then none
        else if fwd then (if h.excl then some h.data else none) else (if h.dirty then some h.data else none)
      let s1 := if fwd then (if h.data.isEmpty then s else heldPut s rackLine c { h with excl := false, dirty := false })
        else dropResv (heldPut s rackLine c held0) c rackLine
      let keep := s1.coh.answered.filter (fun x => !(x.home == home && x.c == c && x.line == line))
      reply { s1 with coh := { s1.coh with answered := keep ++ [⟨home, c, line, tid, data⟩] } } data

/-- CRECALL_INV (R344). -/
def execCrecallInv (home : SlotId) (c : ClusterId) (line : BitVec 34) (tid : BitVec 16) (s : State) : Host.Outcome State Fault Refusal := onBlock s fun s =>
  .next (takeRecall s home c line.toNat tid false)

/-- CRECALL_FWD (R344). -/
def execCrecallFwd (home : SlotId) (c : ClusterId) (line : BitVec 34) (tid : BitVec 16) (s : State) : Host.Outcome State Fault Refusal := onBlock s fun s =>
  .next (takeRecall s home c line.toNat tid true)

/-- CDATA (R344, R348): the line, or the refusal, reaches the cluster's harts, and the final CACK closes the transaction. -/
def execCdata (home : SlotId) (c : ClusterId) (line : BitVec 34) (tid : BitVec 16) (excl : Bool) (st : Status) (data : List Byte) (s : State) : Host.Outcome State Fault Refusal := onBlock s fun s =>
  let rackLine := rackAddr home (line.toNat * 128) / 128
  .next (if !(decide (data.length = 128) || data.isEmpty) then discardPkt s else peerOnly s home (
    let s1 := sendCoh s 0x15 home line.toNat (cohExt s tid.toNat c 0 0 0 false) .ok []
    if !s.coh.asked.any (fun q => q.line == rackLine && q.c == c.val && q.tid == tid) then discardPkt s1
    else if st = .ok ∧ data.length = 128 then deliverLine s1 rackLine c excl data
    else
      let s2 := { s1 with coh := { s1.coh with asked := s1.coh.asked.filter (fun q => !(q.line == rackLine && q.c == c.val)) } }
      (List.range 8).foldl (fun s k => hartLine s (8 * c.val + k) rackLine (if st = .ok then .malformed else st) []) s2))

/-! ### Ownership at the home (R351 to R356) -/

/-- Change the ownership table, with its count in OD 0x6100.02. -/
def ownTable (s : Block) (t : Tab OwnEnt) : Block :=
  let s1 := { s with own := { s.own with table := t } }
  if t.length = s.own.table.length then s1 else odPut s1 0x6100 2 t.length

/-- The first free entry number. -/
def ownSlotFree (s : Block) : Option Nat := (List.range 1024).find? (fun k => !s.own.table.any (fun e => e.1 == k))

/-- An entry that no table holds. -/
def own0 : OwnEnt := ⟨false, false, false, 0x40000, 0, 0, 0⟩

/-- COWNRSP to a slot (R347). -/
def sendCownrsp (s : Block) (slot tid unit region : Nat) (st : Status) : Block :=
  sendCoh s 0x17 slot (region * 16384) (cohExt s tid 0 0 unit region false) st []

/-- Whether a request names the entry's owner. -/
def ownedBy (e : OwnEnt) (r : OwnReq) : Bool := e.region == r.region && e.oslot == r.slot && e.ounit == r.unit

/-- Lines of a region that have a directory entry or requests that wait. -/
def regionLines (s : Block) (region : Nat) : List Nat :=
  ((s.coh.dir.map (·.1)) ++ (s.coh.waiting.map (·.1))).dedup.filter (fun l => l / 16384 == region)

/-- Begin an acquisition (R351): its entry with PEND, and a recall of every line that is in S or M. -/
def beginAcq (s : Block) (r : OwnReq) (epoch : Nat) : Block :=
  match ownSlotFree s with
  | none => s
  | some k =>
    let s := ownTable s (tset own0 s.own.table k ⟨r.read, true, false, r.region, r.slot, r.unit, epoch⟩)
    (regionLines s r.region).foldl (fun s l => homeAdmit s l (.own r.slot r.unit r.region)) s

/-- Whether an acquisition's recalls have ended: its request waits at no line. -/
def acqDone (s : Block) (r : OwnReq) : Bool :=
  !(regionLines s r.region).any (fun l => (waitingAt s l).any (fun q => match q with
    | .own a b g => a == r.slot && b == r.unit && g == r.region
    | _ => false))

/-- What an acquisition meets (R351): a status to answer at once, or none when it may begin. -/
def acqStatus (s : Block) (r : OwnReq) (epoch : Nat) : Option Status :=
  let es := ownEntries s r.region
  if es.any (fun e => ownedBy e r && e.read == r.read && e.oepoch == epoch && !e.lost && !e.pend) then some .ok
  else if es.any (fun e => !(e.read && r.read)) then some .regionOwned
  else if (ownSlotFree s).isNone then some .ownFull
  else none

/-- Acquisitions go on: those whose recalls have ended are answered, and those that waited for earlier requests to their
region begin (R351). A request that waits at this home keeps its owner's epoch above bit 16 of its TID. -/
def ownProgress (s : Block) : Block :=
  s.own.reqs.foldl (fun s r =>
    let tid := r.tid % 65536
    let epoch := r.tid / 65536
    let drop := fun (s : Block) => { s with own := { s.own with reqs := s.own.reqs.filter (fun y => y != r) } }
    match s.own.table.find? (fun e => ownedBy e.2 r && e.2.pend) with
    | some e =>
      if acqDone s r then
        sendCownrsp (drop (ownTable s (tset own0 s.own.table e.1 { e.2 with pend := false }))) r.slot tid r.unit r.region .ok
      else s
    | none =>
      if (regionLines s r.region).any (fun l => !(waitingAt s l).isEmpty) then s
      else
        match acqStatus s r epoch with
        | some st => sendCownrsp (drop s) r.slot tid r.unit r.region st
        | none =>
          let s1 := beginAcq s r epoch
          if acqDone s1 r then
            match s1.own.table.find? (fun e => ownedBy e.2 r && e.2.pend) with
            | some e => sendCownrsp (drop (ownTable s1 (tset own0 s1.own.table e.1 { e.2 with pend := false }))) r.slot tid r.unit r.region .ok
            | none => s1
          else s1) s

/-- Owner units that exist: clusters, Truss engines, Sketch (R347). -/
def ownerUnit (u : Nat) : Bool := decide (u < 12) || (decide (16 ≤ u) && decide (u ≤ 32))

/-- COWN ACQ (R351). -/
def takeAcq (s : Block) (o : OwnerId) (region tid : Nat) (read : Bool) : Block :=
  let r : OwnReq := ⟨tid + 65536 * o.epoch.toNat, o.unit.toNat, o.slot, region, read, false, false, none⟩
  let answer := fun (s : Block) (st : Status) => sendCownrsp s o.slot tid o.unit.toNat region st
  if powerState s < 2 then s
  else if !peerOk s o.slot then answer (odBump s 0x6030 7 1) .peerDenied
  else if 196608 ≤ region then answer s .badAddress
  else if !ownerUnit o.unit.toNat then answer s .malformed
  else if s.own.reqs.any (fun y => y == r) then s
  else
    match acqStatus s r o.epoch.toNat with
    | some st => answer s st
    | none => ledgerFlush (ownProgress { s with own := { s.own with reqs := s.own.reqs ++ [r] } })

/-- COWN_ACQ_EXCL (R351). -/
def execCownAcqExcl (o : OwnerId) (region : BitVec 18) (tid : BitVec 16) (s : State) : Host.Outcome State Fault Refusal := onBlock s fun s =>
  .next (takeAcq s o region.toNat tid.toNat false)

/-- COWN_ACQ_READ (R351). -/
def execCownAcqRead (o : OwnerId) (region : BitVec 18) (tid : BitVec 16) (s : State) : Host.Outcome State Fault Refusal := onBlock s fun s =>
  .next (takeAcq s o region.toNat tid.toNat true)

/-- COWN_RELEASE (R352): the matching entry is freed; any other RELEASE is discarded without response. -/
def execCownRelease (o : OwnerId) (region : BitVec 18) (tid : BitVec 16) (s : State) : Host.Outcome State Fault Refusal := onBlock s fun s =>
  .next (if powerState s < 2 then s
    else if !peerOk s o.slot then sendCownrsp (odBump s 0x6030 7 1) o.slot tid.toNat o.unit.toNat region.toNat .peerDenied
    else
      let hit := fun (e : OwnEnt) => e.region == region.toNat && e.oslot == o.slot.val && e.ounit == o.unit.toNat &&
        e.oepoch == o.epoch.toNat && !e.lost
      if s.own.table.any (fun e => hit e.2) then
        sendCownrsp (ownTable s (s.own.table.filter (fun e => !hit e.2))) o.slot tid.toNat o.unit.toNat region.toNat .ok
      else s)

/-- Release by force (R355, R369): READ entries are freed, EXCL entries are LOST; each is counted and raises alarm 0x0B. -/
def forceRelease (s : Block) (p : OwnEnt → Bool) : Block :=
  let hit := s.own.table.filter (fun e => p e.2 && !e.2.lost)
  if hit.isEmpty then s
  else
    let t := (s.own.table.filter (fun e => !(p e.2 && e.2.read && !e.2.lost))).map (fun e =>
      if p e.2 then (e.1, { e.2 with lost := true, pend := false }) else e)
    let s := ownTable s t
    let s := { s with own := { s.own with reqs := s.own.reqs.filter (fun r => !hit.any (fun e => ownedBy e.2 r && e.2.pend)) } }
    hit.foldl (fun s e => raiseAlarm (odBump s 0x6120 2 1) 0x0B unitNone .ok e.2.region) s

/-- COWN_PING (R355): the owner's module answers with its home epoch, which the extension slot carries. -/
def execCownPing (home : SlotId) (tid : BitVec 16) (s : State) : Host.Outcome State Fault Refusal := onBlock s fun s =>
  .next (if powerState s < 2 then s
    else if !peerOk s home then sendCownrsp (odBump s 0x6030 7 1) home tid.toNat 0 0 .peerDenied
    else sendCownrsp s home tid.toNat 0 0 .ok)

/-- Owner slots that hold entries here. -/
def ownerSlots (s : Block) : List Nat := ((s.own.table.filter (fun e => !e.2.lost)).map (fun e => e.2.oslot)).dedup

/-- One ping to one slot: a ping still unanswered counts, and the third in a row releases the slot's entries (R355). -/
def pingSlot (s : Block) (d : Nat) : Block :=
  let missed := if s.own.pinged.any (fun e => e.2 == d + 1) then tget 0 s.own.pings d + 1 else 0
  let s := { s with own := { s.own with pings := tset 0 s.own.pings d missed, pinged := s.own.pinged.filter (fun e => e.2 != d + 1) } }
  if 3 ≤ missed then
    forceRelease { s with own := { s.own with pings := tset 0 s.own.pings d 0 } } (fun e => e.oslot == d)
  else
    let tid := s.coh.nextTid
    let s := { s with coh := { s.coh with nextTid := tid + 1 }, own := { s.own with pinged := tset 0 s.own.pinged tid.toNat (d + 1) } }
    sendCoh s 0x16 d 0 (cohExt s tid.toNat 0 3 0 0 false) .ok []

/-- COWN_PING_DUE (R355). -/
def execCownPingDue (s : State) : Host.Outcome State Fault Refusal := onBlock s fun s =>
  .next (if powerState s < 2 then s else ledgerFlush ((ownerSlots s).foldl pingSlot s))

/-! ### Acknowledgements at the home -/

/-- CACK (R344, R348): the final one closes a transaction; one for a recall lets it go on. -/
def execCack (a : Agent) (line : BitVec 34) (tid : BitVec 16) (data : Option (List Byte)) (s : State) : Host.Outcome State Fault Refusal := onBlock s fun s =>
  let l := line.toNat
  let mine := fun (o : CohOpen) => o.slot == a.slot.val && o.c == a.cluster.val && o.line == l && o.tid == tid
  let d := dirAt s l
  .next (if !optLine data then discardPkt s
    else if !peerOk s a.slot then odBump s 0x6030 7 1
    else if data.isNone && s.coh.opened.any mine then
      { s with coh := { s.coh with opened := s.coh.opened.filter (fun o => !mine o) } }
    else if d.st = .b ∧ d.tid = tid ∧ sameBay s a.slot ∧ bit d.acks.toNat (sharerBit a) then
      ledgerFlush (ownProgress (recallAnswer s l (sharerBit a) data))
    else s)

/-- RECALL_TIMEOUT (R346): the first silence sends the recall again, the second marks an M line bad or drops the silent
sharers, and the waiting request proceeds. -/
def execRecallTimeout (line : BitVec 34) (s : State) : Host.Outcome State Fault Refusal := onBlock s fun s =>
  let l := line.toNat
  let d := dirAt s l
  .next (if d.st ≠ .b then s
    else if !d.resent then resendRecall (dirPut s l { d with resent := true }) l (fun _ => true)
    else
      let s := if d.wasM then markLost s l else s
      let s := raiseAlarm (odBump s 0x6120 1 1) 0x09 (unitSlice (dieOf s (l * 128))) .ok (l * 128)
      ledgerFlush (ownProgress (recallDone s l { d with acks := 0, sharers := 0 })))

/-! ### Owners of this module (R352, R354) -/

/-- Lines of a region that a cluster of this module holds. -/
def heldLines (s : Block) (c slot region : Nat) : List (Nat × HeldLine) :=
  (s.coh.held.filter (fun e => decide (e.1 % 16 = c) && rackSlot (e.1 / 16 * 128) == slot &&
    rackLocal (e.1 / 16 * 128) / 0x200000 == region)).map (fun e => (e.1 / 16, e.2))

/-- A cluster writes back a dirty line that it owns: its own home takes it at once, another as a write of the hart. -/
def ownWriteBack (s : Block) (h slot : Nat) (e : Nat × HeldLine) : Block :=
  let l := lineOf (rackLocal (e.1 * 128))
  if !e.2.dirty then s
  else if slot = ownSlot s then putBack s l e.2.data
  else (sendWrite s slot h (l * 128) 0 e.2.data (.hartStore ⟨h % 96, by omega⟩)).1

/-- OWN_CMD of a machine-mode hart (R354): its request is sent for the hart's cluster; a slot or region that does not exist
ends at once. -/
def ownCommand (s : Block) (h v : Nat) : Block :=
  let k := hartAt s h
  let op := bits v 0 2
  let slot := bits v 2 7
  let region := bits v 9 18
  let c := h / 8
  let result := fun (st : Status) => hartPut s h { k with ownResult := st }
  if k.priv ≠ .machine then result .ownDenied
  else if v ≥ 2 ^ 27 ∨ op = 0 then result .malformed
  else if 196608 ≤ region ∨ 72 ≤ slot ∨ !peerOk s slot then result .badAddress
  else
    let tid := s.coh.nextTid
    let who : Option HartId := some ⟨h % 96, by omega⟩
    if op = 3 then
      let s1 := (heldLines s c slot region).foldl (fun s e =>
        heldPut (dropResv (ownWriteBack s h slot e) c e.1) e.1 c held0) s
      let r : OwnReq := ⟨65536, c, slot, region, false, true, false, who⟩
      sendReleases { s1 with own := { s1.own with mine := s1.own.mine ++ [r] } }
    else
      let r : OwnReq := ⟨tid.toNat, c, slot, region, op == 2, false, false, who⟩
      sendCown { s with coh := { s.coh with nextTid := tid + 1 }, own := { s.own with mine := s.own.mine ++ [r] } } r

/-- CLEAR_LOST (R356): the LOST entry of a region is freed. -/
def clearLost (s : Block) (region : Nat) : Block :=
  ownTable s (s.own.table.filter (fun e => !(e.2.region == region && e.2.lost)))

end Sys2Proof.Machine
end

