-- ==== Sys2Proof/Machine/TrussGroups.lean ====
section
/-! DEFINITION. Truss groups (R374 to R379): the GROUP commands, the formation wave, and the packets that Truss sends
(R392 to R394). -/

namespace Sys2Proof.Machine

open Sys2Proof

/-! ### Senders -/

/-- Whether a packet that names a rank of the group may be taken: a sender of this rack passes R316, another one is checked
against the member list (R393). -/
def knownMember (s : Block) (g : Group) (rank : Nat) : Bool :=
  decide (rank < g.m) && (let m := memberAt g rank; m.rack.toNat != ownRack s || peerOk s m.slot.toNat)

/-! ### Packets (R394) -/

/-- The extension slot of a CHUNK packet. -/
def trussExt (s : Block) (g : Group) (drank seq kind : Nat) (pid : PieceId) (off : Nat) : BitVec 128 :=
  BitVec.ofNat 128 (g.gid % 2 ^ 32 + kind * 2 ^ 32 + (if pid.hall then 3 else 2) * 2 ^ 34 + (if pid.down then 2 ^ 36 else 0) +
    seq % 2 ^ 32 * 2 ^ 40 + pid.chunk % 2 ^ 16 * 2 ^ 72 + off % 2 ^ 20 * 2 ^ 88 + ownRack s * 2 ^ 108 +
    (memberAt g drank).rack.toNat * 2 ^ 118)

/-- One CHUNK packet to a member, on the nominal plane or the next usable one; with no usable plane it is lost and is asked
for again (R321, R393). Type 0x68 stands for a CHUNK packet on VC5 (R392). -/
def sendChunk (s : Block) (g : Group) (drank req : Nat) (vc5 : Bool) (nominal : Nat) (ext : BitVec 128)
    (slots : List (BitVec 128)) : Block :=
  let m := memberAt g drank
  match memberPlane s m nominal with
  | none => s
  | some k => sendPkt s ⟨if vc5 then 0x68 else 0x28, m.slot.toNat, some k, false, req, 0, tget 0 s.fab.gen m.slot.toNat, 0, 0, 0,
      ext :: slots⟩

/-- Codes of CTL (R394). -/
def ctlReady : Nat := 0
def ctlResend : Nat := 1
def ctlFail : Nat := 2
def ctlProbe : Nat := 3
def ctlProbeAnswer : Nat := 4
def ctlFormUp : Nat := 5
def ctlFormDown : Nat := 6
def ctlDoneUp : Nat := 7
def ctlDoneDown : Nat := 8
def ctlAck : Nat := 9
def ctlCount : Nat := 10

/-- The control slot (R394). -/
def ctlSlot (g : Group) (ctl : Nat) (st : Status) (subject arg : Nat) : BitVec 128 :=
  BitVec.ofNat 128 (ctl + statusCode st * 2 ^ 16 + subject % 65536 * 2 ^ 32 + g.epoch % 65536 * 2 ^ 48 + arg % 2 ^ 64 * 2 ^ 64)

/-- Whether two members of the group lie in one rack. -/
def sameRack (g : Group) (a b : Nat) : Bool := (memberAt g a).rack == (memberAt g b).rack

/-- A control message of a collective or of the formation; the module never sends one to itself. -/
def sendCtl (s : Block) (g : Group) (drank seq req ctl : Nat) (pid : PieceId) (st : Status) (subject arg : Nat) : Block :=
  if drank = g.rank then s
  else sendChunk s g drank req true (railPlane 1 0 g.rank drank) (trussExt s g drank seq 2 pid 0) [ctlSlot g ctl st subject arg]

/-- A control message that concerns no piece names the level of its receiver. -/
def ctlPid (g : Group) (drank : Nat) : PieceId := ⟨!sameRack g g.rank drank, false, 0, 0⟩

/-! ### Contexts (R380) -/

/-- Collectives that still hold a context. -/
def liveColls (s : Block) : List Coll := s.truss.colls.filter (fun c => c.failed.isNone)

/-- Contexts that groups reserve. -/
def reservedContexts (s : Block) : Nat := (s.truss.groups.map (fun e => e.2.resv)).foldl (· + ·) 0

/-- Contexts that no group reserves and no collective holds. -/
def freeContexts (s : Block) : Nat := 256 - (reservedContexts s + ((liveColls s).filter (fun c => !c.reserved)).length)

/-- A group's reserved contexts that are free. -/
def freeReserved (s : Block) (gidx : Nat) : Nat :=
  (groupAt s gidx).resv - ((liveColls s).filter (fun c => c.reserved && c.gidx == gidx)).length

/-- Publish OD 0x8000.02 and 0x8000.03 (R380, R414): free contexts are the unreserved ones and the free reserved ones. -/
def trussPublish (s : Block) : Block :=
  let act := (s.truss.groups.filter (fun e => e.2.state == 2)).length
  let s := if odNat s 0x8000 2 = act then s else odPut s 0x8000 2 act
  let free := 256 - (liveColls s).length
  if odNat s 0x8000 3 = free then s else odPut s 0x8000 3 free

/-! ### The group block (R374 to R376) -/

/-- A GROUP parameter block. -/
structure GroupBlock where
  gid    : Nat
  epoch  : Nat
  m      : Nat
  b      : Nat
  replica : Bool
  mlist  : Nat
  rank   : Nat
  gidx   : Nat
  resv   : Nat
  old    : Nat
deriving DecidableEq, Repr

def groupBlock (v : Nat) : GroupBlock :=
  ⟨blkNat v 0 4, blkNat v 4 4, blkNat v 8 4, blkNat v 12 1, bit (blkNat v 13 1) 0, blkNat v 16 8, blkNat v 24 4, blkNat v 28 2,
    blkNat v 30 1, blkNat v 32 4⟩

/-- Reserved fields of the block that FORM and REFORM read (R15, R374). -/
def groupReserved (v : Nat) : Bool :=
  bits (blkNat v 13 1) 1 7 != 0 || blkNat v 14 2 != 0 || blkNat v 31 1 != 0 || blkNat v 36 28 != 0 || decide (1024 ≤ blkNat v 28 2)

/-- A member-list entry (R375); none when a reserved bit is set. -/
def memberOf (v : Nat) : Option Member :=
  if bits v 17 3 != 0 || bits v 21 43 != 0 then none
  else some ⟨BitVec.ofNat 10 (bits v 7 10), BitVec.ofNat 7 (bits v 0 7), bit v 20⟩

/-- The entries of a member list. -/
def membersOf : Nat → List Byte → Option (List Member)
  | 0, _ => some []
  | n + 1, bs =>
    match memberOf (leNat (bs.take 8)), membersOf n (bs.drop 8) with
    | some m, some t => some (m :: t)
    | _, _ => none

/-- Whether two members name the same module. -/
def sameModule (a b : Member) : Bool := a.rack == b.rack && a.slot == b.slot

/-- No two of a list name the same module. -/
def distinctMembers : List Member → Bool
  | [] => true
  | m :: t => !t.any (sameModule m) && distinctMembers t

/-- The members of each block of `b` lie in one rack. -/
def blocksTogether (ms : List Member) (b : Nat) : Bool :=
  (List.range ms.length).all (fun r => (ms.getD r member0).rack == (ms.getD (r / b * b) member0).rack)

/-- The checks of R376 on ranks, list and entry; `fresh` adds those on the GIDX entry that a REFORM does not meet. -/
def groupValid (s : Block) (x : GroupBlock) (ms : List Member) (fresh : Bool) : Bool :=
  let e := groupAt s x.gidx
  decide (1 ≤ x.b) && decide (x.b ≤ 72) && x.m % x.b == 0 && decide (1 ≤ x.m) && decide (x.m ≤ 65536) && decide (1 ≤ x.resv) &&
    decide (x.resv ≤ 16) && ms.all (fun m => decide (m.slot.toNat < 72)) && blocksTogether ms x.b &&
    (!ms.any (·.istus) || x.b == 1) &&
    !ms.any (fun a => a.istus && ms.any (fun c => !c.istus && c.rack == a.rack)) && distinctMembers ms &&
    decide (x.rank < x.m) && (ms.getD x.rank member0).rack.toNat == ownRack s && (ms.getD x.rank member0).slot.toNat == ownSlot s &&
    ms.all (fun m => m.rack.toNat != ownRack s || peerOk s m.slot.toNat) &&
    (!fresh || e.state == 0 || (e.state == 3 && e.gid == x.gid)) &&
    !s.truss.groups.any (fun f => f.1 != x.gidx && f.2.state != 0 && f.2.gid == x.gid)

/-- Sizes of the block that must hold before its list is read. -/
def groupSizes (x : GroupBlock) : Bool := decide (1 ≤ x.m) && decide (x.m ≤ 65536) && decide (1 ≤ x.b) && decide (x.b ≤ 72)

/-- Whether the members kept are the old ones in their order, with none or some removed (R378). -/
def keptFrom : List Member → List Member → Bool
  | [], _ => true
  | _ :: _, [] => false
  | a :: t, o :: os => if a = o then keptFrom t os else keptFrom (a :: t) os

/-- LSIG (R377): the CRC-64 of bytes 0 to 15 of the block and of the member list. -/
def lsigOf (v : Nat) (list : List Byte) : Word := BitVec.ofNat 64 (crc64 (natLe 16 v ++ list))

/-! ### Early messages -/

def keepEarly (s : Block) (e : Early) : Block :=
  if s.truss.early.contains e then s else { s with truss := { s.truss with early := s.truss.early ++ [e] } }

/-- Take the early messages that a test selects. -/
def takeEarly (s : Block) (p : Early → Bool) : Block × List Early :=
  ({ s with truss := { s.truss with early := s.truss.early.filter (fun e => !p e) } }, s.truss.early.filter p)

/-! ### The formation wave (R377) -/

/-- A FORMING member whose children have all sent FORM_UP sends its own; the LSIG of a child that differs goes up in place of
its own, so that rank 0 sees every difference. Answers the outcome at rank 0. -/
def formUpWave (s : Block) (gidx : Nat) : Block × Option Status :=
  let g := groupAt s gidx
  let kids := treeChildren g.m g.rank
  if g.state = 1 ∧ kids.all (fun c => g.ups.any (fun u => u.1 == c)) then
    let bad := g.ups.find? (fun u => u.2 != g.lsig)
    if g.rank = 0 then (s, some (if bad.isSome then .formMismatch else .ok))
    else
      let sig := match bad with
        | some u => u.2
        | none => g.lsig
      let up := treeParent g.rank
      (sendCtl s g up 0 608 ctlFormUp (ctlPid g up) .ok 0 sig.toNat, none)
  else (s, none)

/-- Send FORM_DOWN to the children. -/
def formDownWave (s : Block) (g : Group) (st : Status) : Block :=
  (treeChildren g.m g.rank).foldl (fun s c => sendCtl s g c 0 608 ctlFormDown (ctlPid g c) st 0 0) s

/-! ### GROUP commands -/

/-- Read the member list of a block (R371, R374, R375). -/
def readMembers (s : Block) (q : Nat) (x : GroupBlock) : Except Stop (List Member × List Byte) := do
  need (x.mlist % 8 == 0 && seqMem s q x.mlist (8 * x.m)) .badAddress
  readStop s q x.mlist (8 * x.m)
  let bs := rackBytes s q x.mlist (8 * x.m)
  match membersOf x.m bs with
  | some ms => pure (ms, bs)
  | none => .error ⟨.malformed, 0⟩

/-- What FORM or REFORM accepts: the new entry. -/
def formCheck (s : Block) (q : Nat) (a : Nat) (re : Bool) : Except Stop (Nat × Group) := do
  need (seqMem s q a 64) .badAddress
  let v ← readLe s q a 64
  let x := groupBlock v
  let e := groupAt s x.gidx
  need (!groupReserved v) .malformed
  need (!re || (e.state == 4 && e.epoch == x.old && e.gid == x.gid && x.epoch != x.old)) .groupState
  need (groupSizes x) .groupInvalid
  let (ms, bs) ← readMembers s q x
  need (!re || (keptFrom ms e.members && (e.replica || ms.length == e.members.length))) .groupState
  need (groupValid s x ms (!re)) .groupInvalid
  need (decide (x.resv ≤ freeContexts s)) .noContext
  return (x.gidx, ⟨1, x.replica, ms.any (·.istus), x.resv, x.rank, x.gid, x.epoch, x.m, x.b, 0, x.mlist, ms, lsigOf v bs, [],
    [], []⟩)

/-- The lines that FORM reads: its block and its member list. -/
def formPieces (s : Block) (q a : Nat) : List (Nat × Nat) :=
  if seqMem s q a 64 then
    let x := groupBlock (rackLe s q a 64)
    (a, 64) :: (if groupSizes x && seqMem s q x.mlist (8 * x.m) then [(x.mlist, 8 * x.m)] else [])
  else []

/-- What PARK or DISSOLVE accepts (R379): only GID and GIDX are read. -/
def parkCheck (s : Block) (q : Nat) (a : Nat) (park : Bool) : Except Stop (Nat × Group) := do
  need (seqMem s q a 64) .badAddress
  let v ← readLe s q a 64
  let x := groupBlock v
  let e := groupAt s x.gidx
  need (decide (x.gidx < 1024)) .malformed
  need (e.gid == x.gid && !s.truss.colls.any (fun c => c.failed.isNone && c.gidx == x.gidx) &&
    (if park then e.state == 2 else e.state != 0)) .groupState
  return (x.gidx, if park then { e with state := 3, resv := 0 } else group0)

end Sys2Proof.Machine
end

