-- ==== Sys2Proof/Machine/TrussMath.lean ====
section
/-! DEFINITION. What a Truss collective computes: its descriptor (R382), formats (R384, R390), the order of addition (R386),
the cut into chunks, shards and segments (R386, R390), and the pieces' bytes and headers (R390, R394 to R396, R413). -/

namespace Sys2Proof.Machine

open Sys2Proof

/-! ### The descriptor (R382) -/

/-- A COLL parameter block. `root` is ROOT, `esz` the entry bytes of ALLTOALL, `elems` E or CAP. -/
structure CollDesc where
  op    : Nat
  alg   : Nat
  rails : Nat
  l     : Nat
  own   : Bool
  progEn : Bool
  gidx  : Nat
  chunkBytes : Nat
  root  : Nat
  esz   : Nat
  elems : Nat
  fence : Nat
  prog  : Nat
  record : Nat
  stage : Nat
  stageSize : Nat
  cnt   : Nat
deriving DecidableEq, Repr

def collDesc (v : Nat) : CollDesc :=
  { op := bits v 0 4, alg := bits v 4 2, rails := bits v 6 5, l := bits v 11 2 + 1, own := bit v 13, progEn := bit v 14,
    gidx := bits v 16 10, chunkBytes := 65536 * 2 ^ bits v 26 3, root := bits v 32 16, esz := 16 * (bits v 48 16 + 1),
    elems := bits v 64 64, fence := bits (blkNat v 16 4) 0 14, prog := bits (blkNat v 20 4) 0 14, record := blkNat v 24 8,
    stage := blkNat v 32 8, stageSize := blkNat v 40 8, cnt := blkNat v 48 8 }

/-- Reserved fields and values of the block (R15, R382, R383). -/
def collReserved (v : Nat) : Bool :=
  let d := collDesc v
  bit v 15 || bits v 29 3 != 0 || d.op == 0 || decide (6 < d.op) || decide (1 < d.alg) || decide (6 < bits v 26 3) ||
    bits (blkNat v 16 4) 14 18 != 0 || bits (blkNat v 20 4) 14 18 != 0 || (!d.progEn && d.prog != 0) ||
    (d.op != 6 && (d.cnt != 0 || bits v 48 16 != 0)) || (d.op != 4 && d.op != 5 && d.root != 0) || d.cnt % 4 != 0 ||
    blkNat v 56 8 != 0 || blkNat v 144 48 != 0 ||
    (List.range 4).any (fun k => decide (d.l ≤ k) && blkTref v (64 + 16 * k) != 0)

/-- A reduction. -/
def CollDesc.reduces (d : CollDesc) : Bool := d.op == 1 || d.op == 2 || d.op == 5

/-- A tensor from its reference and descriptor bytes as they were latched. -/
def latchedTensor (r : Nat × Nat) : Tensor :=
  ⟨bits r.1 0 48, bits r.1 48 8, bits r.1 56 2, bits r.1 64 32, bits r.1 96 32, descOf r.2⟩

def collIn (c : Coll) (k : Nat) : Tensor := latchedTensor (c.ins.getD k (0, 0))
def collOut (c : Coll) : Tensor := latchedTensor c.out
def inFmt (c : Coll) : Nat := (collIn c 0).d.fmt
def outFmt (c : Coll) : Nat := (collOut c).d.fmt

/-! ### Formats (R384) -/

/-- Sum format of an input format: 1 FP32, 2 FP64, 3 double-double; the Istus form sums in FP32 (R384, R413). -/
def sumKind (ver0 : Bool) (fmt : Nat) : Nat := if ver0 then 1 else if fmt = 0x0E then 2 else if fmt = 0x0F then 3 else 1

/-- Bytes of a partial sum. -/
def sumBytes (k : Nat) : Nat := if k = 1 then 4 else if k = 2 then 8 else 16

/-- Input and output formats that a reduction accepts (R384). -/
def reducePair (i o : Nat) : Bool :=
  if i < 2 || isG16 i || i == 0x0D then o == 0x0E || o == 0x0D || isG16 o || decide (o < 2)
  else if i = 0x0E then o == 0x0E || o == 0x0F
  else if i = 0x0F then o == 0x0F
  else if isIstus i then o == 0x0E || isIstus o
  else false

/-- Elements per chunk and entry counts: a chunk holds C bytes of a member's input, or as many whole ALLTOALL entries, at
least one (R382, R390; log 31). -/
def chunkElems (d : CollDesc) (fmt : Nat) : Nat :=
  if d.op = 6 then max 1 (d.chunkBytes / d.esz) else d.chunkBytes * 8 / fmtBits fmt

/-- Number of chunks (R385). -/
def chunkCount (d : CollDesc) (fmt : Nat) : Nat := (d.elems + chunkElems d fmt - 1) / chunkElems d fmt

/-- First element and length of a chunk. -/
def chunkLo (d : CollDesc) (fmt c : Nat) : Nat := c * chunkElems d fmt
def chunkLen (d : CollDesc) (fmt c : Nat) : Nat := min (chunkElems d fmt) (d.elems - chunkLo d fmt c)

/-- Part `q` of `p` of `n` elements, cut on 32-element boundaries, the last ending at `n`: shards and hall segments (R386,
R390). Answers first element and length. -/
def cutPart (n p q : Nat) : Nat × Nat :=
  let lo := 32 * (q * n / (32 * p))
  let hi := if q + 1 = p then n else 32 * ((q + 1) * n / (32 * p))
  (lo, hi - lo)

/-! ### Raw encodings -/

/-- Scale bytes of `n` elements that begin at a block. -/
def scaleBytesOf (fmt n : Nat) : Nat := if blockScaled fmt then (n + blockLen fmt - 1) / blockLen fmt else 0

/-- Bytes of `n` raw elements with their scale bytes. -/
def rawLen (fmt n : Nat) : Nat := (n * fmtBits fmt + 7) / 8 + scaleBytesOf fmt n

/-- Element codes as bytes: 4-bit codes two to a byte, the first in the low half. -/
def packCodes (fmt : Nat) : List Nat → List Byte
  | [] => []
  | a :: t =>
    if fmtBits fmt = 4 then
      match t with
      | b :: u => BitVec.ofNat 8 (a % 16 + b % 16 * 16) :: packCodes fmt u
      | [] => [BitVec.ofNat 8 (a % 16)]
    else natLe (fmtBits fmt / 8) a ++ packCodes fmt t

/-- Code `i` of packed codes. -/
def codeAt (fmt : Nat) (bs : List Byte) (i : Nat) : Nat :=
  if fmtBits fmt = 4 then bits (bs.getD (i / 2) 0).toNat (4 * (i % 2)) 4
  else let w := fmtBits fmt / 8; leNat ((bs.drop (w * i)).take w)

/-- Raw elements as they travel: elements, then scale bytes (R394). -/
def rawBytes (fmt : Nat) (codes scales : List Nat) : List Byte := packCodes fmt codes ++ scales.map (BitVec.ofNat 8)

def rawCodes (fmt n : Nat) (bs : List Byte) : List Nat := (List.range n).map (codeAt fmt bs)
def rawScales (fmt n : Nat) (bs : List Byte) : List Nat :=
  ((bs.drop ((n * fmtBits fmt + 7) / 8)).take (scaleBytesOf fmt n)).map BitVec.toNat

/-! ### Sums (R386) -/

/-- Double-double addition of R386 on pairs h + 2^64 · l. -/
def twoSum (x y : Nat) : Nat × Nat :=
  let s := add64 x y
  let v := sub64 s x
  (s, add64 (sub64 x (sub64 s v)) (sub64 y v))
def ddAdd (a b : Nat) : Nat :=
  let (s, e) := twoSum (a % 2 ^ 64) (b % 2 ^ 64)
  let (t, f) := twoSum (a / 2 ^ 64) (b / 2 ^ 64)
  let e := add64 e t
  let h := add64 s e
  let e := add64 (sub64 e (sub64 h s)) f
  let h2 := add64 h e
  h2 + 2 ^ 64 * sub64 e (sub64 h2 h)

/-- One addition in a sum format. -/
def sumAdd (k a b : Nat) : Nat := if k = 1 then add32 a b else if k = 2 then add64 a b else ddAdd a b

/-- Element-wise sum. -/
def sumList (k : Nat) (a b : List Nat) : List Nat := (List.range a.length).map (fun i => sumAdd k (a.getD i 0) (b.getD i 0))

/-- The events of an addition in a sum format; those of a double-double one are its high halves' (R58, log 78). -/
def sumEv (k a b : Nat) : Ev := if k = 1 then aopEv 4 0b00110 a b else aopEv 8 0b00110 (a % 2 ^ 64) (b % 2 ^ 64)

/-- Sums with the events of everything that led to them. -/
abbrev SumsEv := List Nat × Ev

/-- Element-wise sum with its events. -/
def sumListEv (k : Nat) (a b : SumsEv) : SumsEv :=
  (sumList k a.1 b.1, evAdd (evAdd a.2 b.2) (evSum ((List.range a.1.length).map (fun i => sumEv k (a.1.getD i 0) (b.1.getD i 0)))))

/-- An element as it enters the sum (R384, R386): T · b · q rounded once to FP32, the Istus block exactly whatever EREF says
(log 90), other formats unchanged in value. -/
def leafOut (k fmt ts code scale : Nat) : FpOut :=
  if isIstus fmt then fpRound fp32 (fvInt (intCode fmt code).1 ((scale : Int) - 127))
  else if blockScaled fmt then
    let t := fvParts (fpDecode fp32 ts)
    let q := (intCode fmt code).1
    fpRound fp32 (.fin (q != 0 && t.1 != decide (q < 0)) (t.2.1 * b8Sig scale * q.natAbs) (t.2.2 + b8Exp scale))
  else if fmt = 0x0D then fpRound fp32 (fpDecode bf16 code)
  else if fmt = 0x0E then fpRound (if k = 2 then fp64 else fp32) (fpDecode fp32 code)
  else fpRound fp64 (fpDecode fp64 code)

def leafValue (k fmt ts code scale : Nat) : Nat := (leafOut k fmt ts code scale).val

/-- The events of reading an element: its clamped code, and those of its rounding (R46, R58). -/
def leafEv (k fmt ts code scale : Nat) : Ev :=
  evAdd (evCodes (blockScaled fmt && (intCode fmt code).2).toNat) (evOf (leafOut k fmt ts code scale))

/-- The elements of raw bytes as they enter the sum. -/
def leafValues (k fmt ts n : Nat) (bs : List Byte) : List Nat :=
  let sc := rawScales fmt n bs
  (List.range n).map (fun i => leafValue k fmt ts (codeAt fmt bs i) (sc.getD (i / blockLen fmt) 0))

/-- The elements with the events of reading them. -/
def leafSums (k fmt ts n : Nat) (bs : List Byte) : SumsEv :=
  let sc := rawScales fmt n bs
  (leafValues k fmt ts n bs,
    evSum ((List.range n).map (fun i => leafEv k fmt ts (codeAt fmt bs i) (sc.getD (i / blockLen fmt) 0))))

/-- Whether an Istus block carries exponent 255. -/
def istusBad (fmt n : Nat) (bs : List Byte) : Bool := isIstus fmt && (rawScales fmt n bs).any (· == 255)

/-- Partial sums as they travel, and back. -/
def partBytes (k : Nat) (vs : List Nat) : List Byte := vs.flatMap (natLe (sumBytes k))
def partValues (k n : Nat) (bs : List Byte) : List Nat :=
  (List.range n).map (fun i => leNat ((bs.drop (sumBytes k * i)).take (sumBytes k)))

/-- A sum as a value. -/
def sumValue (k v : Nat) : FV := if k = 1 then fpDecode fp32 v else if k = 2 then fpDecode fp64 v
  else fpDecode fp64 (add64 (v % 2 ^ 64) (v / 2 ^ 64))

/-- Cut a list into runs of `m`. -/
def runsOf (m : Nat) : Nat → List Nat → List (List Nat)
  | 0, _ => []
  | f + 1, l => if l.isEmpty then [] else l.take m :: runsOf m f (l.drop m)

/-- A sum rounded once to a floating-point output format, subnormals kept (R60, R386). -/
def resultOut (k fmt v : Nat) : FpOut := fpRound (if fmt = 0x0D then bf16 else if fmt = 0x0E then fp32 else fp64) (sumValue k v)

/-- Sums rounded once to the output format (R384, R386); none when a non-finite sum meets a block-scaled format. -/
def sumResult (k fmt ts : Nat) (vs : List Nat) : Option (List Byte) :=
  if blockScaled fmt then
    let blocks := (runsOf (blockLen fmt) vs.length vs).map (fun b => quantise fmt ts (b.map (sumValue k)) none)
    if blocks.any (·.isNone) then none
    else
      let bs := blocks.filterMap id
      some (rawBytes fmt (bs.flatMap (·.codes)) (bs.map (·.scale)))
  else
    some (rawBytes fmt (vs.map (fun v => (resultOut k fmt v).val)) [])

/-- The events of rounding sums to the output format: saturated elements, or overflows (R58, R62). -/
def resultEv (k fmt ts : Nat) (vs : List Nat) : Ev :=
  if blockScaled fmt then
    evCodes (((runsOf (blockLen fmt) vs.length vs).filterMap (fun b => quantise fmt ts (b.map (sumValue k)) none)).foldl (fun n b => n + b.sat) 0)
  else evSum (vs.map (fun v => evOf (resultOut k fmt v)))

/-- One hop of the Istus form: a sum rounded to the wire format (R413). -/
def hopRound (fmt : Nat) (vs : List Nat) : Option (List Nat) :=
  (sumResult 1 fmt 0 vs).map (fun bs => leafValues 1 fmt 0 vs.length bs)

/-! ### Signatures and headers (R394 to R396, R411) -/

/-- OPSIG (R411). -/
def opsigOf (v ifmt ofmt : Nat) : BitVec 32 :=
  let d := collDesc v
  BitVec.ofNat 32 (crc64 (natLe 1 d.op ++ natLe 1 d.alg ++ natLe 1 ifmt ++ natLe 1 ofmt ++ natLe 2 d.root ++
    natLe 2 (bits v 48 16) ++ natLe 8 d.elems))

def collOpsig (c : Coll) : BitVec 32 := opsigOf c.block (inFmt c) (outFmt c)

/-- WFMT of raw data: RAW, or its name in the Istus form (R394, R413). -/
def rawWfmt (ver0 : Bool) (fmt : Nat) : Nat := if ver0 then (if fmt = 0x0A then 4 else if fmt = 0x0B then 5 else 1) else 0

/-- How the bytes of a piece are to be read: WFMT, IFMT, elements, and the tensor scale of raw scaled data. -/
structure PieceForm where
  wfmt : Nat
  ifmt : Nat
  n    : Nat
deriving DecidableEq, Repr

/-- Raw data of a format. -/
def rawForm (ver0 : Bool) (fmt n : Nat) : PieceForm := ⟨rawWfmt ver0 fmt, if ver0 then 0 else fmt, n⟩

/-- Bytes of a piece of a form; `fmt` is the format of raw data. -/
def formLen (ver0 : Bool) (fmt : Nat) (p : PieceForm) : Nat :=
  if p.wfmt = 0 ∨ ver0 then rawLen fmt p.n else sumBytes p.wfmt * p.n

/-- A chunk header (R394, R413): the Istus form leaves OPSIG, TSCALE and the counts zero and shortens the epoch. -/
def pieceHeader (ver0 : Bool) (epoch : Nat) (sig : BitVec 32) (p : PieceForm) (ts used dropped ncontrib : Nat)
    (data : List Byte) : ChunkHeader :=
  if ver0 then ⟨0, BitVec.ofNat 4 p.wfmt, 0, BitVec.ofNat 32 (epoch % 65536), data.length, 0, 0, 0, 0,
    BitVec.ofNat 64 (crc64 data), 0⟩
  else ⟨1, BitVec.ofNat 4 p.wfmt, BitVec.ofNat 5 p.ifmt, BitVec.ofNat 32 epoch, data.length, sig, BitVec.ofNat 32 ts, used,
    dropped, BitVec.ofNat 64 (crc64 data), ncontrib⟩

/-- The four slots of a header (R394). In the Istus form EPOCH carries its low bits in [63:48] and COLLSEQ its low bits in
[95:80] (R413). -/
def headerSlots (g : Group) (seq drank : Nat) (pid : PieceId) (h : ChunkHeader) : List (BitVec 128) :=
  let lvl := if pid.hall then 3 else 2
  let dir := if pid.down then 1 else 0
  let sq := if h.ver = 0 then seq % 65536 else seq % 2 ^ 32
  let v := h.ver.toNat + h.wfmt.toNat * 2 ^ 4 + h.ifmt.toNat * 2 ^ 8 + dir * 2 ^ 13 + lvl * 2 ^ 14 + g.gid * 2 ^ 16 +
    h.epoch.toNat * 2 ^ 48 + sq * 2 ^ 80 + pid.chunk % 65536 * 2 ^ 112 + h.bytes % 2 ^ 32 * 2 ^ 128 + g.rank * 2 ^ 160 +
    drank * 2 ^ 176 + h.opsig.toNat * 2 ^ 192 + h.tscale.toNat * 2 ^ 224 + h.used % 2 ^ 32 * 2 ^ 256 +
    h.dropped % 2 ^ 32 * 2 ^ 288 + h.crc.toNat * 2 ^ 320 + h.ncontrib % 2 ^ 32 * 2 ^ 384
  (List.range 4).map (fun k => BitVec.ofNat 128 (bits v (128 * k) 128))

/-! ### Reading inputs -/

/-- Elements `lo` to `lo + n − 1` of a one-dimensional tensor as raw bytes. -/
def readRaw (s : Block) (q : Nat) (t : Tensor) (lo n : Nat) : Except Stop (List Byte) := do
  let codes ← (List.range n).mapM (fun i => rawElem s q t.d [lo + i])
  let scales ← (List.range (scaleBytesOf t.d.fmt n)).mapM (fun j => readLe s q (scalePos t.d [lo + blockLen t.d.fmt * j]) 1)
  return rawBytes t.d.fmt codes scales

/-- Bytes of memory that those elements take. -/
def rawPieces (t : Tensor) (lo n : Nat) : List (Nat × Nat) :=
  if n = 0 then []
  else
    let a := (elemPos t.d [lo]).1
    let z := elemPos t.d [lo + n - 1]
    (a, z.1 + max 1 (elemBytes t.d) - a) ::
      (if blockScaled t.d.fmt then [(scalePos t.d [lo], scaleBytesOf t.d.fmt n)] else [])

/-- The writes that store raw elements from output element `lo` on. -/
def rawWrites (t : Tensor) (lo n : Nat) (bs : List Byte) : List WByte :=
  let codes := rawCodes t.d.fmt n bs
  let scales := rawScales t.d.fmt n bs
  (List.range n).flatMap (fun i => wElem t.d [lo + i] (codes.getD i 0)) ++
    (List.range scales.length).flatMap (fun j => wBytes (scalePos t.d [lo + blockLen t.d.fmt * j]) 1 (scales.getD j 0))

end Sys2Proof.Machine
end

