-- ==== Sys2Proof/Machine/TrussPlan.lean ====
section
/-! DEFINITION. Who sends what to whom in a Truss collective (R386, R389, R390, R398 to R400), and what a member can form
from the pieces it holds. -/

namespace Sys2Proof.Machine

open Sys2Proof

/-! ### Geometry -/

def collD (c : Coll) : CollDesc := collDesc c.block
def collVer0 (g : Group) : Bool := g.istus
def collKind (g : Group) (c : Coll) : Nat := sumKind g.istus (inFmt c)
def collChunks (c : Coll) : Nat := chunkCount (collD c) (inFmt c)
/-- Length of a chunk in elements (entries for ALLTOALL). -/
def collLen (c : Coll) (ch : Nat) : Nat := chunkLen (collD c) (inFmt c) ch
def collLo (c : Coll) (ch : Nat) : Nat := chunkLo (collD c) (inFmt c) ch

/-- Number of blocks, block of this member, and rank-in-block. -/
def nBlocks (g : Group) : Nat := g.m / g.b
def myBlock (g : Group) : Nat := g.rank / g.b
def myQ (g : Group) : Nat := g.rank % g.b

/-- A shard of a chunk: first element within the chunk and length. -/
def shardOf (g : Group) (c : Coll) (ch q : Nat) : Nat × Nat := cutPart (collLen c ch) g.b q
/-- A hall segment of a shard: first element within the shard and length (R386). -/
def segOf (g : Group) (c : Coll) (ch j : Nat) : Nat × Nat := cutPart (shardOf g c ch (myQ g)).2 (nBlocks g) j

def isRing (c : Coll) : Bool := (collD c).alg == 1

/-- Ranks of this member's block, without itself. -/
def blockPeers (g : Group) : List Nat :=
  ((List.range g.b).map (fun i => myBlock g * g.b + i)).filter (fun r => r != g.rank)

/-- Blocks that send their partial to block `b` under TREE, step by step (R386). -/
def treeFrom (nb b : Nat) : List Nat :=
  ((List.range 17).filter (fun l => b % 2 ^ (l + 1) == 0 && decide (b + 2 ^ l < nb))).map (fun l => b + 2 ^ l)

/-- The block that takes the partial of block `b > 0` under TREE. -/
def treeTo (b : Nat) : Nat :=
  match (List.range 17).find? (fun l => bit b l) with
  | some l => b - 2 ^ l
  | none => 0

/-- The shard owner of this member's rank-in-block in a block. -/
def hallPeer (g : Group) (b : Nat) : Nat := b * g.b + myQ g

/-- Blocks in a TREE partial that block `b` sends: those from `b` on that reach it. -/
def treeCount (nb b : Nat) : Nat :=
  match (List.range 17).find? (fun l => bit b l) with
  | some l => min (2 ^ l) (nb - b)
  | none => nb

/-! ### Receivers and senders (R398) -/

/-- A peer with the level (hall) and direction (down) at which it exchanges pieces with this member. -/
abbrev Link3 := Nat × Bool × Bool

def directLink (g : Group) (down : Bool) (r : Nat) : Link3 := (r, !sameRack g g.rank r, down)

def otherRanks (g : Group) : List Nat := (List.range g.m).filter (fun r => r != g.rank)

/-- Those from which this member receives. -/
def sourcesOf (g : Group) (c : Coll) : List Link3 :=
  let d := collD c
  if d.reduces then
    let nb := nBlocks g
    let k := myBlock g
    (blockPeers g).flatMap (fun r => [(r, false, false), (r, false, true)]) ++
      (if isRing c then
        (if nb ≤ 1 then [] else let p := hallPeer g ((k + nb - 1) % nb); [(p, true, false), (p, true, true)])
       else (treeFrom nb k).map (fun b => (hallPeer g b, true, false)) ++
        (if k = 0 then [] else [(hallPeer g (treeTo k), true, true)]))
  else if d.op = 4 then (if g.rank = d.root then [] else [directLink g true d.root])
  else (otherRanks g).map (directLink g (d.op != 6))

/-- Those to which it sends. -/
def targetsOf (g : Group) (c : Coll) : List Link3 :=
  let d := collD c
  if d.reduces then
    let nb := nBlocks g
    let k := myBlock g
    (blockPeers g).flatMap (fun r => [(r, false, false), (r, false, true)]) ++
      (if isRing c then
        (if nb ≤ 1 then [] else let p := hallPeer g ((k + 1) % nb); [(p, true, false), (p, true, true)])
       else (treeFrom nb k).map (fun b => (hallPeer g b, true, true)) ++
        (if k = 0 then [] else [(hallPeer g (treeTo k), true, false)]))
  else if d.op = 4 then (if g.rank = d.root then (otherRanks g).map (directLink g true) else [])
  else (otherRanks g).map (directLink g (d.op != 6))

/-! ### Pieces a member receives -/

/-- Kept entries of a source, and how many sources before it keep (R400). -/
def grantOf (c : Coll) (r : Nat) : Nat := c.grants.getD r 0
def grantsBefore (c : Coll) (r : Nat) : Nat := (c.grants.take r).foldl (· + ·) 0

/-- Entries of a chunk among `n`. -/
def entriesIn (c : Coll) (ch n : Nat) : Nat := min (collLo c ch + collLen c ch) n - collLo c ch

/-- Elements of an ALLTOALL entry. -/
def entryElems (c : Coll) : Nat := (collD c).esz * 8 / fmtBits (inFmt c)

/-- The form of the piece of `pid` that rank `src` sends here; none when it sends none. -/
def expectForm (g : Group) (c : Coll) (src : Nat) (pid : PieceId) : Option PieceForm :=
  let d := collD c
  let v0 := collVer0 g
  let k := collKind g c
  let some_ := fun (p : PieceForm) => if p.n = 0 then none else some p
  if collChunks c ≤ pid.chunk ∨ !(sourcesOf g c).contains (src, pid.hall, pid.down) then none
  else if d.reduces then
    let nb := nBlocks g
    let b := myBlock g
    let mine := (shardOf g c pid.chunk (myQ g)).2
    if !pid.hall then
      if pid.step ≠ 0 then none
      else if pid.down then some_ (rawForm v0 (outFmt c) (shardOf g c pid.chunk (src % g.b)).2)
      else some_ (if d.l = 1 then rawForm v0 (inFmt c) mine else ⟨k, 0, mine⟩)
    else if isRing c then
      if nb ≤ pid.step + 1 then none
      else
        let j := if pid.down then (b + 2 * nb - 1 - pid.step) % nb else (b + 2 * nb - 2 - pid.step) % nb
        let n := (segOf g c pid.chunk j).2
        some_ (if pid.down then rawForm v0 (outFmt c) n else if v0 then rawForm v0 (inFmt c) n else ⟨k, 0, n⟩)
    else if pid.step ≠ 0 then none
    else some_ (if pid.down then rawForm v0 (outFmt c) mine else if v0 then rawForm v0 (inFmt c) mine else ⟨k, 0, mine⟩)
  else if pid.step ≠ 0 then none
  else if d.op = 6 then some_ (rawForm v0 (inFmt c) (entriesIn c pid.chunk (grantOf c src) * entryElems c))
  else some_ (rawForm v0 (inFmt c) (collLen c pid.chunk))

/-- The format of raw data in a piece. -/
def pieceFmt (c : Coll) (pid : PieceId) : Nat := if pid.down && (collD c).reduces then outFmt c else inFmt c

/-- Every piece that this member receives of a chunk. -/
def expectedOf (g : Group) (c : Coll) (ch : Nat) : List (Nat × PieceId) :=
  let steps := if isRing c && (collD c).reduces then nBlocks g - 1 else 1
  (sourcesOf g c).flatMap (fun l =>
    ((List.range (if l.2.1 then steps else 1)).map (fun t => (l.1, (⟨l.2.1, l.2.2, ch, t⟩ : PieceId)))).filter (fun p =>
      (expectForm g c p.1 p.2).isSome))

/-! ### Pieces held -/

def pieceAt (c : Coll) (src : Nat) (pid : PieceId) : Option Piece := c.pieces.find? (fun p => p.src == src && p.pid == pid)
def verifiedAt (c : Coll) (src : Nat) (pid : PieceId) : Option Piece :=
  c.pieces.find? (fun p => p.src == src && p.pid == pid && p.verified)

def piecePut (c : Coll) (p : Piece) : Coll :=
  { c with pieces := c.pieces.filter (fun x => !(x.src == p.src && x.pid == p.pid)) ++ [p] }

/-- The values of a piece with the events of reading it. -/
def pieceSums (g : Group) (c : Coll) (p : Piece) (n : Nat) : SumsEv :=
  let k := collKind g c
  match p.header with
  | some h => if g.istus || h.wfmt == 0 then leafSums k (inFmt c) h.tscale.toNat n p.bytes else (partValues k n p.bytes, ev0)
  | none => ([], ev0)

/-! ### Sums of this member's shard (R386) -/

/-- P of this member's block for its own shard, once every piece has verified: S of each rank in ascending order, with the events
of its additions. -/
def rackSums (g : Group) (c : Coll) (ch : Nat) : Option SumsEv :=
  let n := (shardOf g c ch (myQ g)).2
  let ps := (List.range g.b).map (fun i => verifiedAt c (myBlock g * g.b + i) ⟨false, false, ch, 0⟩)
  if n = 0 then some ([], ev0)
  else if ps.any (·.isNone) then none
  else
    match (ps.filterMap id).map (fun p => pieceSums g c p n) with
    | [] => none
    | v :: t => some (t.foldl (sumListEv (collKind g c)) v)

/-- The same, without the events: they are counted once, as the hall level starts the chunk. -/
def rackSum (g : Group) (c : Coll) (ch : Nat) : Option SumsEv := (rackSums g c ch).map (fun v => (v.1, ev0))

/-- A sum as it is carried on: rounded to the wire format at each hop of the Istus form (R413). -/
def hop (g : Group) (c : Coll) (vs : SumsEv) : Except Status SumsEv :=
  if g.istus then
    match hopRound (inFmt c) vs.1 with
    | some r => .ok (r, evAdd vs.2 (resultEv 1 (inFmt c) 0 vs.1))
    | none => .error .nonfinite
  else .ok vs

/-- The TREE partial of this member's block: its own, plus those of the blocks that send to it, step by step; none while a
piece is missing. -/
def treePartial (g : Group) (c : Coll) (ch : Nat) : Except Status (Option SumsEv) :=
  let n := (shardOf g c ch (myQ g)).2
  (treeFrom (nBlocks g) (myBlock g)).foldlM (fun (acc : Option SumsEv) b =>
    match acc, verifiedAt c (hallPeer g b) ⟨true, false, ch, 0⟩ with
    | some v, some p => do
      let r ← hop g c (sumListEv (collKind g c) v (pieceSums g c p n))
      pure (some r)
    | some v, none => pure (if n = 0 then some v else none)
    | none, _ => pure none) (rackSum g c ch)

/-- The running RING sum that this block holds of segment `(k − 1 − t) mod nb` at step `t`: its own partial at step 0, else
the piece of step t − 1 plus its own. -/
def ringPartial (g : Group) (c : Coll) (ch t : Nat) : Except Status (Option SumsEv) :=
  let nb := nBlocks g
  let k := myBlock g
  let seg := segOf g c ch ((k + 2 * nb - 1 - t) % nb)
  match rackSum g c ch with
  | none => .ok none
  | some v =>
    let own : SumsEv := ((v.1.drop seg.1).take seg.2, ev0)
    if t = 0 ∨ seg.2 = 0 then .ok (some own)
    else
      match verifiedAt c (hallPeer g ((k + nb - 1) % nb)) ⟨true, false, ch, t - 1⟩ with
      | none => .ok none
      | some p => do
        let r ← hop g c (sumListEv (collKind g c) (pieceSums g c p seg.2) own)
        pure (some r)

/-! ### Results of this member's shard -/

/-- Final sums rounded to the output format. -/
def finish (g : Group) (c : Coll) (vs : List Nat) : Except Status (List Byte) :=
  match sumResult (collKind g c) (outFmt c) (collOut c).tscale vs with
  | some bs => .ok bs
  | none => .error .nonfinite

/-- A part of the result: first element within the shard, length, bytes, and the events that its forming brought here. -/
abbrev PartRes := Nat × Nat × List Byte × Ev

/-- Events of final sums and of their rounding. -/
def finishEv (g : Group) (c : Coll) (v : SumsEv) : Ev := evAdd v.2 (resultEv (collKind g c) (outFmt c) (collOut c).tscale v.1)

/-- The known results of this member's own shard. Only chunks that the hall level has started count (R391). -/
def ownResults (g : Group) (c : Coll) (ch : Nat) : Except Status (List PartRes) :=
  let n := (shardOf g c ch (myQ g)).2
  let nb := nBlocks g
  let k := myBlock g
  if n = 0 then .ok []
  else if !isRing c || nb ≤ 1 then
    if k = 0 then
      if c.hallNext ≤ ch then .ok []
      else do
        match ← treePartial g c ch with
        | some v => do
          let bs ← finish g c v.1
          pure [(0, n, bs, finishEv g c v)]
        | none => pure []
    else
      match verifiedAt c (hallPeer g (treeTo k)) ⟨true, true, ch, 0⟩ with
      | some p => .ok [(0, n, p.bytes, ev0)]
      | none => .ok []
  else do
    let mine ← if c.hallNext ≤ ch then pure none else ringPartial g c ch (nb - 1)
    let seg := segOf g c ch k
    let own ← match mine with
      | some v => if seg.2 = 0 then pure [] else do
          let bs ← finish g c v.1
          pure [(seg.1, seg.2, bs, finishEv g c v)]
      | none => pure []
    let others := (List.range (nb - 1)).filterMap (fun t =>
      let j := (k + 2 * nb - 1 - t) % nb
      let sg := segOf g c ch j
      (verifiedAt c (hallPeer g ((k + nb - 1) % nb)) ⟨true, true, ch, t⟩).map (fun p => (sg.1, sg.2, p.bytes, ev0)))
    pure (own ++ others)

/-- Join results of adjoining segments, in ascending order, when they cover the whole shard. -/
def joinResults (fmt n : Nat) (rs : List PartRes) (nb : Nat) (seg : Nat → Nat × Nat) : Option (List Byte) :=
  if rs.length = 1 ∧ (rs.any (fun r => r.2.1 == n)) then rs.head?.map (·.2.2.1)
  else
    let js := (List.range nb).filter (fun j => (seg j).2 != 0)
    let found := js.map (fun j => rs.find? (fun r => r.1 == (seg j).1 && r.2.1 == (seg j).2))
    if js.isEmpty ∨ found.any (·.isNone) then none
    else
      let fs := found.filterMap id
      some (rawBytes fmt (fs.flatMap (fun r => rawCodes fmt r.2.1 r.2.2.1)) (fs.flatMap (fun r => rawScales fmt r.2.1 r.2.2.1)))

/-! ### Parts of the output -/

/-- First output element and length of every part of a chunk that this member must hold (R383, R389). -/
def neededParts (g : Group) (c : Coll) (ch : Nat) : List (Nat × Nat) :=
  let d := collD c
  let lo := collLo c ch
  let all :=
    if d.reduces then
      (List.range g.b).flatMap (fun q =>
        let sh := shardOf g c ch q
        if q = myQ g ∧ isRing c ∧ 1 < nBlocks g then
          (List.range (nBlocks g)).map (fun j => (lo + sh.1 + (segOf g c ch j).1, (segOf g c ch j).2))
        else [(lo + sh.1, sh.2)])
    else if d.op = 3 then (List.range g.m).map (fun r => (r * d.elems + lo, collLen c ch))
    else if d.op = 4 then [(lo, collLen c ch)]
    else
      (List.range g.m).map (fun r => ((grantsBefore c r + lo) * entryElems c, entriesIn c ch (grantOf c r) * entryElems c))
  let fill := if d.op = 6 ∧ ch + 1 = collChunks c then
      let kept := grantsBefore c g.m
      [(kept * entryElems c, (d.elems - kept) * entryElems c)]
    else []
  all.filter (fun p => p.2 != 0) ++ fill

/-- Whether a chunk's parts can be known at all: ALLTOALL needs its allowances. -/
def partsKnown (g : Group) (c : Coll) : Bool := (collD c).op != 6 || c.grants.length == g.m

/-- Add a part once. -/
def addPart (c : Coll) (ch lo n : Nat) (bs : List Byte) : Coll :=
  if c.parts.any (fun p => p.chunk == ch && p.lo == lo && p.n == n) then c
  else { c with parts := c.parts ++ [⟨ch, lo, n, bs, false⟩] }

/-- Whether every part of a chunk has been written. -/
def chunkDone (g : Group) (c : Coll) (ch : Nat) : Bool :=
  partsKnown g c && (neededParts g c ch).all (fun p => c.parts.any (fun x => x.chunk == ch && x.lo == p.1 && x.n == p.2 && x.written))

/-! ### Queueing pieces to send -/

/-- Queue a piece once. -/
def queuePiece (g : Group) (c : Coll) (pid : PieceId) (dst : Nat) (form : PieceForm) (ts used dropped ncontrib : Nat)
    (data : List Byte) (leaf : Bool) : Coll :=
  if form.n = 0 ∨ c.sent.any (fun p => p.pid == pid && p.dst == dst) then c
  else
    let h := pieceHeader (collVer0 g) g.epoch (collOpsig c) form ts used dropped ncontrib data
    { c with sent := c.sent ++ [⟨pid, dst, data, h, leaf, false, false⟩] }

/-- The events of what a change of the collective formed: those of a piece newly queued or a part newly added. -/
def newEv (old new : Coll) (e : Ev) : Ev :=
  if new.sent.length = old.sent.length ∧ new.parts.length = old.parts.length then ev0 else e

/-- Tensor scale of the output in a raw piece. -/
def outScale (c : Coll) : Nat := if blockScaled (outFmt c) && !isIstus (outFmt c) then (collOut c).tscale else 0

/-- What the hall level sends of a chunk that it has started, and the results that go down (R386, R389, R396); with the events
of the arithmetic. -/
def formChunk (g : Group) (c : Coll) (ch : Nat) : Except Status (Coll × Ev) := do
  let nb := nBlocks g
  let k := myBlock g
  let v0 := collVer0 g
  let kind := collKind g c
  let l := (collD c).l
  let n := (shardOf g c ch (myQ g)).2
  let part := fun (vs : List Nat) => if v0 then (sumResult 1 (inFmt c) 0 vs).getD [] else partBytes kind vs
  let pform := fun (m : Nat) => if v0 then rawForm v0 (inFmt c) m else (⟨kind, 0, m⟩ : PieceForm)
  let up ←
    if c.hallNext ≤ ch ∨ nb ≤ 1 then pure (c, ev0)
    else if isRing c then
      (List.range (nb - 1)).foldlM (fun (x : Coll × Ev) t => do
        match ← ringPartial g x.1 ch t with
        | some vs =>
          let c1 := queuePiece g x.1 ⟨true, false, ch, t⟩ (hallPeer g ((k + 1) % nb)) (pform vs.1.length) 0 0 0
            ((t + 1) * g.b * l) (part vs.1) false
          pure (c1, evAdd x.2 (newEv x.1 c1 vs.2))
        | none => pure x) (c, ev0)
    else if k = 0 then pure (c, ev0)
    else do
      match ← treePartial g c ch with
      | some vs =>
        let c1 := queuePiece g c ⟨true, false, ch, 0⟩ (hallPeer g (treeTo k)) (pform vs.1.length) 0 0 0
          (treeCount nb k * g.b * l) (part vs.1) false
        pure (c1, newEv c c1 vs.2)
      | none => pure (c, ev0)
  let rs ← ownResults g up.1 ch
  let lo := collLo c ch + (shardOf g c ch (myQ g)).1
  let added := rs.foldl (fun (x : Coll × Ev) r =>
    let c1 := addPart x.1 ch (lo + r.1) r.2.1 r.2.2.1
    (c1, evAdd x.2 (newEv x.1 c1 r.2.2.2))) up
  let withParts := added.1
  let down := if nb ≤ 1 then withParts
    else if isRing c then
      (List.range (nb - 1)).foldl (fun (c1 : Coll) t =>
        let sg := segOf g c ch ((k + nb - t) % nb)
        match rs.find? (fun r => r.1 == sg.1 && r.2.1 == sg.2) with
        | some r => queuePiece g c1 ⟨true, true, ch, t⟩ (hallPeer g ((k + 1) % nb)) (rawForm v0 (outFmt c) r.2.1) (outScale c)
            0 0 (g.m * l) r.2.2.1 false
        | none => c1) withParts
    else
      match rs with
      | [r] => (treeFrom nb k).foldl (fun (c1 : Coll) b => queuePiece g c1 ⟨true, true, ch, 0⟩ (hallPeer g b)
          (rawForm v0 (outFmt c) n) (outScale c) 0 0 (g.m * l) r.2.2.1 false) withParts
      | _ => withParts
  let whole := joinResults (outFmt c) n rs nb (segOf g c ch)
  let gathered := match whole with
    | some bs => (blockPeers g).foldl (fun (c1 : Coll) r => queuePiece g c1 ⟨false, true, ch, 0⟩ r (rawForm v0 (outFmt c) n)
        (outScale c) 0 0 (g.m * l) bs false) down
    | none => down
  pure ((blockPeers g).foldl (fun (c1 : Coll) r =>
    match verifiedAt c1 r ⟨false, true, ch, 0⟩ with
    | some p =>
      let sh := shardOf g c ch (r % g.b)
      addPart c1 ch (collLo c ch + sh.1) sh.2 p.bytes
    | none => c1) gathered, added.2)

/-- Parts that verified pieces of an ALLGATHER, BROADCAST or ALLTOALL give (R383, R400). -/
def directParts (g : Group) (c : Coll) (ch : Nat) : Coll :=
  let d := collD c
  let c1 := (List.range g.m).foldl (fun (x : Coll) r =>
    let found := x.pieces.find? (fun p => p.src == r && p.pid.chunk == ch && p.verified)
    match found with
    | none => x
    | some p =>
      if d.op = 3 then addPart x ch (r * d.elems + collLo c ch) (collLen c ch) p.bytes
      else if d.op = 4 then (if r = d.root then addPart x ch (collLo c ch) (collLen c ch) p.bytes else x)
      else
        let n := entriesIn c ch (grantOf c r) * entryElems c
        if n = 0 then x else addPart x ch ((grantsBefore c r + collLo c ch) * entryElems c) n p.bytes) c
  if d.op = 6 ∧ ch + 1 = collChunks c ∧ partsKnown g c then
    let kept := grantsBefore c g.m
    let n := (d.elems - kept) * entryElems c
    addPart c1 ch (kept * entryElems c) n (List.replicate (rawLen (inFmt c) n) 0)
  else c1

/-- Everything that the pieces now held allow, chunk by chunk. -/
def formAll (g : Group) (c : Coll) : Except Status (Coll × Ev) :=
  (List.range (collChunks c)).foldlM (fun (x : Coll × Ev) ch =>
    if (collD c).reduces then (formChunk g x.1 ch).map (fun r => (r.1, evAdd x.2 r.2)) else .ok (directParts g x.1 ch, x.2)) (c, ev0)

/-! ### Whom a member waits for (R408) -/

/-- Peers awaited for READY, for a piece, or for the completion wave. -/
def awaitedRanks (g : Group) (c : Coll) : List Nat :=
  ((targetsOf g c).filter (fun l => !c.ready.contains l)).map (·.1) ++
    ((List.range (collChunks c)).flatMap (fun ch => (expectedOf g c ch).filter (fun p => (verifiedAt c p.1 p.2).isNone))).map (·.1) ++
    (treeChildren g.m g.rank).filter (fun r => !c.doneUps.contains r) ++
    (if g.rank = 0 then [] else [treeParent g.rank]) ++
    (if (collD c).op = 6 then (otherRanks g).filter (fun r => tget 0 c.counts r == 0) else [])

end Sys2Proof.Machine
end

