-- ==== Sys2Proof/Machine/Truss.lean ====
section
/-! DEFINITION. The Truss engines (R371 to R413): the GROUP and COLL commands, the messages of a collective, its output,
completion and failure. -/

namespace Sys2Proof.Machine

open Sys2Proof

/-! ### Bound collectives -/

def collAt (s : Block) (gid seq : Nat) : Option Coll := s.truss.colls.find? (fun c => c.gid == gid && c.seq == seq)
def collPut (s : Block) (c : Coll) : Block :=
  { s with truss := { s.truss with colls := s.truss.colls.map (fun x => if x.gid = c.gid ∧ x.seq = c.seq then c else x) } }
def collDrop (s : Block) (c : Coll) : Block :=
  { s with truss := { s.truss with colls := s.truss.colls.filter (fun x => !(x.gid == c.gid && x.seq == c.seq)) } }

/-- The sequencer of the engine that bound a collective: 544 for Sketch. -/
def collSeqId (c : Coll) : Nat := 528 + c.engine
def collReq (c : Coll) : Nat := 608 + c.engine

/-- REQ of a message of a collective: that of the engine that bound it, where one is bound here (R373). -/
def reqFor (s : Block) (gid seq : Nat) : Nat := match collAt s gid seq with
  | some c => collReq c
  | none => 608

/-- An event of the binding engine (R515). -/
def trussEvent (s : Block) (c : Coll) (code n : Nat) : Block :=
  if c.engine < 16 then report s (unitTruss c.engine) code n .ok (c.gid * 2 ^ 32 + c.seq) else s

/-! ### Records (R403) -/

/-- The completion record of a collective. -/
def collRecord (s : Block) (c : Coll) (st : Status) (subject : Nat) : List Byte :=
  natLe 2 (statusCode st) ++ natLe 4 subject ++ natLe 2 0 ++ natLe 4 c.seq ++ natLe 4 (groupAt s c.gidx).epoch ++
    natLe 8 (hallNat s) ++ natLe 4 c.resends ++ natLe 4 c.dropped ++ natLe 8 (c.stalls.getD 0 0) ++ natLe 8 (c.stalls.getD 1 0) ++
    natLe 8 (c.stalls.getD 2 0) ++ natLe 8 0

/-- Write the record where the block names one. -/
def writeCollRecord (s : Block) (c : Coll) (st : Status) (subject : Nat) : Block :=
  let a := (collD c).record
  if a = 0 then s else innerWrite s (seqOwner s (collSeqId c)) 0 (rackLocal a) (collRecord s c st subject)

/-! ### Owned output regions (R404) -/

/-- Regions of own HBM that the local output touches. -/
def collRegions (g : Group) (c : Coll) : List Nat :=
  let d := collD c
  if !d.own || (d.op == 5 && g.rank != d.root) then []
  else
    let sp := descSpan (collOut c).d
    let lo := rackLocal sp.lo / 0x200000
    let hi := (rackLocal sp.lo + (sp.hi - sp.lo) - 1) / 0x200000
    (List.range (hi + 1 - lo)).map (fun k => lo + k)

/-- Whether every region is held. -/
def regionsHeld (s : Block) (g : Group) (c : Coll) : Bool :=
  (collRegions g c).all (fun r => s.own.mine.any (fun m => m.unit == 16 + c.engine && m.slot == ownSlot s && m.region == r && m.held))

/-- The engine asks its own home for EXCL ownership of each region (R351, R404). The home takes the request in the same
step; its answer travels on the ridge. -/
def acquireRegions (s : Block) (g : Group) (c : Coll) : Block :=
  (collRegions g c).foldl (fun s r =>
    if s.own.mine.any (fun m => m.unit == 16 + c.engine && m.slot == ownSlot s && m.region == r) then s
    else
      let tid := s.coh.nextTid
      let q : OwnReq := ⟨tid.toNat, 16 + c.engine, ownSlot s, r, false, false, false, none⟩
      let s := { s with coh := { s.coh with nextTid := tid + 1 }, own := { s.own with mine := s.own.mine ++ [q] } }
      takeAcq s ⟨⟨ownSlot s % 72, by omega⟩, BitVec.ofNat 6 (16 + c.engine), BitVec.ofNat 32 (homeEpoch s)⟩ r tid.toNat false) s

/-- Regions are released before FENCE is signalled (R352, R404), but for those that another collective of the engine still
needs. -/
def releaseRegions (s : Block) (g : Group) (c : Coll) : Block :=
  let others := ((liveColls s).filter (fun x => x.engine == c.engine && !(x.gid == c.gid && x.seq == c.seq))).flatMap (fun x =>
    collRegions (groupAt s x.gidx) x)
  let mine := (collRegions g c).filter (fun r => !others.contains r)
  let s := ownTable s (s.own.table.filter (fun e => !(mine.contains e.2.region && e.2.oslot == ownSlot s &&
    e.2.ounit == 16 + c.engine && !e.2.lost)))
  { s with own := { s.own with
      mine := s.own.mine.filter (fun m => !(m.unit == 16 + c.engine && m.slot == ownSlot s && mine.contains m.region))
      reqs := s.own.reqs.filter (fun m => !(m.unit == 16 + c.engine && m.slot == ownSlot s && mine.contains m.region)) } }

/-! ### Failure (R403, R406, R409) -/

/-- A collective that has failed leaves once every FAIL it sent is acknowledged and the wave has passed. -/
def dropFailed (s : Block) (gid seq : Nat) : Block :=
  match collAt s gid seq with
  | some c => if c.failed.isSome && c.fwd && c.acks.isEmpty then collDrop s c else s
  | none => s

/-- Send FAIL to ranks, each of which must acknowledge it. -/
def sendFails (s : Block) (g : Group) (c : Coll) (st : Status) (subject : Nat) (ranks : List Nat) : Block :=
  let to_ := ranks.filter (fun r => r != g.rank && decide (r < g.m))
  let s := to_.foldl (fun s r => sendCtl s g r c.seq (collReq c) ctlFail (ctlPid g r) st subject 0) s
  match collAt s c.gid c.seq with
  | some x => collPut s { x with acks := x.acks ++ to_.filter (fun r => !x.acks.contains r) }
  | none => s

/-- The local end of a collective that fails: its record, its regions, FENCE and PROG aborted under R207, its context freed;
a lost member or an order mismatch makes the group LOST. -/
def endFailed (s : Block) (c : Coll) (st : Status) (subject : Nat) : Block :=
  let g := groupAt s c.gidx
  let d := collD c
  let s := writeCollRecord s c st subject
  let s := releaseRegions s g c
  let s := collPut s { c with failed := some (st, subject), pieces := [], sent := [], parts := [] }
  let s := if (st = .memberLost ∨ st = .orderMismatch) ∧ (g.state = 1 ∨ g.state = 2) then
      groupPut s c.gidx { g with state := 4, resv := 0 } else s
  trussPublish (abortTargets s (collSeqId c) ((none, d.fence) :: (if d.progEn then [(none, d.prog)] else [])))

/-- A collective fails at this member: FAIL goes to rank 0, or from rank 0 down the formation tree. -/
def failColl (s : Block) (gid seq : Nat) (st : Status) (subject : Nat) : Block :=
  match collAt s gid seq with
  | none => s
  | some c =>
    if c.failed.isSome then s
    else
      let g := groupAt s c.gidx
      let s := if st = .corruptSource then odBump s 0x8030 5 1 else s
      let s := endFailed s c st subject
      if g.rank = 0 then
        match collAt s gid seq with
        | some x => dropFailed (sendFails (collPut s { x with fwd := true }) g x st subject (treeChildren g.m 0)) gid seq
        | none => s
      else sendFails s g c st subject [0]

/-- Every collective of a group fails (R409); a lost member is counted and the group is LOST. -/
def loseMember (s : Block) (gidx rank : Nat) : Block :=
  let g := groupAt s gidx
  if g.state ≠ 1 ∧ g.state ≠ 2 then s
  else
    let s := groupPut (odBump s 0x8030 6 1) gidx { g with state := 4, resv := 0 }
    trussPublish ((liveColls s).foldl (fun s c => if c.gidx = gidx then failColl s c.gid c.seq .memberLost rank else s) s)

/-- An order mismatch fails the collective and makes the group LOST (R411). -/
def orderMismatch (s : Block) (c : Coll) : Block := failColl s c.gid c.seq .orderMismatch (groupAt s c.gidx).rank

/-! ### Completion (R402) -/

/-- DONE_DOWN reaches this member: its record, its regions, FENCE, and the wave to its children; its staging and context are
freed. -/
def finishColl (s : Block) (c : Coll) : Block :=
  let g := groupAt s c.gidx
  let s := writeCollRecord s c .ok 0xFFFFFFFF
  let s := releaseRegions s g c
  let s := (treeChildren g.m g.rank).foldl (fun s r => sendCtl s g r c.seq (collReq c) ctlDoneDown (ctlPid g r) .ok 0 0) s
  let s := trussPublish (collDrop s c)
  signalAdd s (collD c).fence 1

/-- A member that has verified and written everything, and whose children are done, tells its parent, once. -/
def checkUp (s : Block) (gid seq : Nat) : Block × Option Coll :=
  match collAt s gid seq with
  | none => (s, none)
  | some c =>
    let g := groupAt s c.gidx
    if c.failed.isNone && c.done && !c.upSent && (treeChildren g.m g.rank).all (fun r => c.doneUps.contains r) then
      let c1 := { c with upSent := true }
      if g.rank = 0 then (finishColl (collPut s c1) c1, some c1)
      else
        let up := treeParent g.rank
        (sendCtl (collPut s c1) g up c.seq (collReq c) ctlDoneUp (ctlPid g up) .ok 0 0, none)
    else (s, none)

/-! ### Sending pieces (R391, R392, R394, R398) -/

/-- DATA packets of a piece, fifteen slots each, then its HEADER packet. -/
def sendData (s : Block) (g : Group) (c : Coll) (p : SentPiece) : Nat → Nat → List (BitVec 128) → Block
  | 0, _, _ => s
  | fuel + 1, j, ss =>
    let rails := (collD c).rails
    let vc5 := decide (p.bytes.length < 4096)
    let k := railPlane rails j g.rank p.dst
    if ss.isEmpty then
      sendChunk s g p.dst (collReq c) vc5 k (trussExt s g p.dst c.seq 1 p.pid 0) (headerSlots g c.seq p.dst p.pid p.header)
    else
      sendData (sendChunk s g p.dst (collReq c) vc5 k (trussExt s g p.dst c.seq 0 p.pid (15 * j)) (ss.take 15)) g c p fuel (j + 1)
        (ss.drop 15)

/-- Send a piece whole. -/
def sendPiece (s : Block) (g : Group) (c : Coll) (p : SentPiece) : Block :=
  let ss := payloadSlots p.bytes
  sendData s g c p (ss.length + 1) 0 ss

/-! ### Staging (R385, R391, R396, R405; log 32) -/

/-- The level buffer of the staging in which a formed piece stands: module sums, partials of the hall level, results. -/
def stageLevel (pid : PieceId) : Nat := if pid.down then 2 else if pid.hall then 1 else 0

/-- Bytes of a chunk slot of a level buffer: a third of the 12 · C bytes that each of the D slots takes. -/
def stageSize (c : Coll) : Nat := 4 * (collD c).chunkBytes

/-- Whether two pieces stand in one slot: the same level buffer, and the same chunk modulo D. -/
def sameStage (c : Coll) (a b : PieceId) : Bool := stageLevel a == stageLevel b && a.chunk % c.depth == b.chunk % c.depth

/-- Whether two pieces share one copy: the same data sent to several receivers. -/
def sameCopy (a b : SentPiece) : Bool := a.pid == b.pid && a.bytes == b.bytes

/-- The copies that stand before a piece in its slot, one for each piece with data of its own. -/
def copiesBefore (c : Coll) (p : SentPiece) : List SentPiece :=
  ((c.sent.takeWhile (fun x => x.leaf || !sameCopy x p)).filter (fun x => !x.leaf && x.pid.chunk == p.pid.chunk && sameStage c x.pid p.pid)).foldl
    (fun l x => if l.any (sameCopy x) then l else l ++ [x]) []

/-- Where a formed piece stands in the staging; none when its slot has no room left for it. -/
def stagePlace (c : Coll) (p : SentPiece) : Option Nat :=
  let off := (copiesBefore c p).foldl (fun n x => n + roundUp 16 x.bytes.length) 0
  if stageSize c < off + p.bytes.length then none
  else some ((collD c).stage + (stageLevel p.pid * c.depth + p.pid.chunk % c.depth) * stageSize c + off)

/-- Whether a later chunk has taken over the slot of a piece. -/
def stageTaken (c : Coll) (p : SentPiece) : Bool :=
  c.sent.any (fun x => !x.leaf && x.staged && decide (p.pid.chunk < x.pid.chunk) && sameStage c x.pid p.pid)

/-- Write the copies of formed pieces to the staging, under the hint STREAM (R385). A piece whose lines are not free stays for a
later try. -/
def stagePieces (s : Block) (c : Coll) : Block × Coll × Option Status :=
  c.sent.foldl (fun (acc : Block × Coll × Option Status) p =>
    if p.leaf || p.staged || acc.2.2.isSome then acc
    else
      let done := { acc.2.1 with sent := acc.2.1.sent.map (fun x => if x = p then { p with staged := true } else x) }
      match stagePlace c p with
      | none => (acc.1, done, none)
      | some a =>
        if !piecesFree acc.1 [(a, p.bytes.length)] true then (piecesAsk acc.1 [(a, p.bytes.length)] true, acc.2.1, none)
        else
          match applyWrites acc.1 (collSeqId c) 0 1 (wBytes a p.bytes.length (leNat p.bytes)) with
          | (s1, none) => (s1, done, none)
          | (_, some e) => (acc.1, acc.2.1, some e.st)) (s, c, none)

/-- Send every queued piece whose receiver is READY at its level and direction; a formed one once it is staged. -/
def flushSent (s : Block) (g : Group) (c : Coll) : Block × Coll :=
  c.sent.foldl (fun (acc : Block × Coll) p =>
    if !p.gone && (p.leaf || p.staged) && acc.2.ready.contains (p.dst, p.pid.hall, p.pid.down) then
      (sendPiece acc.1 g c p, { acc.2 with sent := acc.2.sent.map (fun x => if x = p then { p with gone := true } else x) })
    else acc) (s, c)

/-! ### Output (R401, R404) -/

/-- The writes of a part at this member (R383): none at a member that writes nothing. -/
def partWrites (g : Group) (c : Coll) (p : ResPart) : List WByte :=
  let d := collD c
  let t := collOut c
  if d.op = 5 ∧ g.rank ≠ d.root then []
  else if d.op = 2 then
    let each := d.elems / g.m
    let lo := max p.lo (g.rank * each)
    let hi := min (p.lo + p.n) ((g.rank + 1) * each)
    let fmt := t.d.fmt
    let bl := if blockScaled fmt then blockLen fmt else 1
    let codes := ((rawCodes fmt p.n p.bytes).drop (lo - p.lo)).take (hi - lo)
    let scales := ((rawScales fmt p.n p.bytes).drop ((lo - p.lo) / bl)).take (scaleBytesOf fmt (hi - lo))
    rawWrites t (lo - g.rank * each) (hi - lo) (rawBytes fmt codes scales)
  else
    let fill := d.op = 6 ∧ p.chunk + 1 = collChunks c ∧ p.lo = grantsBefore c g.m * entryElems c
    rawWrites t p.lo p.n p.bytes ++
      (if fill then (List.range g.m).flatMap (fun r => wBytes (d.cnt + 4 * g.m + 4 * r) 4 (grantOf c r)) else [])

/-- Bytes of memory that writes touch, as one piece for each run. -/
def writePieces (ws : List WByte) : List (Nat × Nat) :=
  (lineRuns (ws.foldl (fun t w => tset 0 t w.addr 1) [])).map (fun r => (r.1, r.2.length))

/-- Write the parts that are known and not yet written. A part whose lines are not free stays for a later try. -/
def writeParts (s : Block) (g : Group) (c : Coll) : Block × Coll × Option Status :=
  if !regionsHeld s g c then (s, c, none)
  else
    let q := collSeqId c
    c.parts.foldl (fun (acc : Block × Coll × Option Status) p =>
      let s := acc.1
      if p.written || acc.2.2.isSome then acc
      else
        let ws := partWrites g c p
        let ps := writePieces ws
        let done := { acc.2.1 with parts := acc.2.1.parts.map (fun x => if x = p then { p with written := true, bytes := [] } else x) }
        if ws.isEmpty then (s, done, none)
        else if !piecesFree s ps true then (piecesAsk s ps true, acc.2.1, none)
        else
          match applyWrites s q 0 (collOut c).hint ws with
          | (s1, none) => (s1, done, none)
          | (_, some e) => (s, acc.2.1, some e.st)) (s, c, none)

/-- Leading complete chunks: PROG is signalled for each (R401). -/
def countProg (g : Group) : Nat → Block → Coll → Block × Coll
  | 0, s, c => (s, c)
  | fuel + 1, s, c =>
    if c.prog < collChunks c && chunkDone g c c.prog then
      let c1 := { c with prog := c.prog + 1 }
      let s1 := collPut s c1
      countProg g fuel (if (collD c).progEn then signalAdd s1 (collD c).prog 1 else s1) c1
    else (s, c)

/-- Everything a collective can do with what it holds: sums, pieces, output, progress, completion. -/
def advanceColl (s : Block) (gid seq : Nat) : Block :=
  match collAt s gid seq with
  | none => s
  | some c =>
    let g := groupAt s c.gidx
    if !c.active || c.failed.isSome then s
    else
      match formAll g c with
      | .error e => failColl s gid seq e g.rank
      | .ok (c1, e) =>
        let (s0, c0, bad0) := stagePieces (countOther s (unitTruss c.engine) e) c1
        let (s1, c2) := flushSent s0 g c0
        let (s2, c3, bad) := writeParts s1 g c2
        match bad0.or bad with
        | some e => failColl (collPut s2 c3) gid seq e g.rank
        | none =>
          let (s3, c4) := countProg g (collChunks c + 1) (collPut s2 c3) c3
          let all := c4.prog == collChunks c4
          let s4 := if all && !c4.done then collPut s3 { c4 with done := true } else s3
          (checkUp s4 gid seq).1

/-! ### A collective becomes active (R385, R398 to R400) -/

/-- Send READY to everyone this member receives from at one link. -/
def sendReady (s : Block) (g : Group) (c : Coll) (l : Link3) (allow : Nat) : Block :=
  sendCtl s g l.1 c.seq (collReq c) ctlReady ⟨l.2.1, l.2.2, 0, 0⟩ .ok 0 ((collOpsig c).toNat + allow % 2 ^ 32 * 2 ^ 32)

/-- Allowances in ascending source rank until CAP entries are allotted (R400). -/
def allot : Nat → List Nat → List Nat
  | _, [] => []
  | cap, n :: t => min cap n :: allot (cap - min cap n) t

/-- Once every count is held: allowances, READY with ALLOW to each source, and the dropped entries (R400). -/
def grantAll (s : Block) (gid seq : Nat) : Block :=
  match collAt s gid seq with
  | none => s
  | some c =>
    let g := groupAt s c.gidx
    if !c.active || (collD c).op ≠ 6 || !c.grants.isEmpty || (List.range g.m).any (fun r => tget 0 c.counts r == 0) then s
    else
      let ns := (List.range g.m).map (fun r => tget 0 c.counts r - 1)
      let gs := allot (collD c).elems ns
      let drop := ns.foldl (· + ·) 0 - gs.foldl (· + ·) 0
      let c1 := { c with grants := gs, dropped := drop, allow := tset 0 c.allow g.rank (gs.getD g.rank 0 + 1) }
      let s := odBump (collPut s c1) 0x8030 7 drop
      (sourcesOf g c1).foldl (fun s l => sendReady s g c1 l (gs.getD l.1 0)) s

/-- An early READY, COUNT, DONE_UP is taken by the collective it is for. -/
def applyEarly (c : Coll) (e : Early) : Coll :=
  match e.msg with
  | .ready pid _ allow => { c with ready := c.ready ++ [(e.rank, pid.hall, pid.down)], allow := tset 0 c.allow e.rank (allow + 1) }
  | .doneUp => { c with doneUps := c.doneUps ++ [e.rank] }
  | .count n => { c with counts := tset 0 c.counts e.rank (n + 1) }
  | _ => c

/-- A collective whose group is ACTIVE starts: it takes what came early, tells its sources that it is ready, and for ALLTOALL
sends its counts. -/
def activateColl (s : Block) (gid seq : Nat) : Block :=
  match collAt s gid seq with
  | none => s
  | some c =>
    let g := groupAt s c.gidx
    if c.active || c.failed.isSome || g.state ≠ 2 then s
    else
      let (s, es) := takeEarly s (fun e => e.gid == gid && e.seq == seq)
      let failed := es.findSome? (fun e => match e.msg with
        | .fail st sub => some (st, sub)
        | _ => none)
      let wrong := es.any (fun e => match e.msg with
        | .ready _ sig _ => !g.istus && sig != collOpsig c
        | _ => false)
      let c1 := es.foldl applyEarly { c with active := true }
      let s := collPut s c1
      match failed with
      | some (st, sub) =>
        let s := endFailed s c1 st sub
        match collAt s gid seq with
        | some x => dropFailed (collPut s { x with fwd := true }) gid seq
        | none => s
      | none =>
        if wrong then orderMismatch s c1
        else
          let s := acquireRegions s g c1
          let s := if (collD c1).op = 6 then
              let s := (otherRanks g).foldl (fun s r => sendCtl s g r seq (collReq c1) ctlCount (ctlPid g r) .ok 0 (c1.cnts.getD r 0)) s
              let c2 := { c1 with counts := tset 0 c1.counts g.rank (c1.cnts.getD g.rank 0 + 1) }
              grantAll (collPut s c2) gid seq
            else (sourcesOf g c1).foldl (fun s l => sendReady s g c1 l 0) s
          advanceColl s gid seq

/-- Activate every collective that waits for its group. -/
def activateGroup (s : Block) (gidx : Nat) : Block :=
  (s.truss.colls.filter (fun c => c.gidx == gidx && !c.active)).foldl (fun s c => activateColl s c.gid c.seq) s

/-! ### Formation (R377) -/

/-- The end of a formation at this member: ACTIVE, or FREE with every bound collective ended. -/
def formEnd (s : Block) (gidx : Nat) (st : Status) : Block :=
  let g := groupAt s gidx
  let s := formDownWave s g st
  if st = .ok then activateGroup (trussPublish (groupPut s gidx { g with state := 2 })) gidx
  else
    let s := (liveColls s).foldl (fun s c =>
      if c.gidx = gidx then collDrop (endFailed s c .formMismatch 0xFFFFFFFF) c else s) s
    let s := (takeEarly s (fun e => e.gid == g.gid)).1
    trussPublish (groupPut s gidx group0)

/-- The wave goes on from this member when it can. -/
def formAdvance (s : Block) (gidx : Nat) : Block :=
  match formUpWave s gidx with
  | (s1, some st) => formEnd s1 gidx st
  | (s1, none) => s1

/-- FORM and REFORM (R377, R378). -/
def beginForm (q : Nat) (re : Bool) (s : Block) (c : CmdSlot) : Began :=
  let a := cmdBlock c.word
  match operandWait s q 0 c (formPieces s q a) [] with
  | some b => b
  | none =>
    match formCheck s q a re with
    | .error e => .stop s e
    | .ok (k, g) =>
      let s := trussPublish (groupPut (touchPieces s 0 (formPieces s q a)) k g)
      let (s, es) := takeEarly s (fun e => e.gid == g.gid && (match e.msg with | .formUp _ _ => true | _ => false))
      let g1 := es.foldl (fun (x : Group) e => match e.msg with
        | .formUp sig ep => { x with ups := x.ups ++ [(e.rank, sig)], epochs := tset 0 x.epochs e.rank (ep.toNat + 1) }
        | _ => x) g
      .go (formAdvance (groupPut s k g1) k) .ok true

/-- PARK and DISSOLVE (R379). -/
def beginPark (q : Nat) (park : Bool) (s : Block) (c : CmdSlot) : Began :=
  let a := cmdBlock c.word
  match operandWait s q 0 c (if seqMem s q a 64 then [(a, 64)] else []) [] with
  | some b => b
  | none =>
    match parkCheck s q a park with
    | .error e => .stop s e
    | .ok (k, g) =>
      let gid := (groupAt s k).gid
      let s := touchPieces s 0 [(a, 64)]
      .go (trussPublish (groupPut (if park then s else (takeEarly s (fun e => e.gid == gid)).1) k g)) .ok true

/-- A GROUP command of an operation. -/
def isGroup (op : Nat) (w : BitVec 128) : Bool := cmdOpcode w == 0x29 && cmdBits w 8 2 == op

/-- Sequencer of an engine. -/
def trussSeq (e : Fin 16) : Nat := 528 + e.val

/-- FORM (R377). -/
def execForm (e : Fin 16) (s : State) : Host.Outcome State Fault Refusal := onBlock s fun s =>
  .next (startQueued s (trussSeq e) (isGroup 0) (beginForm (trussSeq e) false))

/-- REFORM (R378). -/
def execReform (e : Fin 16) (s : State) : Host.Outcome State Fault Refusal := onBlock s fun s =>
  .next (startQueued s (trussSeq e) (isGroup 1) (beginForm (trussSeq e) true))

/-- PARK (R379). -/
def execPark (e : Fin 16) (s : State) : Host.Outcome State Fault Refusal := onBlock s fun s =>
  .next (startQueued s (trussSeq e) (isGroup 2) (beginPark (trussSeq e) true))

/-- DISSOLVE (R379). -/
def execDissolve (e : Fin 16) (s : State) : Host.Outcome State Fault Refusal := onBlock s fun s =>
  .next (startQueued s (trussSeq e) (isGroup 3) (beginPark (trussSeq e) false))

/-- FORM_UP (R377): the LSIG of a child, and its home epoch. -/
def execFormUp (gid : BitVec 32) (rank : Nat) (lsig : Word) (hepoch : BitVec 32) (s : State) : Host.Outcome State Fault Refusal := onBlock s fun s =>
  .next (if powerState s < 2 then s
    else
      match groupByGid s gid.toNat with
      | some (k, g) =>
        if g.state = 1 ∧ (treeChildren g.m g.rank).contains rank then
          if !knownMember s g rank then odBump s 0x6030 7 1
          else
            let ups := g.ups.filter (fun u => u.1 != rank) ++ [(rank, lsig)]
            ledgerFlush (formAdvance (groupPut s k { g with ups := ups, epochs := tset 0 g.epochs rank (hepoch.toNat + 1) }) k)
        else if g.state = 3 ∨ g.state = 4 then keepEarly s ⟨gid.toNat, 0, rank, .formUp lsig hepoch⟩
        else s
      | none => keepEarly s ⟨gid.toNat, 0, rank, .formUp lsig hepoch⟩)

/-- FORM_DOWN (R377). -/
def execFormDown (gid : BitVec 32) (st : Status) (s : State) : Host.Outcome State Fault Refusal := onBlock s fun s =>
  .next (match groupByGid s gid.toNat with
    | some (k, g) => if g.state = 1 ∧ g.rank ≠ 0 then ledgerFlush (formEnd s k st) else s
    | none => s)

/-! ### COLL (R380 to R385, R412) -/

/-- What a COLL accepts on the block and the group alone (R385, R412). -/
def collShapeOk (g : Group) (d : CollDesc) (L : Nat) : Bool :=
  [1, 2, 3, 6, 9, 18].contains d.rails && !(d.own && d.progEn) && decide (d.root < g.m) &&
    (if d.reduces then true else L == 1) && (d.op != 2 || d.elems % (32 * g.m) == 0) &&
    (!g.istus || ((d.op == 1 || d.op == 3 || d.op == 4) && L == 1))

/-- Formats that the operation accepts (R384, R385, R412). -/
def collFormatsOk (g : Group) (d : CollDesc) (ins : List Tensor) (out : Tensor) : Bool :=
  let f := (ins.headD out).d.fmt
  let o := out.d.fmt
  ins.all (fun t => t.d.fmt == f && t.d.kind == 0) && out.d.kind == 0 &&
    (if d.reduces then reducePair f o else f == o && (d.op != 6 || (decide (0x0C ≤ f) && decide (f ≤ 0x10)))) &&
    (!blockScaled f || d.op == 6 || d.elems % 32 == 0) && decide (chunkCount d f ≤ 65536) &&
    (!g.istus || (f == o && (isIstus f || f == 0x0E)))

/-- Elements that the output carries at this member (R383). -/
def outElems (g : Group) (d : CollDesc) (f : Nat) : Nat :=
  if d.op = 2 then d.elems / g.m else if d.op = 3 then g.m * d.elems
  else if d.op = 6 then d.elems * (d.esz * 8 / fmtBits f) else d.elems

/-- Shapes and places of the tensors (R383). -/
def collLayoutOk (s : Block) (q : Nat) (g : Group) (d : CollDesc) (ins : List Tensor) (out : Tensor) : Bool :=
  let f := out.d.fmt
  let place := fun (t : Tensor) => t.d.ndim == 1 && t.d.tile == 0 && (let sp := descSpan t.d; seqMem s q sp.lo (sp.hi - sp.lo))
  ins.all (fun t => place t && (d.op == 6 || extOf t.d 0 == d.elems)) && place out && extOf out.d 0 == outElems g d f

/-- Whether the output overlaps an input or the staging (R385). -/
def collOverlap (d : CollDesc) (ins : List Tensor) (out : Tensor) : Bool :=
  let o := descSpan out.d
  ins.any (fun t => meets o (descSpan t.d)) || meets o ⟨d.stage, d.stage + d.stageSize⟩

/-- References of a block and their descriptors, as latched. -/
def latchRef (s : Block) (q v : Nat) : Nat × Nat := (v, rackLe s q (bits v 0 48) 64)

/-- The counts of an ALLTOALL source (R399). -/
def readCounts (s : Block) (q : Nat) (g : Group) (d : CollDesc) : Except Stop (List Nat) :=
  if d.op = 6 then do
    need (seqMem s q d.cnt (8 * g.m)) .badAddress
    (List.range g.m).mapM (fun r => readLe s q (d.cnt + 4 * r) 4)
  else .ok []

/-- The checks of a COLL block of value `v`; answers the collective that binds. -/
def collCheck (s : Block) (q v : Nat) (useTs : TsUse) : Except Stop Coll := do
  let d := collDesc v
  let g := groupAt s d.gidx
  let depth := odNat s 0x8010 1
  need (!collReserved v) .malformed
  need (d.record == 0 || (d.record % 64 == 0 && seqMem s q d.record 64)) .badAddress
  need (d.stage % 4096 == 0 && seqMem s q d.stage d.stageSize) .badAddress
  need (g.state == 1 || g.state == 2) .groupState
  need (collShapeOk g d d.l) .collDesc
  let ins ← (List.range d.l).mapM (fun k => trefNeed s q (blkTref v (64 + 16 * k)) useTs false)
  let out ← trefNeed s q (blkTref v 128) useTs true
  need (collFormatsOk g d ins out) .collDesc
  need (collLayoutOk s q g d ins out) .layoutInvalid
  need (!collOverlap d ins out) .layoutOverlap
  need (decide (12 * depth * d.chunkBytes ≤ d.stageSize)) .stageShort
  let cnts ← readCounts s q g d
  return ⟨d.gidx, g.gid, g.collSeq, q - 528, true, v, depth, (List.range d.l).map (fun k => latchRef s q (blkTref v (64 + 16 * k))),
    latchRef s q (blkTref v 128), false, [], cnts, [], [], [], [], [], [], 0, 0, 0, false, [], false, none, false, [], 0, 0, [0, 0, 0]⟩

/-- The lines that the check reads beside the block. -/
def collPieces (s : Block) (q v : Nat) : List (Nat × Nat) :=
  let d := collDesc v
  let g := groupAt s d.gidx
  (((List.range 5).map (fun k => (bits (blkTref v (64 + 16 * k)) 0 48, 64))).filter (fun p =>
    p.1 != 0 && p.1 % 64 == 0 && rackPopulated s p.1)) ++
    (if d.op = 6 ∧ seqMem s q d.cnt (8 * g.m) then [(d.cnt, 8 * g.m)] else [])

/-- A context for a collective of a group: one that the group reserves (true), else one that no group reserves; none when none is
free (R380, R381). -/
def freeContext (s : Block) (gidx : Nat) : Option Bool :=
  if 0 < freeReserved s gidx then some true else if 0 < freeContexts s then some false else none

/-- Bind a checked collective to a context (R380). -/
def bindTo (s : Block) (c : Coll) (reserved : Bool) : Block :=
  let g := groupAt s c.gidx
  let s := groupPut s c.gidx { g with collSeq := (g.collSeq + 1) % 2 ^ 32 }
  let s := trussPublish { s with truss := { s.truss with colls := s.truss.colls ++ [{ c with reserved := reserved }] } }
  activateColl s c.gid c.seq

/-- Bind a checked collective, where a context is free. -/
def bindColl (s : Block) (c : Coll) : Option Block := (freeContext s c.gidx).map (bindTo s c)

/-- COLL begins: it waits for a context and completes as soon as it has bound one. -/
def beginColl (q : Nat) (s : Block) (c : CmdSlot) : Began :=
  let a := cmdBlock c.word
  if !seqMem s q a 192 then .stop s ⟨.badAddress, 0⟩
  else
    match operandWait s q 0 c [(a, 192)] [] with
    | some b => b
    | none =>
      match readLe s q a 192 with
      | .error e => .stop s e
      | .ok v =>
        match operandWait s q 0 c (collPieces s q v) [] with
        | some b => b
        | none =>
          match collCheck s q v .natural with
          | .error e => .stop s e
          | .ok x =>
            match freeContext s x.gidx with
            | some r => .go (bindTo (touchPieces s 0 ((a, 192) :: collPieces s q v)) x r) .ok true
            | none => .wait s

/-- COLL (R380). -/
def execColl (e : Fin 16) (s : State) : Host.Outcome State Fault Refusal := onBlock s fun s =>
  .next (startQueued s (trussSeq e) (fun w => cmdOpcode w == 0x28) (beginColl (trussSeq e)))

/-! ### Messages of a collective -/

/-- Take a message of a collective: the sender is checked (R393), a collective not yet bound keeps what may come early. -/
def onColl (s : Block) (h : TrussHdr) (early : Option EarlyMsg) (body : Group → Coll → Block) : Block :=
  let gid := h.gid.toNat
  let seq := h.collSeq.toNat
  let keep := match early with
    | some m => keepEarly s ⟨gid, seq, h.rank, m⟩
    | none => s
  if powerState s < 2 then s
  else
    match groupByGid s gid with
    | none => keep
    | some (_, g) =>
      if !knownMember s g h.rank then odBump s 0x6030 7 1
      else
        match collAt s gid seq with
        | none => if g.collSeq ≤ seq then keep else s
        | some c =>
          if !c.active && early.isSome && c.failed.isNone then keep
          else ledgerFlush (body g c)

/-- READY (R398, R411). -/
def execReady (h : TrussHdr) (pc : PieceId) (opsig : BitVec 32) (allow : Nat) (s : State) : Host.Outcome State Fault Refusal := onBlock s fun s =>
  .next (onColl s h (some (.ready pc opsig allow)) (fun g c =>
    if c.failed.isSome then s
    else if !g.istus && opsig != collOpsig c then orderMismatch s c
    else
      let l : Link3 := (h.rank, pc.hall, pc.down)
      let c1 := { c with ready := if c.ready.contains l then c.ready else c.ready ++ [l], allow := tset 0 c.allow h.rank (allow + 1) }
      advanceColl (collPut s c1) c.gid c.seq))

/-- COUNT (R400). -/
def execCount (h : TrussHdr) (entries : Nat) (s : State) : Host.Outcome State Fault Refusal := onBlock s fun s =>
  .next (onColl s h (some (.count entries)) (fun _ c =>
    if c.failed.isSome || (collD c).op ≠ 6 || !c.grants.isEmpty then s
    else advanceColl (grantAll (collPut s { c with counts := tset 0 c.counts h.rank (entries + 1) }) c.gid c.seq) c.gid c.seq))

/-! ### Chunks start (R389 to R391, R396) -/

/-- What a member reads of its inputs for one receiver: the first element, length, whether local inputs are summed. -/
def leafPart (g : Group) (c : Coll) (ch dst : Nat) : Nat × Nat :=
  let d := collD c
  if d.reduces then
    let sh := shardOf g c ch (dst % g.b)
    (collLo c ch + sh.1, sh.2)
  else if d.op = 6 then
    let before := (c.cnts.take dst).foldl (· + ·) 0
    ((before + collLo c ch) * entryElems c, entriesIn c ch (tget 0 c.allow dst - 1) * entryElems c)
  else (collLo c ch, collLen c ch)

/-- The bytes and form of a piece that this member forms from its inputs (R386, R390): one input as it stands, several summed
in ascending index. -/
def leafBytes (s : Block) (g : Group) (c : Coll) (ch dst : Nat) : Except Stop (PieceForm × List Byte × Ev) := do
  let q := collSeqId c
  let p := leafPart g c ch dst
  let k := collKind g c
  let f := inFmt c
  let raws ← (List.range (collD c).l).mapM (fun i => readRaw s q (collIn c i) p.1 p.2)
  need (!(collD c).reduces || !raws.any (istusBad f p.2)) .nonfinite
  match raws with
  | [bs] => return (rawForm (collVer0 g) f p.2, bs, ev0)
  | _ =>
    let vs := (List.range raws.length).map (fun i => leafSums k f (collIn c i).tscale p.2 (raws.getD i []))
    match vs with
    | [] => return (⟨k, 0, 0⟩, [], ev0)
    | v :: t =>
      let r := t.foldl (sumListEv k) v
      return (⟨k, 0, p.2⟩, partBytes k r.1, r.2)

/-- Receivers of the pieces that a chunk's start sends, this member among them: level, direction, rank. -/
def startTargets (g : Group) (c : Coll) : List Link3 :=
  let d := collD c
  if d.reduces then ((List.range g.b).map (fun i => (myBlock g * g.b + i, false, false)))
  else if d.op = 4 ∧ g.rank ≠ d.root then []
  else (List.range g.m).map (fun r => if r = g.rank then (r, false, d.op != 6) else directLink g (d.op != 6) r)

/-- A piece enters: this member's own contribution verifies at once, the others are queued. -/
def enterPiece (g : Group) (c : Coll) (ch : Nat) (l : Link3) (f : PieceForm) (bs : List Byte) : Coll :=
  let pid : PieceId := ⟨l.2.1, l.2.2, ch, 0⟩
  let ts := if blockScaled (inFmt c) && !isIstus (inFmt c) && f.wfmt == 0 then (collIn c 0).tscale else 0
  let used := if (collD c).op = 6 then f.n / entryElems c else 0
  let dropped := if (collD c).op = 6 then c.cnts.getD l.1 0 - (tget 0 c.allow l.1 - 1) else 0
  if f.n = 0 then c
  else if l.1 = g.rank then
    piecePut c ⟨pid, g.rank, bs, some (pieceHeader (collVer0 g) g.epoch (collOpsig c) f ts used dropped (collD c).l bs), true, 0⟩
  else queuePiece g c pid l.1 f ts used dropped (collD c).l bs ((collD c).l == 1)

/-- The module level starts a chunk: the inputs are read and the pieces formed. -/
def startModule (s : Block) (g : Group) (c : Coll) (ch : Nat) : Block :=
  let d := collD c
  let ts := startTargets g c
  let input := fun (i : Nat) => ts.flatMap (fun l =>
    let p := leafPart g c ch l.1
    rawPieces (collIn c i) p.1 p.2)
  let ps := (List.range d.l).flatMap input
  if !piecesFree s ps false then piecesAsk s ps false
  else
    let s1 := (List.range d.l).foldl (fun s i => touchPieces s (collIn c i).hint (input i)) s
    let r := ts.foldlM (fun (x : Coll × Ev) l => do
      let (f, bs, e) ← leafBytes s1 g c ch l.1
      pure (enterPiece g x.1 ch l f bs, evAdd x.2 e)) (c, ev0)
    match r with
    | .error e => failColl s1 c.gid c.seq (if e.st = .nonfinite then .nonfinite else .corruptSource) g.rank
    | .ok (c1, e) =>
      let c2 := { c1 with next := ch + 1, hallNext := if d.reduces then c1.hallNext else ch + 1 }
      advanceColl (collPut (countOther s1 (unitTruss c.engine) e) c2) c.gid c.seq

/-- Whether the module level may start its next chunk: the rack level has a free slot, and ALLTOALL knows its allowances
(R391, R400). -/
def moduleMay (g : Group) (c : Coll) : Bool :=
  decide (c.next < collChunks c) &&
    (if (collD c).reduces then decide (c.next < c.hallNext + c.depth) else decide (c.next < c.prog + c.depth)) &&
    ((collD c).op != 6 || (List.range g.m).all (fun r => tget 0 c.allow r != 0))

/-- Whether the hall level may start its next chunk: the rack sums are complete and a slot is free. -/
def hallMay (g : Group) (c : Coll) : Bool :=
  decide (c.hallNext < c.next) && decide (c.hallNext < c.prog + c.depth) && (rackSum g c c.hallNext).isSome

/-- CHUNK_START (R391): the module level starts its next chunk towards the rack level, or the rack level its next towards the
hall level; what goes down is sent as it becomes known. -/
def execChunkStart (gid collSeq : BitVec 32) (pc : PieceId) (s : State) : Host.Outcome State Fault Refusal := onBlock s fun s =>
  .next (match collAt s gid.toNat collSeq.toNat with
    | none => s
    | some c =>
      let g := groupAt s c.gidx
      if powerState s < 2 ∨ !c.active ∨ c.failed.isSome then s
      else if pc.down then ledgerFlush (advanceColl s c.gid c.seq)
      else if (collD c).reduces && pc.hall then
        if pc.chunk = c.hallNext ∧ hallMay g c then
          -- The rack sums of the chunk are complete: what they brought is counted here, once.
          let e := ((rackSums g c c.hallNext).map (·.2)).getD ev0
          ledgerFlush (advanceColl (collPut (countOther s (unitTruss c.engine) e) { c with hallNext := c.hallNext + 1 }) c.gid c.seq)
        else s
      else if pc.chunk = c.next ∧ moduleMay g c then ledgerFlush (startModule s g c pc.chunk)
      else s)

/-! ### Pieces arrive (R394, R397, R405) -/

/-- Lay bytes at an offset of a piece. -/
def layBytes (old : List Byte) (off : Nat) (d : List Byte) : List Byte :=
  padTo off (old.take off) ++ d ++ old.drop (off + d.length)

/-- CHUNK_DATA (R394): the data are written at OFF of a piece that is expected and has not verified. -/
def execChunkData (h : TrussHdr) (pc : PieceId) (off : Nat) (data : List Byte) (s : State) : Host.Outcome State Fault Refusal := onBlock s fun s =>
  .next (if !packetData data then discardPkt s else onColl s h none (fun g c =>
    match expectForm g c h.rank pc with
    | none => s
    | some f =>
      if (verifiedAt c h.rank pc).isSome ∨ c.failed.isSome ∨ roundUp 16 (formLen g.istus (pieceFmt c pc) f) < 16 * off + data.length then s
      else
        let p := (pieceAt c h.rank pc).getD ⟨pc, h.rank, [], none, false, 0⟩
        collPut s (piecePut c { p with bytes := layBytes p.bytes (16 * off) data })))

/-- Ask for a piece again, or fail at the re-send limit (R405). -/
def askResend (s : Block) (g : Group) (c : Coll) (src : Nat) (pid : PieceId) : Block :=
  let p := (pieceAt c src pid).getD ⟨pid, src, [], none, false, 0⟩
  if odNat s 0x8010 3 ≤ p.resends then failColl s c.gid c.seq .resendLimit src
  else
    let c1 := piecePut { c with resends := c.resends + 1 } { p with resends := p.resends + 1 }
    let s := trussEvent (odBump (collPut s c1) 0x8030 4 1) c 2 1
    sendCtl s g src c.seq (collReq c) ctlResend pid .ok 0
      (pid.chunk % 65536 + (if pid.hall then 3 else 2) * 65536 + (if pid.down then 262144 else 0))

/-- Whether a header is that of the expected piece and its CRC is right (R397). -/
def pieceGood (g : Group) (c : Coll) (pid : PieceId) (f : PieceForm) (h : ChunkHeader) (bs : List Byte) : Bool :=
  let data := padTo h.bytes (bs.take h.bytes)
  h.ver == (if g.istus then 0 else 1) && h.wfmt.toNat == f.wfmt && h.ifmt.toNat == f.ifmt &&
    h.bytes == formLen g.istus (pieceFmt c pid) f && h.crc.toNat == crc64 data &&
    (g.istus || (collD c).op != 6 || h.used == f.n / entryElems c)

/-- CHUNK_HEADER (R397): the piece is verified, then summed, forwarded, written and covered by PROG. -/
def execChunkHeader (h : TrussHdr) (pc : PieceId) (hd : ChunkHeader) (s : State) : Host.Outcome State Fault Refusal := onBlock s fun s =>
  let stale := fun (s : Block) => odBump s 0x8030 8 1
  .next (match collAt s h.gid.toNat h.collSeq.toNat with
    | none => if powerState s < 2 then s else stale s
    | some _ => onColl s h none (fun g c =>
      let epoch := if g.istus then g.epoch % 65536 else g.epoch
      if c.failed.isSome then s
      else if hd.epoch.toNat ≠ epoch ∨ (verifiedAt c h.rank pc).isSome then stale s
      else if !g.istus && hd.opsig != collOpsig c then orderMismatch s c
      else
        match expectForm g c h.rank pc with
        | none => stale s
        | some f =>
          let p := (pieceAt c h.rank pc).getD ⟨pc, h.rank, [], none, false, 0⟩
          if pieceGood g c pc f hd p.bytes then
            let data := padTo hd.bytes (p.bytes.take hd.bytes)
            let c1 := piecePut c { p with bytes := data, header := some hd, verified := true }
            if !pc.down && (collD c).reduces && istusBad (inFmt c) f.n data && g.istus then
              failColl (collPut s c1) c.gid c.seq .nonfinite g.rank
            else advanceColl (trussEvent (collPut s c1) c 1 1) c.gid c.seq
          else askResend s g c h.rank pc))

/-- PIECE_TIMEOUT (R405): an expected piece has not verified in time. -/
def execPieceTimeout (h : TrussHdr) (pc : PieceId) (s : State) : Host.Outcome State Fault Refusal := onBlock s fun s =>
  .next (onColl s h none (fun g c =>
    if c.active && c.failed.isNone && (expectForm g c h.rank pc).isSome && (verifiedAt c h.rank pc).isNone then
      askResend s g c h.rank pc
    else s))

/-- The sender's copy of a piece, read again: the input it was formed from, or its staged copy. Where the staging holds no copy,
because its slot had no room or has passed to a later chunk, the bytes kept with the piece are the copy (log 32). -/
def copyOf (s : Block) (g : Group) (c : Coll) (p : SentPiece) : Except Stop (List Byte) := do
  if p.leaf then
    let (_, bs, _) ← leafBytes s g c p.pid.chunk p.dst
    return bs
  else
    match stagePlace c p with
    | some a =>
      if stageTaken c p then return p.bytes
      readStop s (collSeqId c) a p.bytes.length
      return rackBytes s (collSeqId c) a p.bytes.length
    | none => return p.bytes

/-- RESEND (R405): the copy is read again and its CRC compared with the kept one. -/
def execResend (h : TrussHdr) (pc : PieceId) (s : State) : Host.Outcome State Fault Refusal := onBlock s fun s =>
  .next (onColl s h none (fun g c =>
    match c.sent.find? (fun p => p.dst == h.rank && p.pid == pc && p.gone) with
    | none => s
    | some p =>
      match copyOf s g c p with
      | .error _ => failColl s c.gid c.seq .corruptSource g.rank
      | .ok bs =>
        if crc64 bs = p.header.crc.toNat then
          let c1 := { c with resends := c.resends + 1 }
          sendPiece (trussEvent (odBump (collPut s c1) 0x8030 4 1) c 2 1) g c1 { p with bytes := bs }
        else failColl s c.gid c.seq .corruptSource g.rank))

/-! ### Failure messages (R406) -/

/-- Acknowledge a FAIL. -/
def ackFail (s : Block) (g : Group) (h : TrussHdr) : Block :=
  sendCtl s g h.rank h.collSeq.toNat (reqFor s h.gid.toNat h.collSeq.toNat) ctlAck (ctlPid g h.rank) .ok 0 0

/-- FAIL (R406): the first sets this member's status; each is acknowledged; from rank 0 it goes down the formation tree. -/
def execFail (h : TrussHdr) (st : Status) (subject : Nat) (s : State) : Host.Outcome State Fault Refusal := onBlock s fun s =>
  let gid := h.gid.toNat
  let seq := h.collSeq.toNat
  .next (if powerState s < 2 then s
    else
      match groupByGid s gid with
      | none => keepEarly s ⟨gid, seq, h.rank, .fail st subject⟩
      | some (_, g) =>
        if !knownMember s g h.rank then odBump s 0x6030 7 1
        else
          let s := ackFail s g h
          match collAt s gid seq with
          | none => if g.collSeq ≤ seq then keepEarly s ⟨gid, seq, h.rank, .fail st subject⟩ else s
          | some c =>
            let s := if c.failed.isNone then endFailed s c st subject else s
            match collAt s gid seq with
            | none => s
            | some x =>
              let s := if x.fwd then s
                else sendFails (collPut s { x with fwd := true }) g { x with fwd := true } st subject (treeChildren g.m g.rank)
              ledgerFlush (dropFailed s gid seq))

/-- TRUSS_ACK (R406). -/
def execTrussAck (h : TrussHdr) (s : State) : Host.Outcome State Fault Refusal := onBlock s fun s =>
  .next (onColl s h none (fun _ c =>
    dropFailed (collPut s { c with acks := c.acks.filter (fun r => r != h.rank) }) c.gid c.seq))

/-- FAIL_ACK_TIMEOUT (R406): the FAIL goes to the silent child's children; when rank 0 is silent, to ranks 1 to 8. -/
def execFailAckTimeout (gid collSeq : BitVec 32) (child : Nat) (s : State) : Host.Outcome State Fault Refusal := onBlock s fun s =>
  .next (match collAt s gid.toNat collSeq.toNat with
    | none => s
    | some c =>
      let g := groupAt s c.gidx
      match c.failed with
      | none => s
      | some (st, sub) =>
        if !c.acks.contains child then s
        else
          let c1 := { c with acks := c.acks.filter (fun r => r != child), fwd := c.fwd || child == 0 }
          dropFailed (sendFails (collPut s c1) g c1 st sub (treeChildren g.m child)) c.gid c.seq)

/-! ### Lost members (R408, R409) -/

/-- PROBE (R408): answered with the home epoch. -/
def execProbe (h : TrussHdr) (s : State) : Host.Outcome State Fault Refusal := onBlock s fun s =>
  .next (if powerState s < 2 then s
    else
      match groupByGid s h.gid.toNat with
      | none => s
      | some (_, g) =>
        if !knownMember s g h.rank then odBump s 0x6030 7 1
        else sendCtl s g h.rank h.collSeq.toNat (reqFor s h.gid.toNat h.collSeq.toNat) ctlProbeAnswer (ctlPid g h.rank) .ok 0 (homeEpoch s))

/-- PROBE_ANSWER (R408): a home epoch other than the recorded one means that the peer is lost. An epoch not yet recorded is
recorded (log 33). -/
def execProbeAnswer (h : TrussHdr) (epoch : BitVec 32) (s : State) : Host.Outcome State Fault Refusal := onBlock s fun s =>
  .next (if powerState s < 2 then s
    else
      match groupByGid s h.gid.toNat with
      | none => s
      | some (k, g) =>
        if !knownMember s g h.rank then odBump s 0x6030 7 1
        else
          let old := tget 0 g.epochs h.rank
          if old ≠ 0 ∧ old ≠ epoch.toNat + 1 then ledgerFlush (loseMember s k h.rank)
          else groupPut s k { g with epochs := tset 0 g.epochs h.rank (epoch.toNat + 1), probes := tset 0 g.probes h.rank 0 })

/-- MEMBER_TIMEOUT (R408): an awaited peer is probed; it is lost after three probes without answer, or when no plane reaches
it. -/
def execMemberTimeout (h : TrussHdr) (s : State) : Host.Outcome State Fault Refusal := onBlock s fun s =>
  .next (if powerState s < 2 then s
    else
      match groupByGid s h.gid.toNat with
      | none => s
      | some (k, g) =>
        let forming := g.state == 1 && ((treeChildren g.m g.rank).contains h.rank || (g.rank != 0 && h.rank == treeParent g.rank))
        let waits := match collAt s h.gid.toNat h.collSeq.toNat with
          | some c => c.active && c.failed.isNone && (awaitedRanks g c).contains h.rank
          | none => false
        if !(forming || waits) || h.rank == g.rank then s
        else if (memberPlane s (memberAt g h.rank) 0).isNone ∨ 3 ≤ tget 0 g.probes h.rank then ledgerFlush (loseMember s k h.rank)
        else
          let s := groupPut s k { g with probes := tset 0 g.probes h.rank (tget 0 g.probes h.rank + 1) }
          sendCtl s g h.rank h.collSeq.toNat (reqFor s h.gid.toNat h.collSeq.toNat) ctlProbe (ctlPid g h.rank) .ok 0 0)

/-! ### The completion wave (R402) -/

/-- DONE_UP: a child and everything below it is done. -/
def takeDoneUp (h : TrussHdr) (s : Block) : Block × Option Coll :=
  match collAt s h.gid.toNat h.collSeq.toNat with
  | none => (s, none)
  | some c =>
    let g := groupAt s c.gidx
    if c.failed.isSome || !(treeChildren g.m g.rank).contains h.rank || c.doneUps.contains h.rank then (s, none)
    else checkUp (collPut s { c with doneUps := c.doneUps ++ [h.rank] }) c.gid c.seq

/-- Whether DONE_DOWN ends the collective of a header at this member. -/
def takeDoneDown (h : TrussHdr) (s : Block) : Option Coll :=
  match collAt s h.gid.toNat h.collSeq.toNat with
  | some c => if c.failed.isNone && c.upSent && (groupAt s c.gidx).rank != 0 then some c else none
  | none => none

/-- DONE_UP (R402). -/
def execDoneUp (h : TrussHdr) (s : State) : Host.Outcome State Fault Refusal := onBlock s fun s =>
  .next (onColl s h (some .doneUp) (fun _ _ => (takeDoneUp h s).1))

/-- DONE_DOWN (R402). -/
def execDoneDown (h : TrussHdr) (s : State) : Host.Outcome State Fault Refusal := onBlock s fun s =>
  .next (onColl s h none (fun _ _ => match takeDoneDown h s with
    | some c => finishColl s c
    | none => s))

/-! ### COWNRSP for an engine (R404) -/

/-- Collectives of an engine whose regions are asked for. -/
def ownerColls (s : Block) (unit region : Nat) : List Coll :=
  (liveColls s).filter (fun c => 16 + c.engine == unit && (collRegions (groupAt s c.gidx) c).contains region)

/-- An acquisition of an engine ends: its collectives go on, or fail with ST_REGION_OWNED. -/
def engineOwned (s : Block) (r : OwnReq) (st : Status) : Block :=
  if st = .ok then (ownerColls s r.unit r.region).foldl (fun s c => advanceColl s c.gid c.seq) s
  else (ownerColls s r.unit r.region).foldl (fun s c => failColl s c.gid c.seq .regionOwned (groupAt s c.gidx).rank) s

/-- COWNRSP (R351, R352, R354, R355): the answer to a ping, or the end of an acquisition or release of this module's own
unit, whose hart may then read OWN_RESULT. -/
def execCownrsp (home : SlotId) (tid : BitVec 16) (st : Status) (epoch : BitVec 32) (s : State) : Host.Outcome State Fault Refusal := onBlock s fun s =>
  .next (if !peerOk s home then odBump s 0x6030 7 1
    else if tget 0 s.own.pinged tid.toNat = home.val + 1 then
      let s := { s with own := { s.own with pings := tset 0 s.own.pings home 0, pinged := tset 0 s.own.pinged tid.toNat 0 } }
      if st = .ok then ledgerFlush (forceRelease s (fun e => e.oslot == home.val && e.oepoch != epoch.toNat)) else s
    else
      match s.own.mine.find? (fun r => r.tid == tid.toNat && r.slot == home.val && !r.held) with
      | none => discardPkt s
      | some r =>
        let others := s.own.mine.filter (fun y => y != r)
        let left := if st ≠ .ok then others
          else if r.release then others.filter (fun y => !(y.slot == r.slot && y.region == r.region && y.unit == r.unit))
          else others ++ [{ r with held := true }]
        let s := { s with own := { s.own with mine := left } }
        match r.hart with
        | none => ledgerFlush (engineOwned s r st)
        | some h =>
          let k := hartAt s h
          hartPut s h { k with ownResult := st, blocked := if k.blocked = some .owning then none else k.blocked })

/-! ### Resets, disables and the passing of time -/

/-- An engine's collectives end because the engine was reset, or every engine is disabled: each sends FAIL that names this
member (R410). -/
def loseEngine (s : Block) (p : Coll → Bool) : Block :=
  ((liveColls s).filter p).foldl (fun s c => failColl s c.gid c.seq .memberLost (groupAt s c.gidx).rank) s

/-- What each level of a collective waits for in this cycle (R391): the module level for a slot of the rack level, the rack
level for one of the hall level. -/
def stalledLevels (g : Group) (c : Coll) : List Nat :=
  if !c.active || c.failed.isSome then [0, 0, 0]
  else if (collD c).reduces then
    [if c.next < collChunks c ∧ c.hallNext + c.depth ≤ c.next then 1 else 0,
     if c.hallNext < c.next ∧ c.prog + c.depth ≤ c.hallNext ∧ (rackSum g c c.hallNext).isSome then 1 else 0, 0]
  else [if c.next < collChunks c ∧ c.prog + c.depth ≤ c.next then 1 else 0, 0, 0]

/-- One clk600 cycle of Truss: stall counts, and what waited for free lines. -/
def trussTick (s : Block) : Block :=
  s.truss.colls.foldl (fun s c =>
    let g := groupAt s c.gidx
    let w := stalledLevels g c
    let c1 := { c with stalls := (List.range 3).map (fun i => c.stalls.getD i 0 + w.getD i 0) }
    let s := if w = [0, 0, 0] then s
      else trussEvent ((List.range 3).foldl (fun s i => if w.getD i 0 = 0 then s else odBump s 0x8030 (i + 1) 1) (collPut s c1)) c 3
        (w.foldl (· + ·) 0)
    advanceColl s c.gid c.seq) s

end Sys2Proof.Machine
end

