-- ==== Sys2Proof/Machine/Barriers.lean ====
section
/-! DEFINITION. Barriers and the step counter (R427 to R431), the ledger's steps (R439 to R441), scribe exchanges (R437,
R438). -/

namespace Sys2Proof.Machine

open Sys2Proof

/-! ### Steps of the ledger (R440, R441) -/

/-- The settings that a step records: OD 0x5110.01 to 0x5110.14 and 0x5120.01, 0x5120.02, as stored. -/
def settingsBytes (s : Block) : List Byte :=
  (List.range 20).flatMap (fun k => natLe 8 (odNat s 0x5110 (k + 1))) ++ natLe 8 (odNat s 0x5120 1) ++ natLe 8 (odNat s 0x5120 2)

/-- KEEP_EFFECTIVE, STRICT and REPLAY, a byte each. -/
def modeBytes (s : Block) : List Byte :=
  natLe 1 (odNat s 0x4310 2) ++ natLe 1 (odNat s 0x9000 1) ++ natLe 1 (odNat s 0x9000 6)

/-- One SWATCH entry for each LAYER of the step (R425, R441), compared with the recorded ledger of a replay (R444). -/
def closeSwatch (s : Block) (a : SwatchAcc) : Block :=
  let s := ledgerPut s 5 (natLe 4 a.layer ++ natLe 4 0 ++ natLe 8 a.elems ++ natLe 8 a.sum ++ natLe 8 0)
  compareSwatch s a.step.toNat a.layer a.sum

/-- The open step closes: its swatches, then STEP_CLOSE with the count and CRC of its entries before it. -/
def closeStep (s : Block) : Block :=
  if !s.ledger.isOpen then s
  else
    let s := s.ledger.swatches.foldl closeSwatch s
    let n := s.ledger.entries
    let crc := s.ledger.crc ^^^ (2 ^ 64 - 1)
    let s := ledgerPut s 8 (natLe 4 n ++ natLe 4 0 ++ natLe 8 crc)
    { s with ledger := { s.ledger with isOpen := false, swatches := [] } }

/-- Groups whose epoch differs from the last recorded one. -/
def recordEpochs (s : Block) : Block :=
  s.truss.groups.foldl (fun s e =>
    let g := e.2
    if g.state = 0 ∨ tget 0 s.ledger.epochs g.gid = g.epoch + 1 then s
    else
      let s := ledgerPut s 4 (natLe 4 g.gid ++ natLe 4 g.epoch ++ natLe 4 g.m ++ natLe 4 0)
      { s with ledger := { s.ledger with epochs := tset 0 s.ledger.epochs g.gid (g.epoch + 1) } }) s

/-- The record of the step in the step counter opens: STEP_OPEN, SETTINGS when they differ from those last recorded, EPOCH. -/
def openStep (s : Block) (trel : Word) : Block :=
  let set := settingsBytes s
  let crc : Word := BitVec.ofNat 64 (crc64 set)
  let s := { s with ledger := { s.ledger with
      isOpen := true, step := BitVec.ofNat 64 (stepCounter s), entries := 0, crc := crcInit, swatches := [], capOff := false } }
  let s := ledgerPut s 1 (natLe 8 trel.toNat ++ natLe 8 (odNat s 0x9000 2) ++ modeBytes s ++ natLe 5 0 ++ natLe 8 crc.toNat)
  let s := if s.ledger.settings = some crc then s
    else
      let s := ledgerPut s 10 set
      { s with ledger := { s.ledger with settings := some crc } }
  recordEpochs s

/-! ### Releases (R428) -/

/-- Scribe compares from the step barrier release after its partner, another module of the bay, is set (R435). -/
def scribeStart (s : Block) : Block :=
  let p := odNat s 0x9200 1
  if s.scribe.on ∨ !sameBay s p ∨ p = ownSlot s ∨ !peerOk s p then s
  else
    let sc := { s.scribe with on := true, running := [], counts := [], rings := [], heldCmp := [], silent := 0, mismatch := false, culprit := 0 }
    odPut { s with scribe := sc } 0x9200 5 1

/-- What a step barrier's release does beside GEN and RELEASE: N := N + 1, the keep mode, the ledger's records, an armed sketch,
scribe; strict tags belong to a step (R136, R419, R428, R435, R454). -/
def stepRelease (s : Block) (trel : Word) : Block :=
  let s := odModule s 0x9000 3 ((stepCounter s + 1) % 2 ^ 64)
  let s := keepApply (closeStep s)
  let set := natLe 8 (odNat s 0x9000 2) ++ modeBytes s ++ natLe 5 0 ++ natLe 8 (crc64 (settingsBytes s))
  let s := openStep s trel
  let s := { s with fab := { s.fab with tags := [] } }
  let sk := match s.sketch.gen with
    | some g => if g.phase == GenPhase.armed then { s.sketch with gen := some { g with phase := .copying, settings := set } } else s.sketch
    | none => s.sketch
  let s := { s with sketch := { sk with lastTrel := trel } }
  let s := match s.sketch.gen with
    | some g => if g.phase == GenPhase.copying && odNat s 0xA000 2 == 2 then odPut s 0xA000 2 3 else s
    | none => s
  scribeStart s

/-- Whether the ledger holds back a step barrier's release: entries wait for space under HOLD (R442). -/
def ledgerHolds (s : Block) : Bool := !s.ledger.waiting.isEmpty && odNat s 0x9300 4 != 1

/-- Whether a barrier's TREL has come and, for the step barrier, a sketch has armed and the change log takes the record of
STEP_COUNTER (R428, R454, R503). -/
def releaseDue (s : Block) (b : Nat) : Bool :=
  let x := barrierAt s b
  match x.release with
  | none => false
  | some t =>
    decide (t.toNat ≤ hallNat s) &&
      (!barrierStep x || ((match s.sketch.gen with | some g => g.phase != .arming | none => true) && !chlogFull s))

/-- Whether a release may take place: it is due, and the ring takes the ledger's entries or gives old ones up (R442). -/
def releaseMay (s : Block) (b : Nat) : Bool := releaseDue s b && (!barrierStep (barrierAt s b) || !ledgerHolds s)

/-- The time from which the ledger holds the release back. -/
def noteHeld (s : Block) (b : Nat) : Block :=
  if releaseDue s b && s.ledger.heldSince.isNone then { s with ledger := { s.ledger with heldSince := some (hallNow s) } } else s

/-- The held time is counted in OD 0x9300.06 (R442). -/
def countHeld (s : Block) : Block :=
  match s.ledger.heldSince with
  | some t => odBump { s with ledger := { s.ledger with heldSince := none } } 0x9300 6 (hallNat s - t.toNat)
  | none => s

/-- The release: GEN + 1, TREL, the step's part, and ADD 1 to RELEASE. Arrivals of the released generation are forgotten; a
member whose parties have arrived again arrives at once. -/
def barrierRelease (s : Block) (b : Nat) : Block :=
  let x := barrierAt s b
  let t := x.release.getD 0
  let old := (barrierGen10 x).toNat
  let x1 := { x with gen := x.gen + 1, trel := t, arrived := none, release := none, children := x.children.filter (fun k => k / 2 ^ 20 != old) }
  let s := countEvent (barrierPut s b x1) unitTime 1 1
  let s := if barrierStep x then stepRelease (countHeld s) t else s
  let s := signalAdd s (barrierReleaseObj x) 1
  barrierCount s (barrierArriveObj x) b

/-- The barrier whose packets name a group and generation. -/
def barrierByGid (s : Block) (gid : Nat) : Option (Nat × BarrierSt) :=
  s.barriers.find? (fun e => barrierEn e.2 && (let g := groupAt s (barrierGidx e.2); g.state != 0 && g.gid == gid))

/-- BARRIER_ARRIVE (R428): a child's arrival counts for the generation it names. -/
def execBarrierArrive (gid : BitVec 32) (rank : Nat) (gen10 : BitVec 10) (s : State) : Host.Outcome State Fault Refusal := onBlock s fun s =>
  .next (match barrierByGid s gid.toNat with
    | none => s
    | some (b, x) =>
      let g := groupAt s (barrierGidx x)
      let k := arrivalKey gen10 rank
      if !(treeChildren g.m g.rank).contains rank ∨ x.children.contains k then s
      else if !knownMember s g rank then odBump s 0x6030 7 1
      else ledgerFlush (barrierUp (barrierPut s b { x with children := x.children ++ [k] }) b))

/-- BARRIER_RELEASE (R428, R430, R454): forwarded down the tree; a RELEASE after its TREL is counted and releases at once. -/
def execBarrierRelease (gid : BitVec 32) (gen10 : BitVec 10) (trel : Word) (s : State) : Host.Outcome State Fault Refusal := onBlock s fun s =>
  .next (match barrierByGid s gid.toNat with
    | none => s
    | some (b, x) =>
      if x.arrived.isNone ∨ x.release.isSome ∨ gen10 ≠ barrierGen10 x then s
      else
        let s := barrierReleaseSet s b trel
        if trel.toNat < hallNat s then
          let s := countEvent (odBump s 0x9000 7 1) unitTime 2 1
          ledgerFlush (if releaseMay s b then barrierRelease s b else noteHeld s b)
        else ledgerFlush s)

/-- BARRIER_TREL_REACHED (R428). -/
def execBarrierTrelReached (b : Fin 256) (s : State) : Host.Outcome State Fault Refusal := onBlock s fun s =>
  .next (if releaseMay s b then ledgerFlush (barrierRelease s b) else noteHeld s b)

/-- A generation that armed for a release which does not take place is dropped, and its waiting requests are applied. -/
def dropArming (s : Block) : Block :=
  match s.sketch.gen with
  | some g =>
    if g.phase = .arming ∨ g.phase = .armed then
      drainAll (odPut { s with sketch := { s.sketch with gen := none } } 0xA000 2 1)
    else s
  | none => s

/-- BARRIER_TIMEOUT (R431, R334): a member that has arrived and is not released within the limit ends the generation; its GEN is
unchanged. -/
def execBarrierTimeout (b : Fin 256) (s : State) : Host.Outcome State Fault Refusal := onBlock s fun s =>
  let x := barrierAt s b
  .next (match x.arrived with
    | none => s
    | some t =>
      if !barrierEn x ∨ hallNat s - t.toNat < 1000 * odNat s 0x6020 3 then s
      else
        let old := (barrierGen10 x).toNat
        let s := barrierPut s b { x with arrived := none, release := none, children := x.children.filter (fun k => k / 2 ^ 20 != old) }
        let s := if barrierStep x then dropArming (countHeld s) else s
        ledgerFlush (abortObj s (barrierReleaseObj x)))

/-! ### Scribe exchanges (R437, R438) -/

/-- The newest checkpoint of each requester that has one. -/
def scribeNewest (s : Block) : List (Nat × Nat × Word) :=
  (List.range 112).filterMap (fun r =>
    ((tget [] s.scribe.rings r).find? (fun e => e.1 == checkpoint s r)).map (fun e => (r, e.1, e.2)))

/-- The halt: a FAULT entry names the requester and checkpoint, every stream stops with ST_SCRIBE_HALT, and the cores are held. -/
def scribeHalt (s : Block) : Block :=
  let s := ledgerFault s .scribeHalt unitNone s.scribe.culprit
  let s := (s.seqs.map (·.1)).foldl (fun s q => faultStream s q .scribeHalt false) s
  let s := (List.range 96).foldl (fun s h => hartPut s h { hartAt s h with held := true }) s
  odPut { s with scribe := { s.scribe with on := false } } 0x9200 5 4

/-- SCRIBE_EXCHANGE_DUE (R437): the newest checkpoints go to the partner; with a mismatch known, the module halts. -/
def execScribeExchangeDue (s : State) : Host.Outcome State Fault Refusal := onBlock s fun s =>
  .next (if !s.scribe.on then s
    else
      let n := s.scribe.exch
      let s1 := emit { s with scribe := { s.scribe with exch := n + 1, silent := s.scribe.silent + 1 } }
        (.scribe (odNat s 0x9200 1) n (scribeNewest s) s.scribe.mismatch)
      if s.scribe.mismatch then ledgerFlush (scribeHalt s1) else s1)

/-- One digest of the partner against this module's ring: held while its checkpoint is not reached, unchecked when it has left
the ring. Answers whether it was unchecked. -/
def scribeCompare (acc : Block × Bool) (e : Nat × BitVec 32 × Word) : Block × Bool :=
  let s := acc.1
  let r := e.1
  let k := e.2.1.toNat
  if k = 0 ∨ 112 ≤ r then acc
  else if checkpoint s r < k then
    let held := (tget [] s.scribe.heldCmp r).filter (fun x => x.1 != k) ++ [(k, e.2.2)]
    ({ s with scribe := { s.scribe with heldCmp := tset [] s.scribe.heldCmp r held } }, acc.2)
  else
    match (tget [] s.scribe.rings r).find? (fun x => x.1 == k) with
    | some x => (if x.2 = e.2.2 then s else scribeMismatch s r k, acc.2)
    | none => (odBump s 0x9200 6 1, true)

/-- SCRIBE (R437): an exchange of the partner arrives. -/
def execScribe (exch : BitVec 32) (entries : List (Nat × BitVec 32 × Word)) (mismatch : Bool) (s : State) :
    Host.Outcome State Fault Refusal := onBlock s fun s =>
  .next (if 112 < entries.length then discardPkt s
    else if !s.scribe.on then s
    else
      let s := { s with scribe := { s.scribe with silent := 0, mismatch := s.scribe.mismatch || mismatch } }
      let (s, lag) := entries.foldl scribeCompare (s, false)
      if lag then ledgerFlush (raiseAlarm (odPut s 0x9200 5 2) 0x0F unitNone .ok exch.toNat)
      else ledgerFlush (if odNat s 0x9200 5 = 3 then odPut s 0x9200 5 1 else s))

/-- SCRIBE_LOST (R438): no exchange for four periods. -/
def execScribeLost (s : State) : Host.Outcome State Fault Refusal := onBlock s fun s =>
  .next (if s.scribe.on ∧ 4 ≤ s.scribe.silent ∧ odNat s 0x9200 5 ≠ 3 then
      ledgerFlush (raiseAlarm (odPut s 0x9200 5 3) 0x0F unitNone .ok 0)
    else s)

/-! ### Export of the ledger (R442) -/

/-- Ring space of the entries below the oldest unexported SEQ is freed: `lens` lists the entries in the ring, the last of them
with SEQ `seq − 1` before those that still wait. -/
def ledgerExport (s : Block) (seq : Nat) : Block :=
  let placed := s.ledger.seq - s.ledger.waiting.length
  let first := placed - s.ledger.lens.length
  let k := (seq + 2 ^ 32 - first % 2 ^ 32) % 2 ^ 32
  if s.ledger.lens.length < k then s
  else ledgerFlush { s with ledger := { s.ledger with lens := s.ledger.lens.drop k } }

end Sys2Proof.Machine
end

