-- ==== Sys2Proof/Machine/Auth.lean ====
section
/-! DEFINITION. Certificates as the module keeps them (R492, R559): anchors, the time against which validity is checked, the
identity certificate. -/

namespace Sys2Proof.Machine

open Sys2Proof

/-- Bytes of the DER value at the front of a zero-padded entry. -/
def derLen (bs : List Byte) : Nat :=
  let b := fun (k : Nat) => (bs.getD k 0).toNat
  if b 1 < 0x80 then 2 + b 1
  else if b 1 = 0x81 then 3 + b 2
  else if b 1 = 0x82 then 4 + 256 * b 2 + b 3
  else bs.length

/-- The bytes of an entry. -/
def odBytes (s : Block) (index sub : Nat) : List Byte := natLe (odLen index sub) (odNat s index sub)

/-- The certificate that a zero-padded entry holds. -/
def certAt (s : Block) (index sub : Nat) : List Byte :=
  let bs := odBytes s index sub
  bs.take (derLen bs)

/-- The identity certificate (R492). -/
def identityCert (s : Block) : List Byte := certAt s 0xC000 1

/-- Anchors with one of the given ANCHOR_USE bits (R559). -/
def anchorsFor (s : Block) (mask : Nat) : List (List Byte) :=
  ((List.range 8).filter (fun k => odNat s 0xC010 (k + 1) != 0 && (odNat s 0xC011 (k + 1) &&& mask) != 0)).map (fun k =>
    certAt s 0xC010 (k + 1))

/-- The time for validity checks: hall time, or while TIME_STATE is UNSET the hall time last saved (R559). -/
def certTime (s : Block) : Nat := if odNat s 0x9400 2 = 0 then s.time.savedHall.toNat else hallNat s

end Sys2Proof.Machine
end

