-- ==== Sys2Proof/Machine/Transport.lean ====
section
/-! DEFINITION. The Ethernet transport (R496 to R500) and the INPUT and CAPTURE entries of the ledger (R441, R442). -/

namespace Sys2Proof.Machine

open Sys2Proof

/-! ### Flow entries (R496) -/

def flow0 : FlowSt := ⟨0, [], [], 0, 0, 0, 0, 0, 0, 0, 0, 0, [], [], none, 0⟩
def flowAt (s : Block) (f : Nat) : FlowSt := tget flow0 s.flows f
def flowPut (s : Block) (f : Nat) (x : FlowSt) : Block := { s with flows := tset flow0 s.flows f x }

/-- The entry of a flow: OD 0x7101.01 for flow 0, else OD 0x7100. -/
def flowEntry (s : Block) (f : Nat) : Nat := if f = 0 then odNat s 0x7101 1 else odNat s 0x7100 f
def flowOn (e : Nat) : Bool := bit e 0
def flowOut (e : Nat) : Bool := bit e 1
def flowPortSel (e : Nat) : Nat := bits e 2 2
def flowPeerPort (e : Nat) : Nat := bits e 16 16
def flowPeerFlow (e : Nat) : Nat := bits e 32 16
def flowPeerAddr (e : Nat) : Nat := bits e 64 128
def flowRing (e : Nat) : Nat := bits e 192 48
def flowRingSize (e : Nat) : Nat := 2 ^ bits e 240 6
def flowMsgObj (e : Nat) : Nat := bits e 256 14
def flowDoneObj (e : Nat) : Nat := bits e 272 14
def flowConsumedAt (e : Nat) : Nat := bits e 288 48

/-- An enabled flow with every field of R496 in its range. -/
def flowEntryOk (e : Nat) : Bool :=
  !flowOn e ||
    (flowPortSel e != 3 && flowRing e % 4096 == 0 && decide (16 ≤ bits e 240 6) && decide (bits e 240 6 ≤ 36) &&
      inHbm (flowRing e) (flowRingSize e) &&
      (if flowOut e then flowConsumedAt e == 0
       else flowPeerFlow e == 0 && flowDoneObj e == 0 && flowConsumedAt e % 8 == 0 && inHbm (flowConsumedAt e) 8))

/-- Port of a message (R496). -/
def flowPort (e k : Nat) : Nat := if flowPortSel e = 2 then k % 2 else flowPortSel e

/-- A flow ends: incomplete messages are abandoned, the ending is counted, and its object is aborted (R496). -/
def flowEnd (s : Block) (f e : Nat) : Block :=
  abortObj (odBump (flowPut s f flow0) 0x7020 2 1) (if flowOut e then flowDoneObj e else flowMsgObj e)

/-- A failed flow takes EN = 0 (R498). -/
def flowFail (s : Block) (f : Nat) : Block :=
  let e := flowEntry s f
  if f = 0 then odBump (flowPut (odPut s 0x7101 1 (setBit e 0 false)) 0 flow0) 0x7020 2 1
  else flowEnd (odModule s 0x7100 f (setBit e 0 false)) f e

/-! ### Sending (R498, R500) -/

/-- Bytes a DATA segment carries at most. -/
def segMax (s : Block) : Nat := odNat s 0x7000 6 - 80

/-- A message as segments. -/
def cutMessage (mtu msg total : Nat) : Nat → Nat → Nat → List Byte → List SentSeg
  | 0, _, _, _ => []
  | fuel + 1, seg, off, bs =>
    if bs.isEmpty then []
    else ⟨seg, msg, off, total, bs.take mtu, 0⟩ :: cutMessage mtu msg total fuel (seg + 1) (off + mtu) (bs.drop mtu)

/-- Bytes outstanding. -/
def flowBytes (x : FlowSt) : Nat := (x.unacked.map (fun g => g.data.length)).foldl (· + ·) 0

/-- Whether an Ethernet port is UP: a port that is not sends and takes no frame (R506, R508). -/
def ethUp (s : Block) (p : Nat) : Bool := odByte s 0x7000 1 p == 2

/-- Send a segment on its message's port. -/
def segOut (s : Block) (f : Nat) (g : SentSeg) : Block :=
  let e := flowEntry s f
  let p := flowPort e g.msg
  if !ethUp s p then s else emit (countEvent s (unitEth p) 1 1) (.segment (flowPeerFlow e) p g)

/-- Send what the credit allows: 65,536 bytes before the first ACK, then the latest CREDIT (R498). -/
def flowPump (f : Nat) : Nat → Block → Block
  | 0, s => s
  | fuel + 1, s =>
    let x := flowAt s f
    match x.backlog with
    | [] => s
    | g :: t =>
      if flowBytes x + g.data.length ≤ x.credit.getD 65536 then
        flowPump f fuel (segOut (flowPut s f { x with backlog := t, unacked := x.unacked ++ [g] }) f g)
      else s

def flowSend (s : Block) (f : Nat) : Block := flowPump f ((flowAt s f).backlog.length + 1) s

/-- Hand a message to a flow (R500). -/
def flowMessage (s : Block) (f : Nat) (bs : List Byte) : Block :=
  let x := flowAt s f
  let segs := cutMessage (segMax s) x.txMsg bs.length (bs.length + 1) x.txSeg 0 bs
  flowSend (flowPut s f { x with txSeg := x.txSeg + segs.length, txMsg := x.txMsg + 1, backlog := x.backlog ++ segs }) f

/-- Bytes of a ring from an absolute place, in runs that do not cross its end. -/
def ringRuns (e place n : Nat) : List (Nat × Nat) :=
  let size := flowRingSize e
  let off := place % size
  let first := min n (size - off)
  (flowRing e + off, first) :: (if first < n then [(flowRing e, n - first)] else [])

def ringRead (s : Block) (e place n : Nat) : List Byte := (ringRuns e place n).flatMap (fun r => memRead s r.1 r.2)

/-- TRANSPORT_SEND_RECORD (R500): record k is read once MSGOBJ counts k + 1. A record of no length, or of more than 2^24 bytes,
is no message and is not sent. -/
def execTransportSendRecord (f : Fin 256) (s : State) : Host.Outcome State Fault Refusal := onBlock s fun s =>
  let e := flowEntry s f
  let x := flowAt s f
  .next (if f = 0 ∨ powerState s < 2 ∨ !flowOn e ∨ !flowOut e ∨ (syncAt s (flowMsgObj e)).count.toNat ≤ x.txMsg ∨ !x.backlog.isEmpty then s
    else
      let n := leNat (ringRead s e x.txPtr 4)
      let runs := ringRuns e x.txPtr (64 + n)
      if n = 0 ∨ 2 ^ 24 < n ∨ flowRingSize e < 64 + n then s
      else if runs.any (fun r => (accessStatus s none .read r.1 r.2).isSome) then s
      else if !runs.all (fun r => unitFree s r.1 r.2 false) then runs.foldl (fun s r => unitAsk s r.1 r.2 false) s
      else
        let bs := (ringRead s e x.txPtr (64 + n)).drop 64
        flowMessage (flowPut s f { x with txPtr := x.txPtr + 64 + roundUp 64 n }) f bs)

/-- A segment is covered by an ACK's next SEG and SACK. -/
def segCovered (next : Nat) (sack : Word) (seg : Nat) : Bool :=
  let d := (seg % 2 ^ 32 + 2 ^ 32 - next) % 2 ^ 32
  decide (2 ^ 31 ≤ d) || (decide (1 ≤ d) && decide (d ≤ 64) && bit sack.toNat (d - 1))

/-- Whether a segment belongs to a flow's peer (R497). -/
def fromPeer (e : Nat) (g : Segment) : Bool :=
  g.magicOk && g.srcAddr.toNat == flowPeerAddr e && g.srcPort.toNat == flowPeerPort e

/-- An ACK at the sender: covered segments leave, CREDIT and MDONE are taken. Answers how many more messages the peer has
completed (R498). -/
def takeAck (s : Block) (g : Segment) : Option (Block × Nat) :=
  let e := flowEntry s g.flow
  if powerState s < 2 ∨ 256 ≤ g.flow ∨ !flowOn e ∨ !flowOut e ∨ !fromPeer e g then none
  else
    let x := flowAt s g.flow
    let more := (g.msg.toNat + 2 ^ 32 - x.peerDone % 2 ^ 32) % 2 ^ 32
    let more := if x.txMsg < x.peerDone + more then 0 else more
    let x1 := { x with unacked := x.unacked.filter (fun y => !segCovered g.seg.toNat g.sack y.seg), credit := some g.total.toNat,
                       peerDone := x.peerDone + more }
    some (flowSend (flowPut (countEvent s (unitEth g.port) 2 1) g.flow x1) g.flow, more)

/-- A segment that is not for an enabled flow of its direction, or not from its peer (R497). -/
def discardSegment (s : Block) : Block := if powerState s < 2 then s else odBump s 0x7020 1 1

/-- A segment is sent again, or its flow fails after TRANSPORT_RETRIES. Answers whether the flow failed (R498). -/
def takeRto (s : Block) (f seg : Nat) : Block × Bool :=
  let x := flowAt s f
  match x.unacked.find? (fun g => g.seg % 2 ^ 32 == seg) with
  | none => (s, false)
  | some g =>
    if !flowOn (flowEntry s f) then (s, false)
    else if odNat s 0x7010 2 ≤ g.resends then (flowFail s f, true)
    else
      let g1 := { g with resends := g.resends + 1 }
      (segOut (flowPut s f { x with unacked := x.unacked.map (fun y => if y = g then g1 else y) }) f g1, false)

/-! ### Receiving (R497 to R499) -/

/-- Bytes that software has consumed. -/
def flowConsumed (s : Block) (e : Nat) : Nat := memLe s (flowConsumedAt e) 8

/-- Send an ACK: next SEG expected, MDONE, CREDIT, SACK. -/
def flowAck (s : Block) (f : Nat) : Block :=
  let e := flowEntry s f
  let x := flowAt s f
  let used := flowConsumed s e
  let sack := x.rxSack.foldl (fun v k => if x.rxNext < k ∧ k ≤ x.rxNext + 64 then setBit v (k - x.rxNext - 1) true else v) 0
  let credit := flowRingSize e - (x.written - used)
  let s := flowPut s f { x with unackedRx := 0, consumed := used }
  let p := flowPort e x.mdone
  if !ethUp s p then s else emit (countEvent s (unitEth p) 1 1) (.segAck (flowPeerFlow e) (x.rxNext % 2 ^ 32) (x.mdone % 2 ^ 32) credit (BitVec.ofNat 64 sack))

/-- Give places in the ring to messages in their order, as far as they are known. -/
def placeMsgs : Nat → FlowSt → FlowSt
  | 0, x => x
  | fuel + 1, x =>
    match x.rxMsgs.find? (fun m => m.msg == x.placed) with
    | some m => placeMsgs fuel { x with
        rxMsgs := x.rxMsgs.map (fun y => if y = m then { m with start := some x.place } else y)
        place := x.place + 64 + roundUp 64 m.total, placed := x.placed + 1 }
    | none => x

/-- Write bytes at a place of the ring, when every line is free. -/
def ringWrite (s : Block) (e place : Nat) (bs : List Byte) : Option Block :=
  let runs := ringRuns e place bs.length
  if runs.all (fun r => unitFree s r.1 r.2 true) then
    some (runs.foldl (fun (acc : Block × List Byte) r => (innerWrite acc.1 none 0 r.1 (acc.2.take r.2), acc.2.drop r.2)) (s, bs)).1
  else none

/-- Write the pieces of messages that have a place (R499). -/
def writePieces1 (s : Block) (f : Nat) (m : InMsg) : Block :=
  let e := flowEntry s f
  match m.start with
  | none => s
  | some p =>
    m.segs.foldl (fun s g =>
      if g.2.2 then s
      else
        match ringWrite s e (p + 64 + g.1) g.2.1 with
        | none => (ringRuns e (p + 64 + g.1) g.2.1.length).foldl (fun s r => unitAsk s r.1 r.2 true) s
        | some s1 =>
          let x := flowAt s1 f
          flowPut s1 f { x with
            written := x.written + g.2.1.length
            rxMsgs := x.rxMsgs.map (fun y => if y.msg = m.msg then
              { y with segs := y.segs.map (fun h => if h.1 = g.1 then (h.1, h.2.1, true) else h) } else y) }) s

/-- All bytes of a message have arrived and are written. -/
def msgWhole (m : InMsg) : Bool :=
  m.segs.all (fun g => g.2.2) && decide (m.total ≤ (m.segs.map (fun g => g.2.1.length)).foldl (· + ·) 0)

/-- A message's bytes in order. -/
def msgBytes (m : InMsg) : List Byte :=
  m.segs.foldl (fun acc g => padTo m.total (acc.take g.1 ++ g.2.1 ++ acc.drop (g.1 + g.2.1.length))) (List.replicate m.total 0)

/-- CAPTURE entries of at most 4,096 bytes; when the ring cannot take one at once, capture ends for the step with a FAULT entry
(R441, R442). -/
def captureInput (addr : Nat) : Nat → Nat → List Byte → Block → Block
  | 0, _, _, s => s
  | fuel + 1, off, bs, s =>
    if bs.isEmpty ∨ s.ledger.capOff ∨ odNat s 0x9300 3 = 0 ∨ !s.ledger.isOpen then s
    else
      let here := bs.take 4096
      let need := 32 + roundUp 16 here.length + (s.ledger.waiting.map List.length).foldl (· + ·) 0
      if ledgerFree s < need then
        ledgerFault { s with ledger := { s.ledger with capOff := true } } (statusOf Config.captureStatus) unitNone addr
      else captureInput addr fuel (off + 4096) (bs.drop 4096) (ledgerPut s 3 (natLe 8 addr ++ natLe 8 off ++ here))

/-- The INPUT entry of a delivered message and its comparison with the recorded ledger (R441, R444). -/
def recordInput (s : Block) (port f addr : Nat) (bs : List Byte) : Block :=
  let dig := sha512Bytes bs
  let s := ledgerPut s 2 (natLe 1 port ++ natLe 7 0 ++ natLe 4 f ++ natLe 4 0 ++ natLe 8 bs.length ++ natLe 8 addr ++ dig)
  let s := compareInput s s.ledger.step.toNat addr dig
  captureInput addr (bs.length / 4096 + 1) 0 bs s

/-- Signal messages in order: each that is whole gets its header and padding, ADD 1 to MSGOBJ and its ledger entries (R499). -/
def deliverMsgs (f : Nat) : Nat → Block → Block
  | 0, s => s
  | fuel + 1, s =>
    let e := flowEntry s f
    let x := flowAt s f
    match x.rxMsgs.find? (fun m => m.msg == x.mdone) with
    | none => s
    | some m =>
      match m.start with
      | none => s
      | some p =>
        if !msgWhole m then s
        else
          let hdr := natLe 4 m.total ++ natLe 4 m.msg ++ natLe 8 m.last.toNat ++ natLe 8 m.step ++ natLe 1 m.port ++ natLe 39 0
          let pad := List.replicate (roundUp 64 m.total - m.total) (0 : Byte)
          match ringWrite s e (p + 64 + m.total) pad with
          | none => s
          | some s1 =>
            match ringWrite s1 e p hdr with
            | none => s
            | some s2 =>
              let x1 := { flowAt s2 f with mdone := x.mdone + 1, written := x.written + 64 + pad.length,
                                           rxMsgs := x.rxMsgs.filter (fun y => y.msg != m.msg) }
              let s3 := signalAdd (flowPut s2 f x1) (flowMsgObj e) 1
              deliverMsgs f fuel (recordInput s3 m.port f (flowRing e + (p + 64) % flowRingSize e) (msgBytes m))

/-- What an inbound flow can do with what it holds; an ACK leaves when MDONE or CONSUMED has changed (R498). -/
def flowReceive (s : Block) (f : Nat) : Block :=
  let before := (flowAt s f).mdone
  let s := (flowAt s f).rxMsgs.foldl (fun s m => writePieces1 s f m) s
  let s := deliverMsgs f ((flowAt s f).rxMsgs.length + 1) s
  let x := flowAt s f
  if x.mdone ≠ before ∨ flowConsumed s (flowEntry s f) ≠ x.consumed then flowAck s f else s

/-- Segments next in order are no longer beyond it. -/
def rxAdvance : Nat → FlowSt → FlowSt
  | 0, x => x
  | fuel + 1, x => if x.rxSack.contains x.rxNext then
      rxAdvance fuel { x with rxSack := x.rxSack.filter (· != x.rxNext), rxNext := x.rxNext + 1 }
    else x

/-- The segment number nearest the next expected one. -/
def segAbs (next seg : Nat) : Nat :=
  let d := (seg + 2 ^ 32 - next % 2 ^ 32) % 2 ^ 32
  if d < 2 ^ 31 then next + d else next + d - 2 ^ 32

/-- TRANSPORT_DATA (R497 to R499). -/
def execTransportData (g : Segment) (s : State) : Host.Outcome State Fault Refusal := onBlock s fun s =>
  let e := flowEntry s g.flow
  let total := g.total.toNat
  let off := g.offset.toNat
  .next (if powerState s < 2 ∨ !ethUp s g.port then s
    else if 9000 < g.data.length then odBump s 0x7020 1 1
    else
      let s := countEvent s (unitEth g.port) 2 1
      if 256 ≤ g.flow ∨ !flowOn e ∨ flowOut e ∨ !fromPeer e g ∨ segMax s < g.data.length then discardSegment s
      else if total = 0 ∨ 2 ^ 24 < total ∨ flowRingSize e - 64 < total ∨ total < off + g.data.length ∨ g.data.isEmpty then discardSegment s
      else
        let x := flowAt s g.flow
        let seg := segAbs x.rxNext g.seg.toNat
        let dup := decide (seg < x.rxNext) || x.rxSack.contains seg
        let bump := fun (s : Block) => let y := flowAt s g.flow; flowPut s g.flow { y with unackedRx := y.unackedRx + 1 }
        let s1 :=
          if dup then s
          else
            let msg := segAbs x.mdone g.msg.toNat
            let old := (x.rxMsgs.find? (fun m => m.msg == msg)).getD ⟨msg, total, none, [], 0, 0, 0⟩
            let m1 := { old with segs := old.segs ++ [(off, g.data, false)], port := g.port, last := hallNow s, step := stepCounter s }
            let x1 := rxAdvance (x.rxSack.length + 2) { x with rxSack := x.rxSack ++ [seg], rxMsgs := x.rxMsgs.filter (fun m => m.msg != msg) ++ [m1] }
            let x2 := placeMsgs (x1.rxMsgs.length + 1) x1
            let room := flowConsumed s e + flowRingSize e
            let fits := x2.rxMsgs.all (fun m => m.msg != msg || (match m.start with
              | some p => decide (p + 64 + roundUp 64 total ≤ room)
              | none => decide (x2.place + total ≤ room)))
            if fits then flowPut s g.flow x2 else s
        let s2 := flowReceive (bump s1) g.flow
        ledgerFlush (if 16 ≤ (flowAt s2 g.flow).unackedRx then flowAck s2 g.flow else s2))

/-- ACK_DELAY (R498): 20 µs after a DATA segment that is not acknowledged. -/
def execAckDelay (f : Fin 256) (s : State) : Host.Outcome State Fault Refusal := onBlock s fun s =>
  let e := flowEntry s f
  .next (if flowOn e ∧ !flowOut e ∧ (flowAt s f).unackedRx ≠ 0 ∧ 2 ≤ powerState s then flowAck s f else s)

/-- One cycle of the transport: inbound flows write what waited, and tell a changed CREDIT. -/
def transportTick (s : Block) : Block :=
  if powerState s < 2 then s
  else (s.flows.map (·.1)).foldl (fun s f =>
    let e := flowEntry s f
    if flowOn e ∧ !flowOut e then flowReceive s f else s) s

end Sys2Proof.Machine
end

