-- ==== Sys2Proof/Machine/Sketch.lean ====
section
/-! DEFINITION. The Sketch engine (R447 to R469): ARM, the copy of a generation, its exchanges and drain, and RESTORE. -/

namespace Sys2Proof.Machine

open Sys2Proof

/-! ### Places (R449, R462) -/

/-- Sketch as a requester (R347). -/
def sketchWho (s : Block) : Requester := some (ownSlot s, 32)
/-- Sequencer of Sketch. -/
def sketchSeq : Nat := 544
/-- The digest table of the area, and the workspace in its last 16 MiB. -/
def sketchTable (a : ArmSt) : Nat := a.area + shardLength a
def sketchWork (a : ArmSt) : Nat := a.area + a.size - 0x1000000
/-- Granules of the shard. -/
def granules (a : ArmSt) : Nat := shardLength a / 65536
/-- This member's inputs and the gathered entries in the workspace; the place of each input and record is log 34. -/
def inputPlace (a : ArmSt) (k : Nat) : Nat := sketchWork a + 0x301000 + 128 * k
def gatheredEnts (a : ArmSt) : Nat := sketchWork a + 0x400000
def gatheredMore (a : ArmSt) : Nat := sketchWork a + 0xC00000

/-- Bytes of the extent list, and EXTSIG (R466). -/
def extentBytes (a : ArmSt) : List Byte := a.extents.flatMap (fun e => natLe 8 e.1 ++ natLe 8 e.2)
def extSig (a : ArmSt) : Nat := crc64 (extentBytes a)

/-- Sketch's state when no generation and no RESTORE is in progress. -/
def sketchIdle (s : Block) : Block :=
  odPut s 0xA000 2 (match s.sketch.armed with | some a => if a.mode = 0 then 0 else 1 | none => 0)

/-- The generation in progress changes. -/
def genPut (s : Block) (g : GenSt) : Block := { s with sketch := { s.sketch with gen := some g } }

/-! ### ARM (R448 to R450) -/

/-- The extents of a list. -/
def readExtents : Nat → List Byte → List (Nat × Nat)
  | 0, _ => []
  | n + 1, bs => (leNat (bs.take 8), leNat ((bs.drop 8).take 8)) :: readExtents n (bs.drop 16)

/-- Ascending, not overlapping, multiples of 64 KiB, in HBM (R449). -/
def extentsOk : Nat → List (Nat × Nat) → Bool
  | _, [] => true
  | lo, (b, l) :: t =>
    b % 65536 == 0 && l % 65536 == 0 && decide (lo ≤ b) && inHbm b l && extentsOk (b + l) t

/-- Whether `[lo, hi)` meets the area. -/
def areaMeets (a : ArmSt) (lo n : Nat) : Bool := decide (lo < a.area + a.size) && decide (a.area < lo + n)

/-- The refusals of ARM that stand in R450. -/
def armOk (s : Block) (a : ArmSt) : Bool :=
  let g := groupAt s a.sgidx
  let r := groupAt s a.rgidx
  a.period != 0 && decide (1 ≤ a.extents.length) && decide (a.extents.length ≤ 64) && extentsOk 0 a.extents &&
    decide (shardLength a + shardLength a / 1024 + 0x1000000 ≤ a.size) && a.extents.all (fun e => !areaMeets a e.1 e.2) &&
    !areaMeets a (odNat s 0x9300 1) (odNat s 0x9300 2) && !areaMeets a (odNat s 0x8000 1) 0x20000 &&
    decide (a.sgidx < 1024) && g.state == 2 && !g.istus &&
    (a.rgidx == 0xFFFF || (decide (a.rgidx < 1024) && r.state == 2 && r.replica)) &&
    (a.mode == 0 || s.barriers.any (fun e => barrierStep e.2))

/-- The fields of an ARM block. -/
def armBlock (s : Block) (v : Nat) : ArmSt :=
  let n := blkNat v 1 1
  ⟨blkNat v 0 1, blkNat v 2 2, blkNat v 4 2, BitVec.ofNat 64 (blkNat v 8 8), readExtents n (memRead s (blkNat v 16 8) (16 * n)),
    blkNat v 24 8, blkNat v 32 8, BitVec.ofNat 14 (blkNat v 40 4), blkNat v 48 8, BitVec.ofNat 64 (blkNat v 56 8)⟩

/-- A new job's arming starts with no earlier generation (log 34). -/
def armLatch (s : Block) (a : ArmSt) : Block :=
  let same := match s.sketch.armed with | some o => o.jobId == a.jobId | none => false
  let sk := if same then s.sketch else { s.sketch with prevStep := BitVec.allOnes 64, relSteps := [] }
  sketchIdle { s with sketch := { sk with armed := some a } }

/-- ARM begins: its block is read and checked, and it completes at once. -/
def beginArm (s : Block) (c : CmdSlot) : Began :=
  let q := sketchSeq
  let a := cmdBlock c.word
  if !seqMem s q a 64 then .stop s ⟨.badAddress, 0⟩
  else
    match operandWait s q 1 c [(a, 64)] [] with
    | some b => b
    | none =>
      match readLe s q a 64 with
      | .error e => .stop s e
      | .ok v =>
        let ext := blkNat v 16 8
        let n := 16 * blkNat v 1 1
        if decide (2 < blkNat v 0 1) || blkNat v 6 2 != 0 || bits (blkNat v 40 4) 14 18 != 0 || blkNat v 44 4 != 0 then .stop s ⟨.malformed, 0⟩
        else if s.sketch.gen.isSome || s.sketch.restore.isSome then .stop s ⟨.sketchBusy, 0⟩
        else if ext % 16 ≠ 0 ∨ !inHbm ext n ∨ blkNat v 24 8 % 0x200000 ≠ 0 ∨ !inHbm (blkNat v 24 8) (blkNat v 32 8) ∨
            blkNat v 48 8 % 64 ≠ 0 ∨ !inHbm (blkNat v 48 8) 64 then .stop s ⟨.badAddress, 0⟩
        else
          match operandWait s q 1 c (if n = 0 then [] else [(ownAddr s ext, n)]) [] with
          | some b => b
          | none =>
            match accessStatus s (sketchWho s) .read ext n with
            | some (st, l) => .stop s ⟨st, ownAddr s l⟩
            | none =>
              let x := armBlock s v
              if armOk s x then .go (armLatch s x) .ok true else .stop s ⟨.sketchDesc, 0⟩

/-- ARM (R450). -/
def execArm (s : State) : Host.Outcome State Fault Refusal := onBlock s fun s =>
  .next (startQueued s sketchSeq (fun w => cmdOpcode w == 0x30) beginArm)

/-! ### The copy (R454 to R459) -/

/-- Whether no shard line is held in M and no recall of one is unanswered. -/
def armingDone (s : Block) (a : ArmSt) : Bool :=
  s.coh.dir.all (fun e => !lineInShard a e.1 || (e.2.st != .m && !(e.2.st == .b && e.2.wasM)))

/-- The step barrier whose release waits for the arming, when its TREL has passed. -/
def lateBarrier (s : Block) : Option Nat :=
  (s.barriers.find? (fun e => barrierStep e.2 && (match e.2.release with
    | some t => decide (t.toNat < hallNat s)
    | none => false))).map (·.1)

/-- ARMING_COMPLETE (R454): the step may release; past TREL it releases now, as a late release (R430). -/
def execArmingComplete (s : State) : Host.Outcome State Fault Refusal := onBlock s fun s =>
  .next (match s.sketch.armed, s.sketch.gen with
    | some a, some g =>
      if g.phase ≠ GenPhase.arming || !armingDone s a then s
      else
        let s := genPut s { g with phase := .armed }
        match lateBarrier s with
        | some b => if releaseMay s b then ledgerFlush (barrierRelease (countEvent (odBump s 0x9000 7 1) unitTime 2 1) b) else s
        | none => s
    | _, _ => s)

/-- The copy of a member fails: every protect bit is cleared and the waiting requests are applied (R459). -/
def failCopy (s : Block) (g : GenSt) (st : Status) : Block :=
  drainAll (genPut s { g with state := 1, fstatus := st, protect := [], queue := [] })

/-- FSTATUS of a refused granule read (R459). -/
def copyStatus (st : Status) : Status := if st = .regionLost then .regionOwned else st

/-- Copy one granule to the area with its digest, and clear its protect bit at every home (R456, R458). -/
def copyGranule (s : Block) (a : ArmSt) (g : GenSt) (j : Nat) : Block :=
  match shardAddr a.extents (65536 * j) with
  | none => s
  | some src =>
    match accessStatus s (sketchWho s) .read src 65536 with
    | some (st, _) => failCopy s g (copyStatus st)
    | none =>
      let (s, bs) := homeRead s src 1 65536
      let dig := sha512 bs
      let s := innerWrite s (sketchWho s) 1 (a.area + 65536 * j) bs
      let s := innerWrite s (sketchWho s) 1 (sketchTable a + 64 * j) (sha512Bytes bs)
      let g1 := { g with protect := g.protect.filter (· != j), queue := g.queue.filter (· != j), digests := tset 0 g.digests j dig }
      drainAll (countEvent (genPut s g1) unitSketch 1 1)

/-- SKETCH_SWEEP_GRANULE (R458): the lowest granule not yet copied, after the release. -/
def execSketchSweepGranule (s : State) : Host.Outcome State Fault Refusal := onBlock s fun s =>
  .next (match s.sketch.armed, s.sketch.gen with
    | some a, some g =>
      match g.protect with
      | j :: _ => if g.phase = GenPhase.copying then ledgerFlush (copyGranule s a g j) else s
      | [] => s
    | _, _ => s)

/-- PRIORITY_COPY_DONE (R456, R457): the head of the queue is copied. The copy holds bytes as they stand at the release, so
none is made before it (R455). -/
def execPriorityCopyDone (s : State) : Host.Outcome State Fault Refusal := onBlock s fun s =>
  .next (match s.sketch.armed, s.sketch.gen with
    | some a, some g =>
      match g.queue with
      | j :: _ => if g.phase = GenPhase.copying then
          ledgerFlush (copyGranule (countEvent (odBump s 0xA020 3 1) unitSketch 2 1) a g j) else s
      | [] => s
    | _, _ => s)

/-! ### Exchanges (R461, R462) -/

/-- Descriptor of a one-dimensional INT32 tensor at a module-local address. -/
def int32Desc (s : Block) (a n : Nat) : Nat := 0x10 + 2 ^ 5 + ownAddr s a * 2 ^ 32 + (n - 1) * 2 ^ 128 + 4 * 2 ^ 152
/-- A reference with the hint STREAM. -/
def streamRef (s : Block) (a : Nat) : Nat := ownAddr s a + 2 ^ 56

/-- The ALLGATHER of an exchange: FMT INT32, CSZ 0, depth 4, PROGEN 0 (R461, R462); RAILS is log 34. -/
def gatherColl (s : Block) (a : ArmSt) (elems src dst fence record : Nat) : Coll :=
  let g := groupAt s a.sgidx
  let v := 3 + 18 * 2 ^ 6 + a.sgidx * 2 ^ 16 + elems * 2 ^ 64 + fence * 2 ^ 128 + ownAddr s record * 2 ^ 192 +
    ownAddr s (sketchWork a) * 2 ^ 256 + 0x300000 * 2 ^ 320
  ⟨a.sgidx, g.gid, g.collSeq, 16, true, v, 4, [(streamRef s src, int32Desc s src elems)],
    (streamRef s dst, int32Desc s dst (g.m * elems)), false, [], [], [], [], [], [], [], [], 0, 0, 0, false, [], false, none, false,
    [], 0, 0, [0, 0, 0]⟩

/-- Bind an exchange, when its group is ACTIVE and a context is free: the input is written, the fence set to 0, and the
ALLGATHER bound. `none`: not yet. -/
def bindGather (s : Block) (a : ArmSt) (k elems dst fence : Nat) (input : List Byte) : Option Block :=
  if 0 < freeReserved s a.sgidx ∨ 0 < freeContexts s then
    let s := innerWrite s (sketchWho s) 1 (inputPlace a k) input
    let s := signalSet s fence 0
    bindColl s (gatherColl s a elems (inputPlace a k) dst fence (sketchWork a + 0x300000 + 64 * k))
  else none

/-! ### Shard entries (R466) -/

def shardBits (e : ShardEnt) : Nat :=
  e.rank + e.rack * 2 ^ 32 + e.slot * 2 ^ 42 + e.state * 2 ^ 49 + (if e.rep then 2 ^ 51 else 0) + e.rgid * 2 ^ 64 +
    statusCode e.fstatus * 2 ^ 96 + e.length * 2 ^ 128 + e.extsig.toNat * 2 ^ 192 + e.digest.toNat * 2 ^ 256 + e.writer * 2 ^ 768 +
    (if e.mismatch then 2 ^ 800 else 0)

def shardOfBits (v : Nat) : ShardEnt :=
  ⟨bits v 0 32, bits v 32 10, bits v 42 7, bits v 49 2, bit v 51, bits v 64 32, statusOf (bits v 96 16), bits v 128 64,
    BitVec.ofNat 64 (bits v 192 64), BitVec.ofNat 512 (bits v 256 512), bits v 768 32, bit v 800⟩

/-- SHA-512 of the digest table, in entry order (R458). -/
def shardDigest (a : ArmSt) (t : Tab (BitVec 512)) : BitVec 512 :=
  sha512 ((List.range (granules a)).flatMap (fun j => natLe 64 (tget 0 t j).toNat))

/-- This member's entry. -/
def ownEnt (s : Block) (a : ArmSt) (g : GenSt) : ShardEnt :=
  let grp := groupAt s a.sgidx
  let rep := a.rgidx != 0xFFFF
  ⟨grp.rank, ownRack s, ownSlot s, g.state, rep, if rep then (groupAt s a.rgidx).gid else 0, g.fstatus, shardLength a,
    BitVec.ofNat 64 (extSig a), if g.state = 0 then shardDigest a g.digests else 0, grp.rank, false⟩

/-- SKETCH_COPY_END (R458, R459, R461): no granule is left, or the copy has failed; the member enters the exchange. -/
def execSketchCopyEnd (s : State) : Host.Outcome State Fault Refusal := onBlock s fun s =>
  .next (match s.sketch.gen with
    | some g =>
      if g.phase = GenPhase.copying ∧ g.protect.isEmpty then
        let g1 := { g with phase := .exchanging, tcopy := if g.state = 0 then hallNow s else 0 }
        odPut (genPut s g1) 0xA000 2 4
      else s
    | none => s)

/-! ### The end of a generation (R463, R465) -/

/-- The generation record (R465). -/
def genRecord (s : Block) (g : GenSt) (st : Status) : List Byte :=
  natLe 2 (statusCode st) ++ natLe 4 g.cause ++ natLe 2 0 ++ natLe 8 g.step.toNat ++ natLe 8 g.tcopy.toNat ++ natLe 8 (hallNat s) ++
    natLe 8 g.stalls ++ natLe 8 g.stallCyc ++ natLe 8 g.drained ++ natLe 8 0

/-- A generation ends: its record, ADD 1 to DONE; the area is free; a skipped generation that waits takes its turn. This
member's own failure goes before the abandonment in STATUS (log 34). -/
def endGen (s : Block) (a : ArmSt) (g : GenSt) (st : Status) : Block :=
  let own := if g.fstatus != .ok then g.fstatus else if g.dstatus != .ok then g.dstatus else st
  let s := if st = .ok then s else odBump s 0xA020 5 1
  let s := innerWrite s (sketchWho s) 1 a.record (genRecord s g own)
  let s := report s unitSketch 3 1 own g.step.toNat
  let s := sketchIdle { s with sketch := { s.sketch with gen := none, relSteps := s.sketch.relSteps ++ [g.step] } }
  let s := drainAll (signalAdd s a.doneObj.toNat 1)
  match s.sketch.skips with
  | [] => s
  | k :: rest =>
    let g2 := newGen k.1 k.2 .exchanging 2 .sketchBusy []
    odPut (genPut { s with sketch := { s.sketch with skips := rest } } g2) 0xA000 2 4

/-- The generation is abandoned because of a rank's entry, or of none. -/
def abandonGen (s : Block) (a : ArmSt) (g : GenSt) (cause : Nat) : Block := endGen s a { g with cause := cause } .sketchAbandoned

/-! ### The decision (R463) -/

/-- The replica set of an entry. -/
def replicaSet (es : List ShardEnt) (e : ShardEnt) : List ShardEnt :=
  if e.rep then es.filter (fun x => x.rep && x.rgid == e.rgid) else [e]

def copiedOf (es : List ShardEnt) : List ShardEnt := es.filter (fun x => x.state == 0)

/-- Every COPIED member of a set carries the writer's LENGTH and DIGEST. -/
def setAgrees (es : List ShardEnt) : Bool :=
  match copiedOf es with
  | [] => true
  | w :: t => t.all (fun x => x.length == w.length && x.digest == w.digest)

/-- An entry with WRITER and MISMATCH as decided. -/
def decideEnt (es : List ShardEnt) (e : ShardEnt) : ShardEnt :=
  let set := replicaSet es e
  if setAgrees set then { e with writer := match copiedOf set with | w :: _ => w.rank | [] => e.rank }
  else { e with writer := e.rank, mismatch := e.state == 0 }

/-- Whether an entry is the first of its replica set. -/
def firstOfSet (es : List ShardEnt) (e : ShardEnt) : Bool :=
  match replicaSet es e with
  | x :: _ => x.rank == e.rank
  | [] => false

/-- The gathered shard entries. -/
def readEnts (s : Block) (a : ArmSt) : List ShardEnt :=
  (List.range (groupAt s a.sgidx).m).map (fun r => shardOfBits (memLe s (gatheredEnts a + 128 * r) 128))

/-! ### Drain records (R464) -/

/-- The module's hold on flow 0: enabled outbound on both ports to STORAGE_ENDPOINT (R464, R496). A flow already enabled to that
endpoint goes on. -/
def enableDrain (s : Block) : Block :=
  let ep := odNat s 0xA010 1
  let v := 11 + bits ep 128 16 * 2 ^ 16 + bits ep 0 128 * 2 ^ 64
  if odNat s 0x7101 1 = v then s else flowPut (odPut s 0x7101 1 v) 0 flow0

/-- Header and payload of a record. -/
def drainBytes (a : ArmSt) (step : Word) (rank : Nat) (r : DrainRec) (payload : List Byte) : List Byte :=
  natLe 8 a.jobId.toNat ++ natLe 8 step.toNat ++ natLe 4 rank ++ natLe 1 r.kind ++ natLe 3 0 ++ natLe 8 r.offset ++
    natLe 4 payload.length ++ natLe 4 0 ++ natLe 8 (crc64 payload) ++ natLe 8 r.ref ++ natLe 8 0 ++ payload

/-- Payload of a record: a part of the copy or of the manifest. -/
def drainPayload (s : Block) (a : ArmSt) (man : List Byte) (r : DrainRec) : List Byte :=
  if r.kind = 0 then memRead s (a.area + r.offset) r.length else if r.kind = 2 then (man.drop r.offset).take r.length else []

/-- Hand a record to the transport. -/
def sendDrain (s : Block) (a : ArmSt) (step : Word) (man : List Byte) (r : DrainRec) : Block :=
  flowMessage s 0 (drainBytes a step (groupAt s a.sgidx).rank r (drainPayload s a man r))

/-- Records of at most 1 MiB that cover `n` bytes. -/
def cutRecords (kind n : Nat) : List DrainRec :=
  (List.range (roundUp 0x100000 n / 0x100000)).map (fun k => ⟨kind, 0x100000 * k, min 0x100000 (n - 0x100000 * k), 0, 0, 0, 0⟩)

/-- Send records, noting the message number and time of each. -/
def sendDrains (s : Block) (a : ArmSt) (step : Word) (man : List Byte) (rs : List DrainRec) : Block × List DrainRec :=
  rs.foldl (fun (acc : Block × List DrainRec) r =>
    let r1 := { r with msg := (flowAt acc.1 0).txMsg, since := hallNow acc.1 }
    (sendDrain acc.1 a step man r1, acc.2 ++ [r1])) (s, [])

/-- The drain of a generation begins with these records. -/
def beginDrain (s : Block) (a : ArmSt) (g : GenSt) (phase : GenPhase) (rs : List DrainRec) : Block :=
  let s := if rs.isEmpty then s else enableDrain s
  let (s1, sent) := sendDrains s a g.step g.manifest rs
  odPut (genPut s1 { g with phase := phase, drains := sent }) 0xA000 2 5

/-- The decision every member derives from the gathered entries (R463). -/
def decideGen (s : Block) (a : ArmSt) (g : GenSt) : Block :=
  let es := readEnts s a
  match es.find? (fun e => (copiedOf (replicaSet es e)).isEmpty) with
  | some e => abandonGen s a g e.rank
  | none =>
    let bad := es.filter (fun e => firstOfSet es e && !setAgrees (replicaSet es e))
    let s := bad.foldl (fun s e => raiseAlarm (odBump s 0xA020 7 1) 0x11 unitSketch .ok e.rank) s
    let ds := es.map (decideEnt es)
    let g1 := { g with ents := ds, bound := false }
    let me := ds.getD (groupAt s a.sgidx).rank (ownEnt s a g)
    let rs : List DrainRec :=
      if me.state ≠ 0 then []
      else if me.writer = me.rank then cutRecords 0 (shardLength a)
      else [⟨1, 0, 0, me.writer, 0, 0, 0⟩]
    beginDrain s a g1 .draining rs

/-! ### The manifest (R466) and the end at rank 0 (R465) -/

/-- The manifest of a generation, signed with the identity key. -/
def manifestBytes (s : Block) (a : ArmSt) (g : GenSt) : List Byte :=
  let grp := groupAt s a.sgidx
  let body := natLe 4 1 ++ natLe 4 grp.m ++ natLe 8 a.jobId.toNat ++ natLe 8 g.step.toNat ++ natLe 8 g.trel.toNat ++ natLe 4 grp.gid ++
    natLe 4 grp.epoch ++ padTo 24 g.settings ++ natLe 8 s.sketch.prevStep.toNat ++ natLe 56 0 ++ sha512Bytes (identityCert s) ++
    g.ents.flatMap (fun e => natLe 128 (shardBits e))
  body ++ padTo 512 ((Config.identitySign body).take 512)

/-- Entries of the second exchange that are not ST_OK. -/
def badDrains (s : Block) (a : ArmSt) : List Nat :=
  (List.range (groupAt s a.sgidx).m).filter (fun r => memLe s (gatheredMore a + 16 * r) 2 != statusCode .ok)

/-- A durable generation: PREV_STEP moves on, and at rank 0 a RELEASE record goes to storage for each earlier generation older
than the manifest's PREV_STEP. -/
def durableGen (s : Block) (a : ArmSt) (g : GenSt) : Block :=
  let prev := s.sketch.prevStep
  let old := s.sketch.relSteps.filter (fun k => prev != BitVec.allOnes 64 && decide (k.toNat < prev.toNat))
  let rank0 := (groupAt s a.sgidx).rank == 0
  let s := { s with sketch := { s.sketch with relSteps := s.sketch.relSteps.filter (fun k => !old.contains k), prevStep := g.step } }
  let s := if rank0 then
      let (s1, rs) := sendDrains (odBump s 0xA020 4 1) a g.step [] (old.map (fun k => ⟨3, 0, 0, k.toNat, 0, 0, 0⟩))
      { s1 with sketch := { s1.sketch with tail := s1.sketch.tail ++ rs.map (fun r => (g.step, r)) } }
    else s
  endGen s a g .ok

/-- The second exchange is complete. -/
def closeGen (s : Block) (a : ArmSt) (g : GenSt) : Block :=
  match badDrains s a with
  | r :: _ => abandonGen s a g r
  | [] =>
    if (groupAt s a.sgidx).rank = 0 then
      let g1 := { g with manifest := manifestBytes s a g }
      beginDrain s a g1 .sealing (cutRecords 2 g1.manifest.length)
    else durableGen s a g

/-! ### RESTORE (R467 to R469) -/

/-- Whether a manifest's shape is this member's (R468). -/
def shapeMatches (s : Block) (a : ArmSt) (man : List Byte) : Bool :=
  let grp := groupAt s a.sgidx
  let e := shardOfBits (leNat (slice man (192 + 128 * grp.rank) 128))
  leNat (slice man 4 4) == grp.m && e.length == shardLength a && e.extsig.toNat == extSig a

/-- Granule digests of shard bytes. -/
def tableOf : Nat → List Byte → List Byte
  | 0, _ => []
  | n + 1, bs => sha512Bytes (bs.take 65536) ++ tableOf n (bs.drop 65536)

/-- A valid candidate with the bytes that storage delivered for its shard (none: records missing or their CRC wrong). -/
def candOf (s : Block) (a : ArmSt) (man data : List Byte) : RestoreCand :=
  let e := shardOfBits (leNat (slice man (192 + 128 * (groupAt s a.sgidx).rank) 128))
  let shape := shapeMatches s a man
  ⟨BitVec.ofNat 64 (leNat (slice man 16 8)),
    shape && data.length == shardLength a && sha512 (tableOf (granules a) data) == e.digest, shape, man, data⟩

/-- Bytes of the manifest at an address, when it lies in HBM. -/
def manifestAt (s : Block) (p : Nat) : Option (List Byte) :=
  let m := memLe s (p + 4) 4
  if inHbm p 192 && decide (m ≤ 65536) && inHbm p (704 + 128 * m) then some (memRead s p (704 + 128 * m)) else none

/-- A candidate is valid: VERSION, JOB_ID, and the signature under an accepted chain (R468, R559). -/
def manifestValid (s : Block) (a : ArmSt) (man : List Byte) : Bool :=
  leNat (slice man 0 4) == 1 && leNat (slice man 8 8) == a.jobId.toNat && Config.manifestGood man (anchorsFor s 6) (certTime s)

/-- Candidates in descending STEP. -/
def insertCand (c : RestoreCand) : List RestoreCand → List RestoreCand
  | [] => [c]
  | d :: t => if d.step.toNat < c.step.toNat then c :: d :: t else d :: insertCand c t

/-- The first candidate's shard, when complete, is written to the area with its digest table. -/
def fillArea (s : Block) (a : ArmSt) (todo : List RestoreCand) : Block :=
  match todo with
  | c :: _ =>
    if c.ok then innerWrite (innerWrite s (sketchWho s) 1 a.area c.data) (sketchWho s) 1 (sketchTable a) (tableOf (granules a) c.data)
    else s
  | [] => s

/-- RESTORE begins. -/
def beginRestore (fetched : List (List Byte)) (s : Block) (c : CmdSlot) : Began :=
  let q := sketchSeq
  let p := cmdBlock c.word
  if !seqMem s q p 64 then .stop s ⟨.badAddress, 0⟩
  else
    match operandWait s q 1 c [(p, 64)] [] with
    | some b => b
    | none =>
      match readLe s q p 64 with
      | .error e => .stop s e
      | .ok v =>
        let n := blkNat v 0 1
        if blkNat v 1 7 != 0 || blkNat v 24 40 != 0 then .stop s ⟨.malformed, 0⟩
        else
          match s.sketch.armed with
          | none => .stop s ⟨.sketchDesc, 0⟩
          | some a =>
            if n ≠ 1 ∧ n ≠ 2 then .stop s ⟨.sketchDesc, 0⟩
            else if s.sketch.gen.isSome then .stop s ⟨.sketchBusy, 0⟩
            else
              let at_ := (List.range n).map (fun k => blkNat v (8 + 8 * k) 8)
              if at_.any (fun x => (manifestAt s x).isNone) then .stop s ⟨.badAddress, 0⟩
              else
                let mans := at_.filterMap (manifestAt s)
                let spans := (at_.zip mans).map (fun x => (ownAddr s x.1, x.2.length))
                match operandWait s q 1 c spans [] with
                | some b => b
                | none =>
                  match (at_.zip mans).findSome? (fun x => accessStatus s (sketchWho s) .read x.1 x.2.length) with
                  | some (st, l) => .stop s ⟨st, ownAddr s l⟩
                  | none =>
                    let good := ((mans.filter (manifestValid s a)).zip (fetched ++ [[], []])).map (fun x => candOf s a x.1 x.2)
                    let todo := good.foldl (fun l x => insertCand x l) []
                    match todo with
                    | [] => .stop s ⟨.restoreShape, 0⟩
                    | _ =>
                      let s := fillArea s a todo
                      .go (odPut { s with sketch := { s.sketch with restore := some ⟨c.idx, todo, false, false⟩ } } 0xA000 2 6) .ok false

/-- RESTORE (R468): `fetched` holds what storage delivers for each valid candidate, in their order in the block. -/
def execRestore (fetched : List (List Byte)) (s : State) : Host.Outcome State Fault Refusal := onBlock s fun s =>
  .next (startQueued s sketchSeq (fun w => cmdOpcode w == 0x31) (beginRestore (fetched.take 2)))

/-- RESTORE ends without a change to the extents. -/
def restoreFail (s : Block) (r : RestoreSt) (st : Status) : Block :=
  let s := sketchIdle { s with sketch := { s.sketch with restore := none } }
  match (seqAt s sketchSeq).stream.bind (fun x => x.win.find? (fun c => c.idx == r.idx)) with
  | some c => stopSlot s sketchSeq c ⟨st, 0⟩
  | none => s

/-- Write the area's copy to the extents. -/
def copyBack (s : Block) (a : ArmSt) (data : List Byte) : Block :=
  (a.extents.foldl (fun (acc : Block × List Byte) e =>
    (innerWrite acc.1 (sketchWho acc.1) 1 e.1 (acc.2.take e.2), acc.2.drop e.2)) (s, data)).1

/-- Every member holds the step: the extents, N, S, and the settings that the manifest records (R468, R469). -/
def restoreDone (s : Block) (a : ArmSt) (r : RestoreSt) (c : RestoreCand) : Block :=
  let keep := leNat (slice c.man 48 1)
  let s := copyBack s a c.data
  let s := odModule s 0x9000 3 c.step.toNat
  let s := odModule s 0x9000 2 (leNat (slice c.man 40 8))
  let s := keepCause (odModule s 0x4310 1 (keep % 2)) 2 (keep % 2 == 1)
  let s := odModule s 0x9000 1 (leNat (slice c.man 49 1) % 2)
  let s := odModule s 0x9000 6 (leNat (slice c.man 50 1) % 2)
  let s := if leNat (slice c.man 56 8) = crc64 (settingsBytes s) then s else raiseAlarm s 0x12 unitSketch .ok c.step.toNat
  let s := sketchIdle { s with sketch := { s.sketch with restore := none, prevStep := c.step, relSteps := [c.step] } }
  completeSlot s sketchSeq r.idx

/-- The report of a candidate. -/
def restoreReport (r : RestoreSt) (c : RestoreCand) : List Byte :=
  natLe 8 c.step.toNat ++ natLe 1 (if c.ok then 1 else 0) ++ natLe 1 (if r.shape || c.shape then 1 else 0) ++ natLe 6 0

/-- A gathered report: STEP, ok, shape_seen. -/
def reportAt (s : Block) (a : ArmSt) (k : Nat) : Nat × Bool × Bool :=
  let p := gatheredMore a + 16 * k
  (memLe s p 8, memLe s (p + 8) 1 == 1, memLe s (p + 9) 1 == 1)

/-- A RESTORE goes on: it binds the exchange of its next candidate, or takes the reports that came. A failed exchange ends it
with ST_RESTORE_INCOMPLETE (log 34). -/
def restorePoll (s : Block) (a : ArmSt) (r : RestoreSt) : Block :=
  match r.todo with
  | [] => restoreFail s r (if r.shape then .restoreIncomplete else .restoreShape)
  | c :: rest =>
    let o := syncAt s 545
    if !r.bound then
      if (groupAt s a.sgidx).state ≠ 2 then restoreFail s r .restoreIncomplete
      else
        match bindGather s a 2 4 (gatheredMore a) 545 (restoreReport r c) with
        | some s1 => { s1 with sketch := { s1.sketch with restore := some { r with bound := true, shape := r.shape || c.shape } } }
        | none => s
    else if o.aborted then restoreFail s r .restoreIncomplete
    else if o.count = 0 then s
    else
      let rs := (List.range (groupAt s a.sgidx).m).map (reportAt s a)
      if rs.all (fun x => x.1 == c.step.toNat && x.2.1) then restoreDone s a r c
      else
        let s := fillArea s a rest
        { s with sketch := { s.sketch with restore := some { r with todo := rest, bound := false, shape := r.shape || rs.any (fun x => x.2.2) } } }

/-! ### What Sketch does by itself -/

/-- A generation goes on: exchanges are bound and their results taken, drains end (R462 to R465). -/
def genPoll (s : Block) (a : ArmSt) (g : GenSt) : Block :=
  let on := (groupAt s a.sgidx).state == 2
  match g.phase with
  | .exchanging =>
    let o := syncAt s 545
    if !g.bound then
      if !on then abandonGen s a g 0xFFFFFFFF
      else
        match bindGather s a 0 32 (gatheredEnts a) 545 (natLe 128 (shardBits (ownEnt s a g))) with
        | some s1 => genPut s1 { g with bound := true }
        | none => s
    else if o.aborted then abandonGen s a g 0xFFFFFFFF
    else if o.count = 0 then s
    else decideGen s a g
  | .draining => if g.drains.isEmpty then odPut (genPut s { g with phase := .closing }) 0xA000 2 4 else s
  | .closing =>
    let o := syncAt s 546
    if !g.bound then
      if !on then abandonGen s a g 0xFFFFFFFF
      else
        match bindGather s a 1 4 (gatheredMore a) 546 (natLe 2 (statusCode g.dstatus) ++ natLe 2 0 ++ natLe 4 (groupAt s a.sgidx).rank ++ natLe 8 0) with
        | some s1 => genPut s1 { g with bound := true }
        | none => s
    else if o.aborted then abandonGen s a g 0xFFFFFFFF
    else if o.count = 0 then s
    else closeGen s a g
  | .sealing =>
    if g.dstatus ≠ .ok then abandonGen s a g (groupAt s a.sgidx).rank
    else if g.drains.isEmpty then durableGen s a g
    else s
  | _ => s

/-- One cycle of Sketch. -/
def sketchTick (s : Block) : Block :=
  if powerState s < 2 then s
  else
    match s.sketch.armed with
    | none => s
    | some a =>
      match s.sketch.restore with
      | some r => restorePoll s a r
      | none =>
        match s.sketch.gen with
        | some g => genPoll s a g
        | none => s

/-- The drain of the generation fails. -/
def failDrain (s : Block) (st : Status) : Block :=
  match s.sketch.gen with
  | some g =>
    if (g.phase = GenPhase.draining ∨ g.phase = GenPhase.sealing) ∧ !g.drains.isEmpty then genPut s { g with drains := [], dstatus := st }
    else s
  | none => s

/-- Sketch is reset during a job (R369, R459): a copy fails, a drain fails, a RESTORE ends with its stream, and its collectives are
lost (R410). -/
def sketchReset (s : Block) : Block :=
  let s := match s.sketch.gen with
    | some g => if g.phase = GenPhase.copying ∨ g.phase = GenPhase.arming ∨ g.phase = GenPhase.armed then failCopy s g .unitReset else s
    | none => s
  let s := failDrain s .unitReset
  let s := if s.sketch.restore.isSome then sketchIdle { s with sketch := { s.sketch with restore := none } } else s
  loseEngine { s with sketch := { s.sketch with tail := [] } } (fun c => c.engine == 16)

/-! ### Storage's acknowledgements (R464, R498) -/

/-- Drain records that the peer's MDONE has passed are acknowledged. -/
def ackDrains (s : Block) : Block :=
  let done := fun (r : DrainRec) => decide (r.msg < (flowAt s 0).peerDone)
  let s := { s with sketch := { s.sketch with tail := s.sketch.tail.filter (fun x => !done x.2) } }
  match s.sketch.gen with
  | some g =>
    let bytes := ((g.drains.filter done).map (·.length)).foldl (· + ·) 0
    genPut s { g with drains := g.drains.filter (fun r => !done r), drained := g.drained + bytes }
  | none => s

/-- TRANSPORT_ACK (R498, R500): DONEOBJ counts the messages that the peer has completed; on flow 0 they acknowledge drain
records. -/
def execTransportAck (g : Segment) (s : State) : Host.Outcome State Fault Refusal := onBlock s fun s =>
  .next (if !ethUp s g.port then s else match takeAck s g with
    | none => discardSegment s
    | some (s1, n) =>
      if g.flow = 0 then ackDrains s1
      else if n = 0 then s1
      else ledgerFlush ((List.range n).foldl (fun s _ => signalAdd s (flowDoneObj (flowEntry s g.flow)) 1) s1))

/-- TRANSPORT_RTO (R498): a failure of flow 0 fails the drain at once (R464). -/
def execTransportRto (f : Fin 256) (seg : BitVec 32) (s : State) : Host.Outcome State Fault Refusal := onBlock s fun s =>
  .next (let (s1, failed) := takeRto s f seg.toNat
    if !failed then s1
    else if f = 0 then failDrain { s1 with sketch := { s1.sketch with tail := [] } } .flowFailed
    else ledgerFlush s1)

/-- Whether DRAIN_TIMEOUT has passed since a record was last handed over. -/
def drainLate (s : Block) (r : DrainRec) : Bool := decide (1000000 * odNat s 0xA010 2 ≤ hallNat s - r.since.toNat)

/-- A late record is sent again as a new message; a record sent four more times is given up (log 34). -/
def resendDrain (s : Block) (a : ArmSt) (step : Word) (man : List Byte) (r : DrainRec) : Block × Option DrainRec :=
  if 4 ≤ r.tries then (s, none) else (sendDrain s a step man r, some { r with tries := r.tries + 1, since := hallNow s })

/-- SKETCH_DRAIN_TIMEOUT (R464): the first record that is late. -/
def execSketchDrainTimeout (s : State) : Host.Outcome State Fault Refusal := onBlock s fun s =>
  .next (match s.sketch.armed with
    | none => s
    | some a =>
      if !flowOn (odNat s 0x7101 1) then s
      else
        match s.sketch.gen.bind (fun g => (g.drains.find? (drainLate s)).map (fun r => (g, r))) with
        | some (g, r) =>
          let (s1, r1) := resendDrain s a g.step g.manifest r
          match r1 with
          | some n => genPut s1 { g with drains := g.drains.map (fun x => if x = r then n else x) }
          | none => failDrain s1 .sketchAbandoned
        | none =>
          match s.sketch.tail.find? (fun x => drainLate s x.2) with
          | some x =>
            let (s1, r1) := resendDrain s a x.1 [] x.2
            let tail := match r1 with
              | some n => s1.sketch.tail.map (fun y => if y = x then (x.1, n) else y)
              | none => s1.sketch.tail.filter (fun y => y != x)
            { s1 with sketch := { s1.sketch with tail := tail } }
          | none => s)

end Sys2Proof.Machine
end

