-- ==== Sys2Proof/Machine/Counters.lean ====
section
/-! DEFINITION. Counters, snapshots, sampling, logs and alarms as software reads and sets them (R513 to R529). -/

namespace Sys2Proof.Machine

open Sys2Proof

/-- Units that have counters (R512). -/
def counterUnits : Nat := 737

/-! ### COUNTER_CONFIG (R513, R514) -/

/-- Whether a select word of unit `u`, counter `k` is no reserved encoding. -/
def selectOk (u k w : Nat) : Bool :=
  w >>> 12 == 0 && (k % 2 == 0 || !bit w 11) && (bits w 0 10 == 0 || eventListed (unitClass u) (bits w 0 10))

/-- Select word `j` of a COUNTER_CONFIG value. -/
def configWord (v j : Nat) : Nat := bits v (32 * j) 32

/-- Every select word is allowed. -/
def configOk (v : Nat) : Bool := (List.range (8 * counterUnits)).all (fun j => selectOk (j / 8) (j % 8) (configWord v j))

/-- A changed select word clears its counter and overflow bit. -/
def setConfig (s : Block) (v : Nat) : Block :=
  (List.range (8 * counterUnits)).foldl (fun s j =>
    let w := BitVec.ofNat 32 (configWord v j)
    let c := s.counters
    if tget 0 c.sel j = w then s
    else { s with counters := { c with sel := tset 0 c.sel j w, vals := tset 0 c.vals j 0, ovf := tset false c.ovf j false } }) s

/-- COUNTER_CONFIG as it reads. -/
def configBytes (s : Block) : List Byte :=
  (List.range (8 * counterUnits)).flatMap (fun j => natLe 4 (tget 0 s.counters.sel j).toNat)

/-! ### Reading counters (R518) -/

/-- Every counter as a U64, in unit order. -/
def counterBytes (s : Block) : List Byte :=
  (List.range (8 * counterUnits)).flatMap (fun j => natLe 8 (tget 0 s.counters.vals j))

/-- COUNTER_OVF: byte u, bit k. -/
def overflowBytes (s : Block) : List Byte :=
  (List.range counterUnits).map (fun u => BitVec.ofNat 8 ((List.range 8).foldl (fun n k =>
    if tget false s.counters.ovf (8 * u + k) then n + 2 ^ k else n) 0))

/-! ### Snapshots (R519 to R521) -/

/-- The snapshot record. -/
def snapRecord (s : Block) (requested : Word) (late : Bool) : List Byte :=
  let body := counterBytes s
  let frozen := odNat s 0xB020 3 == 1
  let mark := ownRack s + ownSlot s * 2 ^ 10 + (if late then 2 ^ 17 else 0) + odNat s 0x9400 2 % 8 * 2 ^ 18 + (if frozen then 2 ^ 21 else 0)
  natLe 4 counterUnits ++ natLe 4 ((odNat s 0xB020 5 + 1) % 2 ^ 32) ++ natLe 8 requested.toNat ++ natLe 8 (hallNat s) ++ natLe 8 mark ++
    natLe 8 (crc64 body) ++ natLe 24 0 ++ body

/-- Write a latched record once its lines take it; a refused write leaves it incomplete and is logged (R521; the class of that
record is log 38). -/
def snapWrite (s : Block) : Block :=
  match s.counters.latched with
  | none => s
  | some bs =>
    let a := odNat s 0xB020 2
    if !unitFree s a bs.length true then unitAsk s a bs.length true
    else
      let s := { s with counters := { s.counters with latched := none } }
      let bad := (linePieces a bs.length).findSome? (fun p => lineStatus s none .write p.1 p.2)
      let s := innerWrite s none 1 a bs
      match bad with
      | some st => (logOccur s 12 0 unitNone st 1 (BitVec.ofNat 64 a)).1
      | none => odPut s 0xB020 5 ((odNat s 0xB020 5 + 1) % 2 ^ 32)

/-- The latch edge: every counter is latched, and under FREEZE they stop. -/
def snapLatch (s : Block) (requested : Word) (late : Bool) : Block :=
  let r := snapRecord s requested late
  snapWrite { s with counters := { s.counters with latched := some r, sched := none, frozen := odNat s 0xB020 3 == 1 } }

/-- SNAPSHOT_LATCH (R519). -/
def execSnapshotLatch (s : State) : Host.Outcome State Fault Refusal := onBlock s fun s =>
  .next (match s.counters.sched with
    | some (t, late) => if t.toNat ≤ hallNat s then ledgerFlush (snapLatch s t late) else s
    | none => s)

/-- A write of SNAP_TIME: 0 cancels, a time already passed latches at once (R520, R521). -/
def setSnapTime (s : Block) (t : Nat) : Block :=
  if t = 0 then { s with counters := { s.counters with sched := none } }
  else if t < hallNat s then snapLatch s (BitVec.ofNat 64 t) true
  else { s with counters := { s.counters with sched := some (BitVec.ofNat 64 t, false) } }

/-- Writes to SNAP_TIME, SNAP_ADDR and SNAP_MODE are refused meanwhile (R521). -/
def snapBusy (s : Block) : Bool := s.counters.latched.isSome || s.counters.frozen

/-- THAW (R519). -/
def execThaw (s : State) : Host.Outcome State Fault Refusal := onBlock s fun s =>
  .next (if s.counters.frozen ∧ odNat s 0xB020 4 ≤ hallNat s then { s with counters := { s.counters with frozen := false } } else s)

/-! ### Logs and alarms -/

/-- LOG_TOKEN_REFILL (R526): a bucket gains a token. -/
def execLogTokenRefill (cls : Fin 14) (s : State) : Host.Outcome State Fault Refusal := onBlock s fun s =>
  .next { s with logs := { s.logs with spent := tset 0 s.logs.spent cls.val (tget 0 s.logs.spent cls.val - 1) } }

/-- The 64 bytes of a log record (R525). -/
def logBytes (r : LogRec) : List Byte :=
  natLe 8 r.seq ++ natLe 8 r.time.toNat ++ natLe 2 r.event ++ natLe 2 r.unit ++ natLe 2 (statusCode r.status) ++ natLe 1 r.severity ++
    natLe 1 0 ++ natLe 8 r.detail.toNat ++ natLe 4 r.suppressed ++ natLe 28 0

/-- The 32 bytes of an alarm entry (R527). -/
def alarmBytes (s : Block) (code : Nat) : List Byte :=
  let e := tget alarm0 s.logs.alarms code
  natLe 1 code ++ natLe 1 (if e.active then 1 else 0) ++ natLe 2 e.lastUnit ++ natLe 4 e.count ++ natLe 8 e.first.toNat ++
    natLe 8 e.last.toNat ++ natLe 8 e.detail.toNat

/-- An acknowledgement (R529). -/
def ackAlarm (s : Block) (v : Nat) : Block :=
  let code := v % 256
  let e := tget alarm0 s.logs.alarms code
  let e1 := { e with active := false }
  let e2 := if 256 ≤ v then { e1 with count := 0, first := 0 } else e1
  odSetBit { s with logs := { s.logs with alarms := tset alarm0 s.logs.alarms code e2 } } 0xB050 2 code false

/-! ### Sampling (R522 to R524) -/

/-- Write SAMPLE_PERIOD: a new N sets every countdown. -/
def setPeriod (s : Block) (v : Nat) : Block :=
  if odNat s 0xB030 1 = v then s else odPut { s with counters := { s.counters with down := [] } } 0xB030 1 v

/-- Bit of SAMPLE_CLASSES for a unit. -/
def sampleClass (u : Nat) : Nat :=
  match unitClass u with
  | 7 => 3
  | 8 => 4
  | c => c

/-- Write SAMPLE_CLASSES: the countdowns of a class that it enables are set to N. -/
def setClasses (s : Block) (v : Nat) : Block :=
  let old := odNat s 0xB030 2
  odPut { s with counters := { s.counters with down := s.counters.down.filter (fun e => bit old (sampleClass e.1)) } } 0xB030 2 v

/-- Write the records of the sample queues to the trace ring while their lines take them (R523, R524). -/
def traceFlushN : Nat → Block → Block
  | 0, s => s
  | fuel + 1, s =>
    match s.counters.traces with
    | [] => s
    | (_, bs) :: rest =>
      let left := { s with counters := { s.counters with traces := rest } }
      match traceSlot s with
      | none => traceFlushN fuel (odBump left 0xB030 7 1)
      | some a =>
        if !unitFree s a 32 true then unitAsk s a 32 true
        else traceFlushN fuel (odBump (innerWrite left none 1 a bs) 0xB030 5 1)

/-- Write what the sample queues hold. -/
def traceFlush (s : Block) : Block := traceFlushN s.counters.traces.length s

/-! ### Log buckets (R526) -/

/-- Write LOG_BURST: a bucket keeps its tokens as far as it still holds them. -/
def setBurst (s : Block) (v : Nat) : Block :=
  let old := odNat s 0xB040 3
  let keep (b : Nat) : Nat := v - min (old - tget 0 s.logs.spent b) v
  odPut { s with logs := { s.logs with spent := (List.range 14).foldl (fun t b => tset 0 t b (keep b)) s.logs.spent } } 0xB040 3 v

end Sys2Proof.Machine
end

