-- ==== Sys2Proof/Machine/Reset.lean ====
section
/-! DEFINITION. What resets and job assignments clear (R192, R203, R273, R327, R353, R374, R477, R514, R538), the boot chain
(R553 to R555), measurements (R562), and trips (R551, R552). -/

namespace Sys2Proof.Machine

open Sys2Proof

/-! ### The home epoch and the dictionary's defaults -/

/-- The next home epoch, skipping 0 (R327). -/
def nextEpoch (s : Block) : Block :=
  let e := (homeEpoch s + 1) % 2 ^ 32
  odPut s 0x1000 7 (if e = 0 then 1 else e)

/-- An entry that the JOB role may write. -/
def jobEntry (key : Nat) : Bool :=
  match odRow (key / 256) (key % 256) with
  | some r => bit r.wr 1
  | none => false

/-- Entries that JOB may write return to their defaults (R477). -/
def jobDefaults (s : Block) : Block := { s with od := s.od.filter (fun e => !jobEntry e.1) }

/-- Give entries back their defaults. -/
def odClear (s : Block) (l : List (Nat × Nat)) : Block :=
  { s with od := s.od.filter (fun e => !l.any (fun k => odKey k.1 k.2 == e.1)) }

/-- What a module published about streams, groups, flows, scribe, Sketch and launch: cleared with them. -/
def jobPublished : List (Nat × Nat) :=
  [(0x4330, 2), (0x6100, 1), (0x6100, 2), (0x7101, 1), (0x8000, 2), (0x8000, 3), (0x8020, 1), (0x9200, 5), (0xA000, 2), (0xA100, 2)]

/-- What it published about units, links and time: cleared at a module-level reset as well. -/
def unitPublished : List (Nat × Nat) :=
  [(0x2010, 5), (0x2101, 1), (0x2101, 2), (0x2101, 3), (0x2101, 4), (0x2101, 5), (0x2101, 6), (0x3010, 6), (0x3010, 7), (0x4310, 2),
   (0x4310, 3), (0x6000, 1), (0x7000, 1), (0x9400, 2)]

/-! ### What a job leaves behind -/

/-- Streams, sync objects, solves, groups, ownership, barriers, Sketch, flows and counters as a job assignment or a
module-level reset leaves them. -/
def clearJob (s : Block) : Block :=
  let s := odClear (jobDefaults s) jobPublished
  { s with
    sync := [], wraps := 0, seqs := [], plumb := [], harts := [], barriers := [], flows := []
    tiles := s.tiles.map (fun e => (e.1, { tile0 with phys := e.2.phys, testing := e.2.testing }))
    own := Block.reset.own, scribe := Block.reset.scribe, ledger := Block.reset.ledger, truss := Block.reset.truss
    sketch := Block.reset.sketch, counters := Block.reset.counters
    fab := { s.fab with tags := [] } }

/-- A job leaves the module: MEAS5 is zero, and the peer map holds the own slot alone (R316, R562). -/
def leaveJob (s : Block) : Block :=
  let s := if jobAssigned s then odPut s 0x6000 2 (2 ^ ownSlot s) else s
  { s with sec := { s.sec with meas := tset 0 s.sec.meas 5 0 }, launch := { Block.reset.launch with zeroing := s.launch.zeroing } }

/-- KEEP_FORCE_CAUSE after a reset: the start-up self-test is pending, and KEEP_FORCE stays a cause while it is NARROW (R135, R137). -/
def keepReset (s : Block) : Block := if odOn s 0x4310 1 then odSetBit s 0x4310 3 2 true else s

/-- Repairs whose record has not reached flash are lost, and their spares are free again (R297). -/
def dropRepairs (e : EccSt) : EccSt :=
  { e with
    repairing := []
    spareUse := e.repairing.foldl (fun t r => tset 0 t (Config.bankGroup r.2) (tget 0 t (Config.bankGroup r.2) - 1)) e.spareUse }

/-- Every unit loses its state; HBM keeps its contents with their marks, scratchpads and local stores lose theirs (R533, R538). -/
def clearUnits (s : Block) : Block :=
  let s := keepReset (odClear (clearJob (leaveJob s)) unitPublished)
  { s with
    tiles := [], dies := [], hbm := [], cache := [], coh := Block.reset.coh, fab := Block.reset.fab, arbs := []
    mem := tclear s.mem hbmEnd (2 ^ 41)
    ecc := { dropRepairs s.ecc with badWords := s.ecc.badWords.filter (fun w => decide (16 * w < hbmEnd)), rowCe := [] }
    time := { Block.reset.time with savedHall := s.time.savedHall }
    clk := { s.clk with hall := 0, third := 0, slew := 0 }
    launch := Block.reset.launch
    power := { s.power with floors := [], loops := [], low := 0, unitOff := [], retest := [], drains := [], zeroAfter := false, owed := none, replies := [] } }

/-- HBM loses its contents (R534, R552). -/
def loseHbm (s : Block) : Block := { s with mem := [], ecc := { s.ecc with badWords := [] } }

/-! ### Firmware (R553 to R555) -/

/-- The firmware of manufacture (log 36). -/
def fw0 : FwImg := ⟨0, 0, true⟩
def imageAt (s : Block) (bank typ : Nat) : FwImg := tget fw0 s.sec.images (4 * bank + typ)
def imagePut (s : Block) (bank typ : Nat) (x : FwImg) : Block :=
  { s with sec := { s.sec with images := tset fw0 s.sec.images (4 * bank + typ) x } }
/-- Whether a stage verifies: it is good and its SVN is at least the fused minimum (R554). -/
def stageGood (s : Block) (bank typ : Nat) : Bool :=
  (imageAt s bank typ).good && decide (tget 0 s.sec.fuses typ ≤ (imageAt s bank typ).svn)

/-- The bank whose stage boot uses: the active one, else the other with alarm 0x48; none when both fail (R555). -/
def bootStage (s : Block) (typ : Nat) : Block × Option Nat :=
  let a := s.sec.active % 2
  if stageGood s a typ then (s, some a)
  else
    let s := raiseAlarm s 0x48 unitNone .ok typ
    if stageGood s (1 - a) typ then (s, some (1 - a)) else (s, none)

/-- Verify and measure a stage into its register (R554). -/
def measureStage (s : Block) (typ : Nat) : Block × Bool :=
  match bootStage s typ with
  | (s, some b) => (measExtend s typ (imageAt s b typ).digest, true)
  | (s, none) => (s, false)

/-- PD, FD and the boot tables are verified and measured afresh; a stage that fails in both banks is counted (R555, R562). -/
def bootUnits (s : Block) : Block × Bool :=
  let s := measPut (measPut (measPut s 1 0) 2 0) 3 0
  let (s, a) := measureStage s 1
  let (s, b) := if a then measureStage s 2 else (s, false)
  let (s, c) := if b then measureStage s 3 else (s, false)
  (s, c)

/-! ### Power states (R533, R534, R541) -/

/-- A change of state that the module makes is recorded in the change log (R534). -/
def setPower (s : Block) (v : Nat) : Block :=
  if powerState s = v then s
  else odPut (chlogModule s 0x2000 1 2 (powerState s) v) 0x2000 1 v

/-- The module returns to OFF-AO with nothing in progress. -/
def toOff (s : Block) : Block :=
  let s := setPower (loseHbm (clearUnits s)) 0
  odPut { s with power := { s.power with goal := 0 } } 0x2000 3 2

/-- The point where STANDBY is reached: firmware verified and measured, harts held, a new home epoch (R541). A stage without a
good image leaves the module in OFF-AO. -/
def reachStandby (s : Block) : Block :=
  let (s, ok) := bootUnits s
  if !ok then toOff s
  else
    let s := setPower (nextEpoch s) 1
    if s.power.goal = 2 then odPut s 0x2000 3 5
    else odPut { s with power := { s.power with goal := 0 } } 0x2000 3 7

/-- A module-level reset: every unit stops at once with no completion record, and the module goes on from the point where
STANDBY is reached, towards READY (R538). -/
def moduleReset (s : Block) (cause : Nat) : Block :=
  let s := odPut (clearUnits s) 0x2000 4 cause
  reachStandby { s with power := { s.power with goal := 2 } }

/-! ### Trips (R551, R552) -/

/-- LAST_RESET_CAUSE of a trip, and its alarms are raised by who detects it. -/
def tripCode : TripCause → Nat
  | .clockLoss => 4
  | .thermal => 5
  | .input => 6
  | .coolant => 7
  | .overcurrent => 8

/-- A condition with its alarm. -/
abbrev Trips := List (TripCause × Nat)

/-- The trip conditions of one sample: their alarms, the lowest cause, OFF-AO, and the latch (R551, R552). -/
def tripNow (s : Block) (l : Trips) : Block :=
  match l with
  | [] => s
  | (c, _) :: t =>
    let s := l.foldl (fun s x => raiseAlarm s x.2 unitNone .ok (tripCode x.1)) s
    let cause := t.foldl (fun m x => min m (tripCode x.1)) (tripCode c)
    let s := toOff s
    let s := odPut (odPut s 0x2000 4 cause) 0x2000 5 1
    { s with power := { s.power with trip := s.power.trip ++ (l.map (·.1)).filter (fun x => !s.power.trip.contains x), absentAt := none } }

/-! ### Values published as F32 -/

/-- The F32 pattern nearest to a quotient. -/
def f32Ratio (neg : Bool) (num den : Nat) : Nat :=
  let q := num * 2 ^ 64 / den
  let odd := if num * 2 ^ 64 % den = 0 then 0 else 1
  (fpRound fp32 (.fin neg (2 * q + odd) (-65))).val

/-- Log an input fault (R574). -/
def inputFault (s : Block) (detail : Nat) : Block := (logOccur s 12 0 unitNone .ok 1 (BitVec.ofNat 64 detail)).1

end Sys2Proof.Machine
end

