-- ==== Sys2Proof/Machine/Func.lean ====
section
/-! DEFINITION. Disabling and enabling functions (R507 to R510), the end of a job (R473, R534), and unit resets (R369). -/

namespace Sys2Proof.Machine

open Sys2Proof

/-! ### Functions (R507) -/

/-- Key of a function: 1024·CLASS + INSTANCE; 0 stands for the end of a job. -/
def funcKey (cls inst : Nat) : Nat := 1024 * cls + inst
def keyClass (k : Nat) : Nat := k / 1024
def keyInst (k : Nat) : Nat := k % 1024

/-- Instances of a class. -/
def funcCount (s : Block) (cls : Nat) : Nat :=
  match cls with
  | 1 => 512
  | 2 => plumbGroups s
  | 3 => 16
  | 4 => 1
  | 5 => 12
  | 6 => 18
  | 7 => 2
  | _ => 0

/-- Subindex of OD 0x2101 that holds a class, and the bit of an instance. -/
def funcSub (cls : Nat) : Nat := if cls = 7 then 5 else if 5 < cls then cls - 1 else if cls = 5 then 4 else if cls = 4 then 6 else cls
def funcBit (cls inst : Nat) : Nat := if cls = 7 then 18 + inst else inst

/-- Whether a function is disabled. -/
def funcOff (s : Block) (cls inst : Nat) : Bool := bit (odNat s 0x2101 (funcSub cls)) (funcBit cls inst)

/-- The sequencer of a function. -/
def funcSeq (k : Nat) : Option Nat :=
  match keyClass k with
  | 1 => some (keyInst k)
  | 2 => some (512 + keyInst k)
  | 3 => some (528 + keyInst k)
  | 4 => some 544
  | _ => none

/-- An enable in progress is held beside the disables, above 2^16. -/
def enablingKey (k : Nat) : Nat := 65536 + k
def inProgress (s : Block) (k : Nat) : Bool := s.power.drains.any (fun d => d.1 == k || d.1 == enablingKey k)
def drainAdd (s : Block) (k : Nat) : Block := { s with power := { s.power with drains := s.power.drains ++ [(k, hallNow s)] } }
def drainDone (s : Block) (k : Nat) : Block := { s with power := { s.power with drains := s.power.drains.filter (fun d => d.1 != k) } }

/-! ### Responses (R488, R508, R510) -/

/-- A session number that names no session reads as this. -/
def session0 : Session := ⟨.observer, .t1s, 0, 0, [], 0, [], none, [], false, [], 0, 0, 0⟩
def sessAt (s : Block) (n : Nat) : Option Session := (s.sess.table.find? (fun e => e.1 == n)).map (·.2)
def sessPut (s : Block) (n : Nat) (x : Session) : Block := { s with sess := { s.sess with table := tset session0 s.sess.table n x } }

/-- The response to a request is kept and sent. -/
def respondNow (s : Block) (n typ seq : Nat) (st : Status) (payload : List Byte) : Block :=
  let s := match sessAt s n with
    | some x =>
      let kept := x.kept ++ [(seq, typ, st, payload)]
      sessPut s n { x with kept := kept.drop (kept.length - 64), highSeq := max x.highSeq seq, lastReq := hallNow s }
    | none => s
  emit s (.dict n typ seq st payload)

/-- The function that the request being answered has put in progress: its response follows when the disable or enable has ended. -/
def owedKey (s : Block) : Option Nat := s.power.owed.filter (fun k => inProgress s k)

/-- Answer a request: a response that is owed waits, any other is sent. -/
def replyOrOwe (s : Block) (n typ seq : Nat) (st : Status) (payload : List Byte) (now : Block → Block) : Block :=
  match owedKey s with
  | some k => { s with power := { s.power with owed := none, replies := s.power.replies ++ [⟨k, n, typ, seq, st, payload⟩] } }
  | none => now { s with power := { s.power with owed := none } }

/-- The responses that a function owes are sent; that of a session which has closed is not. -/
def sendOwed (s : Block) (k : Nat) : Block :=
  let rs := s.power.replies.filter (fun r => r.key == k)
  rs.foldl (fun s r =>
    if r.session = 0 then emit s (.dict 0 r.typ r.seq r.status r.payload)
    else if (sessAt s r.session).isSome then respondNow s r.session r.typ r.seq r.status r.payload
    else s) { s with power := { s.power with replies := s.power.replies.filter (fun r => r.key != k) } }

/-- FUNC_RESULT. -/
def funcResult (s : Block) (st : Status) : Block := odPut s 0x2100 3 (statusCode st)

/-! ### Disable (R508, R509) -/

/-- Intake of a sequencer stops: its launch object is aborted, no command that has not started is started, and a pending WAIT
ends with ABORTED; the stop stands at the first command that has not started. -/
def stopIntake (s : Block) (q : Nat) : Block :=
  let s := seqPut s q { seqAt s q with intake := false }
  let s := abortObj s q
  match (seqAt s q).stream with
  | some st =>
    match st.waiting, st.win.find? (fun c => c.phase == .fetched) with
    | some _, some c => stopStream s q c.idx .aborted 0
    | _, _ => s
  | none => s

/-- A port stops for good: it goes DOWN and requests outstanding on its plane move on (R324, R509). -/
def portOff (s : Block) (k : Nat) : Block :=
  let s1 := portPut (odSetByte s 0x6000 1 k 0) k { portAt s k with disabled := true, before := 0 }
  failPlane s s1 k (planeSlots s k)

/-- Hold the harts of a cluster. -/
def holdCluster (s : Block) (c : Nat) : Block :=
  (List.range 8).foldl (fun s j => hartPut s (8 * c + j) { hartAt s (8 * c + j) with held := true }) s

/-- Whether a sequencer has no started command left. -/
def seqDrained (s : Block) (q : Nat) : Bool :=
  match (seqAt s q).stream with
  | some st => !st.win.any (fun c => c.phase == .started)
  | none => true

/-- Whether a disable, or the end of a job, has drained. -/
def drained (s : Block) (k : Nat) : Bool :=
  if k = 0 then s.seqs.all (fun e => seqDrained s e.1)
  else match funcSeq k with
    | some q => seqDrained s q
    | none => true

/-- Problems of a group that are left at the timeout: those in flight end with ABORTED, the others with ST_NOT_STARTED. -/
def abortSolve (s : Block) (g : Nat) : Block :=
  match solveAt s g with
  | none => s
  | some x =>
    let flying := (List.range x.desc.count).filter (inFlight x)
    let s := flying.foldl (fun s i => endEmpty s g i x.desc .aborted { probAt x i with fcache := false }) s
    let rest := (List.range x.desc.count).filter (fun i => (probAt x i).ended.isNone && !flying.contains i)
    solvePut (rest.foldl (fun s i => endEmpty s g i x.desc .notStarted prob0) s) g none

/-- A weight load that has not completed is aborted: it has failed, and the shadow set is invalid (R91). -/
def abortLoad (s : Block) (t : Nat) : Block :=
  let x := tileAt s t
  if x.loading.isSome then tilePut s t { x with loading := none, shadow := { x.shadow with valid := false } } else s

/-- A drained stream ends: with ST_OK when it has met HALT, else with ABORTED (R508). -/
def endDrained (s : Block) (q : Nat) : Block :=
  let s := if isPlumbSeq q then abortSolve s (q - 512) else if isTileSeq q then abortLoad s q else s
  let s := doHalt s q
  faultStream s q .aborted false

/-- A disabled unit is gated: its sequencer is STOPPED, its bit is set, and the response is sent. -/
def gateUnit (s : Block) (k : Nat) : Block :=
  let cls := keyClass k
  let s := match funcSeq k with
    | some q =>
      let s := endDrained s q
      let s := seqPut s q { seqAt s q with running := false }
      if q < 512 then odSetBit s 0x4330 2 q true else s
    | none =>
      if cls = 5 then holdCluster s (keyInst k)
      else if cls = 6 then portOff s (keyInst k)
      else odSetByte s 0x7000 1 (keyInst k) 0
  let s := funcResult (odSetBit (drainDone s k) 0x2101 (funcSub cls) (funcBit cls (keyInst k)) true) .ok
  -- With the last engine disabled, every bound collective is lost (R410, R509).
  sendOwed (if cls = 3 ∧ odNat s 0x2101 3 % 2 ^ 16 = 2 ^ 16 - 1 then loseEngine s (fun _ => true) else s) k

/-! ### The end of a job (R473, R534) -/

/-- The drained streams end, the harts are held, the job leaves, and the module is in READY; a launch abort zeroes the memory. A keep mode
that waited for a step's release takes effect, since no job runs (R136). -/
def endJob (s : Block) : Block :=
  let qs := s.seqs.map (·.1)
  let s := qs.foldl endDrained s
  let s := qs.foldl (fun s q => seqPut s q { seqAt s q with intake := true }) s
  let zero := s.power.zeroAfter
  let s := setPower (leaveJob { drainDone s 0 with harts := [] }) 2
  let s := keepApply (if zero then zeroAll s else odPut s 0xA100 2 0)
  { s with power := { s.power with zeroAfter := false }, launch := { s.launch with zeroing := false } }

/-- RELEASE_JOB, and a launch abort, begin: intake of every unit stops. -/
def beginEndJob (s : Block) (zero : Bool) : Block :=
  let s := { s with power := { s.power with zeroAfter := zero } }
  let s := (s.seqs.map (·.1)).foldl stopIntake s
  let s := drainAdd s 0
  if drained s 0 then endJob s else s

/-- A disable that has drained is completed. -/
def settleDrain (s : Block) (k : Nat) : Block := if k = 0 then endJob s else gateUnit s k

/-- Disables and job ends that have drained are completed in the cycle in which they have. -/
def drainTick (s : Block) : Block :=
  (s.power.drains.filter (fun d => decide (d.1 < 65536))).foldl (fun s d => if drained s d.1 then settleDrain s d.1 else s) s

/-- DISABLE_DRAIN_TIMEOUT (R508): the first disable whose DRAIN_TIMEOUT has passed. -/
def execDisableDrainTimeout (s : State) : Host.Outcome State Fault Refusal := onBlock s fun s =>
  .next (match s.power.drains.find? (fun d => decide (d.1 < 65536) && decide (1000 * odNat s 0x2100 2 ≤ hallNat s - d.2.toNat)) with
    | some d => ledgerFlush (settleDrain s d.1)
    | none => s)

/-! ### FUNC_CONTROL (R507) -/

/-- What a value of FUNC_CONTROL is refused with, beyond the checks of R479. -/
def funcCheck (s : Block) (v : Nat) : Option Status :=
  let cls := bits v 0 4
  let inst := bits v 16 10
  if cls = 0 ∨ 7 < cls then some .malformed
  else if funcCount s cls ≤ inst then some .odRange
  else if cls = 1 ∧ tileAbsent s inst then some .tileAbsent
  else if inProgress s (funcKey cls inst) then some .odState
  else if (cls = 5 ∨ cls = 7) ∧ jobAssigned s then some .odState
  else if cls = 4 ∧ s.sketch.gen.isSome then some .sketchBusy
  else if cls == 4 && (match s.sketch.armed with | some a => a.mode != 0 | none => false) then some .odState
  else none

/-- An accepted write: a request for the state the function already has changes nothing; a disable starts to drain; an enable
starts its self-test, whose result FUNC_ENABLE brings. -/
def funcApply (s : Block) (v : Nat) : Block :=
  let cls := bits v 0 4
  let inst := bits v 16 10
  let k := funcKey cls inst
  if funcOff s cls inst = !bit v 4 then s
  else if bit v 4 then drainAdd { s with power := { s.power with owed := some k } } (enablingKey k)
  else
    let s := match funcSeq k with
      | some q => stopIntake s q
      | none => s
    let s := drainAdd s k
    if drained s k then gateUnit s k else { s with power := { s.power with owed := some k } }

/-- A unit is enabled (R510): its sequencer stays STOPPED until SIGNAL SET; a port trains. -/
def unitOn (s : Block) (k : Nat) : Block :=
  let cls := keyClass k
  let i := keyInst k
  let s := odSetBit s 0x2101 (funcSub cls) (funcBit cls i) false
  match funcSeq k with
  | some q => seqPut s q { seqAt s q with intake := true }
  | none =>
    if cls = 6 then odSetByte (portPut s i { portAt s i with disabled := false, before := 0 }) 0x6000 1 i 1
    else if cls = 7 then odSetByte s 0x7000 1 i 2
    else s

/-- The self-test of an enable ends (R510). A tile that fails is replaced while a spare remains (R26). The response is sent. -/
def endEnable (s : Block) (k : Nat) (r : TestResult) : Block :=
  let s := drainDone s (enablingKey k)
  let s := { s with power := { s.power with retest := s.power.retest.filter (fun u => u != k) } }
  let s := match r with
    | .pass => keepRecovery (funcResult (unitOn s k) .ok)
    | .fail =>
      if keyClass k = 1 then
        let t := keyInst k
        let left := (nextSpare s (dieOfTile t)).isSome
        let d := dieAt s (dieOfTile t)
        let s := match (tileAt s t).phys with
          | some (j + 1) => diePut s (dieOfTile t) { d with failed := BitVec.ofNat 4 (setBit d.failed.toNat j true) }
          | _ => s
        if left then keepRecovery (trySpare (funcResult (unitOn s k) .ok) t)
        else keepRecovery (trySpare (funcResult s .unitReset) t)
      else keepRecovery (funcResult s .unitReset)
  sendOwed s k

/-! ### Unit resets (R369) -/

/-- Unit number of a function. -/
def funcUnit (s : Block) (k : Nat) : Nat :=
  match keyClass k with
  | 1 => unitTile (keyInst k)
  | 2 => unitPlumb (keyInst k * (64 / plumbGroups s))
  | 3 => unitTruss (keyInst k)
  | 4 => unitSketch
  | 5 => unitHart (8 * keyInst k)
  | 6 => unitPort (keyInst k)
  | _ => unitEth (keyInst k)

/-- Outstanding requests of a cluster's harts are given up: answers that still arrive reach nothing (R369). -/
def orphanHarts (s : Block) (c : Nat) : Block :=
  let mine := fun (o : Outst) => match o.forWhom with
    | .hartLoad h => h.val / 8 == c
    | .hartStore h => h.val / 8 == c
    | .hartAtom h => h.val / 8 == c
    | _ => false
  let waits := s.coh.waiting.foldl (fun w e => tset [] w e.1 (e.2.filter (fun r => match r with
    | .amo h _ _ _ _ _ _ _ => h.val / 8 != c
    | _ => true))) []
  { s with coh := { s.coh with waiting := waits }, fab := { s.fab with
      outst := s.fab.outst.map (fun o => if mine o then { o with forWhom := .gone (unitHart (8 * c)) } else o)
      held := s.fab.held.filter (fun o => !mine o) } }

/-- Lines that a cluster holds. -/
def clusterLines (s : Block) (c : Nat) : List (Nat × HeldLine) :=
  (s.coh.held.filter (fun e => decide (e.1 % 16 = c))).map (fun e => (e.1 / 16, e.2))

/-- A dirty line of the bay's goes back to its home with CPUT (R344, R347); one of a region that the cluster owns as a write (R352). -/
def returnLine (s : Block) (c slot : Nat) (e : Nat × HeldLine) : Block :=
  let owned := s.own.mine.any (fun r => r.held && r.unit == c && r.slot == slot && r.region == rackLocal (e.1 * 128) / 0x200000)
  if e.2.dirty ∧ slot ≠ ownSlot s ∧ sameBay s slot ∧ ¬ owned then
    let tid := s.coh.nextTid
    sendCoh { s with coh := { s.coh with nextTid := tid + 1 } } 0x12 slot (lineOf (rackLocal (e.1 * 128)))
      (cohExt s tid.toNat c 0 0 0 true) .ok e.2.data
  else ownWriteBack s (8 * c) slot e

/-- What a cluster keeps of a line that it held in M and lost: no byte, and no answer to a recall, so that the recall ends at the home
under R346, which marks the line bad (R369). -/
def lostLine : HeldLine := ⟨true, false, []⟩

/-- One line of a cluster that is reset: written back when the reset is orderly; else, held in M, marked bad at its home (R291, R369). -/
def dropHeld (orderly : Bool) (c : Nat) (s : Block) (e : Nat × HeldLine) : Block :=
  let slot := rackSlot (e.1 * 128)
  let line := lineOf (rackLocal (e.1 * 128))
  let s := if orderly then returnLine s c slot e
    else if e.2.excl ∧ slot = ownSlot s then markLost s line
    else s
  let s := if e.2.excl ∧ slot = ownSlot s then dirPut s line { dirAt s line with st := .u, sharers := 0 } else s
  heldPut s e.1 c (if !orderly && e.2.excl && slot != ownSlot s then lostLine else held0)

/-- A cluster is reset: its lines, its regions and its harts. -/
def resetCluster (s : Block) (c : Nat) (orderly : Bool) : Block :=
  let s := (clusterLines s c).foldl (dropHeld orderly c) s
  let mine := s.own.mine.filter (fun r => r.unit == c && r.held)
  let s := { s with own := { s.own with mine := s.own.mine.filter (fun r => r.unit != c) } }
  let s := if orderly then
      let asks := mine.map (fun r => { r with tid := 65536, release := true, held := false, hart := none })
      sendReleases { s with own := { s.own with mine := s.own.mine ++ asks } }
    else forceRelease s (fun e => e.oslot == ownSlot s && e.ounit == c)
  (List.range 8).foldl (fun s j => hartPut s (8 * c + j) hart0) (orphanHarts s c)

/-- What a reset clears of a unit: its stream, the work it has in progress, and the regions it owns (R369). -/
def clearUnit (s : Block) (cls inst : Nat) (orderly : Bool) : Block :=
  match cls with
  | 1 =>
    let s := faultStream s inst .unitReset false
    let x := tileAt s inst
    odSetBit (seqPut (tilePut s inst { tile0 with phys := x.phys, testing := x.testing }) inst seq0) 0x4330 2 inst false
  | 2 => faultStream (solvePut s inst none) (512 + inst) .unitReset false
  | 3 =>
    let s := loseEngine s (fun c => c.engine == inst)
    let s := faultStream s (528 + inst) .unitReset false
    forceRelease s (fun e => e.oslot == ownSlot s && e.ounit == 16 + inst)
  | 4 =>
    let s := faultStream (sketchReset s) 544 .unitReset false
    forceRelease s (fun e => e.oslot == ownSlot s && e.ounit == 32)
  | _ => resetCluster s inst orderly

/-- A unit is reset: it is cleared, alarm 0x0A reports it, and its self-test is due. -/
def resetUnit (s : Block) (cls inst : Nat) (orderly : Bool) : Block :=
  let k := funcKey cls inst
  let s := clearUnit s cls inst orderly
  let s := raiseAlarm s 0x0A (funcUnit s k) .unitReset 0
  let s := { s with power := { s.power with retest := s.power.retest.filter (fun u => u != k) ++ [k] } }
  ledgerFlush (keepRecovery s)

/-- UNIT_RESET (R369): a tile, Plumb group, Truss engine, Sketch or cluster is reset during a job. -/
def execUnitReset (cls : BitVec 4) (inst : BitVec 10) (orderly : Bool) (s : State) : Host.Outcome State Fault Refusal := onBlock s fun s =>
  .next (if !jobAssigned s || decide (5 < cls.toNat) || decide (funcCount s cls.toNat ≤ inst.toNat) then s
    else resetUnit s cls.toNat inst.toNat orderly)

end Sys2Proof.Machine
end

