-- ==== Sys2Proof/Machine/Launch.lean ====
section
/-! DEFINITION. Job launch (R470 to R474, R495): the manifest, the image tree, replacement, start and abort; and the end of the
zeroing that a job assignment begins (R273). -/

namespace Sys2Proof.Machine

open Sys2Proof

/-! ### The manifest (R470) -/

/-- Offset of the chunk digest table, number of chunks, offset and length of the certificate chain, and the manifest's length. -/
structure ManLay where
  m     : Nat
  image : Nat
  chunk : Nat
  c     : Nat
  table : Nat
  chain : Nat
  nchain : Nat
  len   : Nat
deriving DecidableEq, Repr

def manLay (bs : List Byte) : ManLay :=
  let m := leNat (slice bs 4 4)
  let image := leNat (slice bs 16 8)
  let chunk := leNat (slice bs 56 4)
  let c := (image + chunk - 1) / chunk
  let table := 128 + 8 * m
  let chain := table + 64 * c
  let n := leNat (slice bs chain 4)
  ⟨m, image, chunk, c, table, chain, n, chain + 4 + n + 512⟩

/-- Fields within the ranges of R470's table. -/
def manRange (bs : List Byte) : Bool :=
  let l := manLay bs
  let load := leNat (slice bs 24 8)
  leNat (slice bs 0 4) == 1 && decide (1 ≤ l.m) && decide (l.m ≤ 65536) && decide (1 ≤ l.image) && decide (l.image ≤ 2 ^ 36) &&
    (List.range 7).any (fun k => l.chunk == 2 ^ (20 + k)) && load % 2097152 == 0 && decide (load + l.image ≤ hbmEnd) &&
    decide (leNat (slice bs 32 8) < hbmEnd) && decide (l.len ≤ 8388608)

/-- Reserved fields are zero, the member list's too, and so are the bytes that follow the manifest. -/
def manZero (bs : List Byte) : Bool :=
  let l := manLay bs
  leNat (slice bs 60 4) == 0 && (membersOf l.m (slice bs 128 (8 * l.m))).isSome && (bs.drop l.len).all (· == 0)

/-- The launcher's certificate, first of the chain. -/
def manCert (bs : List Byte) : List Byte :=
  let l := manLay bs
  let chain := slice bs (l.chain + 4) l.nchain
  chain.take (derLen chain)

/-- The chain is accepted for job manifests (R559), its first certificate is the one whose digest the manifest holds, and the
signature over every byte before it verifies. -/
def manVerified (s : Block) (bs : List Byte) : Bool :=
  let l := manLay bs
  Config.chainGood (slice bs (l.chain + 4) l.nchain) (anchorsFor s 2) (certTime s) &&
    (sha512 (manCert bs)).toNat == leNat (slice bs 64 64) && Config.sigGood (manCert bs) (bs.take (l.len - 512)) (slice bs (l.len - 512) 512)

/-- What a write of JOB_MANIFEST is refused with, beyond the checks of R479 that come before the state. Outside READY it is refused
before the manifest is checked. -/
def manifestCheck (s : Block) (bs : List Byte) : Option Status :=
  if powerState s ≠ 2 then some .odState
  else if !manRange bs then some .odRange
  else if !manZero bs then some .malformed
  else if !manVerified s bs then some .launchVerify
  else none

/-- Rank of the entry that names this module; M when none does (a spare that awaits its replacement message). -/
def ownRankIn (s : Block) (l : List Member) : Nat :=
  l.findIdx (fun m => m.rack.toNat == ownRack s && m.slot.toNat == ownSlot s)

/-- OD 0x6000.02: the members in this rack. -/
def peersOf (s : Block) (l : List Member) : Nat :=
  (l.filter (fun m => m.rack.toNat == ownRack s)).foldl (fun n m => setBit n m.slot.toNat true) (2 ^ ownSlot s)

/-- Ranks whose parent is a rank (R471: fan-out 8). -/
def launchChildren (m r : Nat) : List Nat := (List.range 8).filterMap (fun k => if 8 * r + 1 + k < m then some (8 * r + 1 + k) else none)

/-- An accepted manifest assigns the job: what the last one left is cleared, a new home epoch begins, the manifest is measured,
memory begins to be zeroed, and LAUNCH_STATE is RECEIVING (R273, R327, R470, R562). -/
def manifestApply (s : Block) (bs : List Byte) : Block :=
  let l := manLay bs
  let man := bs.take l.len
  let members := (membersOf l.m (slice bs 128 (8 * l.m))).getD []
  let s := measExtend (nextEpoch (clearJob s)) 5 (sha512 man)
  let s := odPut (odModule s 0x6000 2 (peersOf s members)) 0xA100 2 1
  let s := setPower s 3
  let rank := ownRankIn s members
  { s with launch := { Block.reset.launch with
      assigned := true, zeroing := true, jobId := BitVec.ofNat 64 (leNat (slice bs 8 8)), m := l.m, image := l.image
      load := leNat (slice bs 24 8), entry := BitVec.ofNat 64 (leNat (slice bs 32 8)), step0 := BitVec.ofNat 64 (leNat (slice bs 40 8))
      seed := BitVec.ofNat 64 (leNat (slice bs 48 8)), chunk := l.chunk, rank := rank, members := members
      table := (List.range l.c).map (fun k => BitVec.ofNat 512 (leNat (slice bs (l.table + 64 * k) 64)))
      children := if rank < l.m then launchChildren l.m rank else [], manifest := man } }

/-! ### The image tree (R471, R495) -/

/-- Bytes of chunk `c`. -/
def imgLen (s : Block) (c : Nat) : Nat := min s.launch.chunk (s.launch.image - c * s.launch.chunk)
/-- The image digest (R470). -/
def imageDigest (s : Block) : BitVec 512 := sha512 (s.launch.table.flatMap (fun d => natLe 64 d.toNat))
/-- Chunks not held, the lowest first. -/
def lowestMissing (s : Block) : Option Nat := (List.range s.launch.table.length).find? (fun c => !s.launch.have_.contains c)
/-- The k-th ancestor of a rank; none is the launcher. -/
def ancestor : Nat → Nat → Option Nat
  | 0, r => some r
  | k + 1, r => if r = 0 then none else ancestor k ((r - 1) / 8)
/-- Whether `a` lies one, two or three levels above `r`. -/
def isAncestor (a r : Nat) : Bool := [1, 2, 3].any (fun k => ancestor k r == some a)

/-- Send the segments of a chunk from an offset on; the cut into segments is the sender's, and one message stands for them all. -/
def sendImage (s : Block) (child c off : Nat) : Block :=
  emit s (.launchMsg (some child) 0x30 [c, off] (memRead s (s.launch.load + c * s.launch.chunk + off) (imgLen s c - off)))

/-- Serve a child from where it stands, when this member holds the chunk. -/
def serveChild (s : Block) (child : Nat) : Block :=
  let p := tget (0, 0) s.launch.progress child
  if s.launch.have_.contains p.1 then sendImage s child p.1 p.2 else s

/-- Set where a child stands. -/
def childAt (s : Block) (child c off : Nat) : Block :=
  { s with launch := { s.launch with progress := tset (0, 0) s.launch.progress child (c, off) } }

/-- ACK goes up once every chunk is held and every child has sent its own (R474). -/
def ackUp (s : Block) : Block :=
  if s.launch.ackSent ∨ (lowestMissing s).isSome ∨ s.launch.m ≤ s.launch.rank ∨ ¬ s.launch.children.all s.launch.acked.contains then s
  else
    let s := emit s (.launchMsg (ancestor (s.launch.upper + 1) s.launch.rank) 0x33 [s.launch.rank] (natLe 64 (imageDigest s).toNat))
    odPut { s with launch := { s.launch with ackSent := true } } 0xA100 2 2

/-- JOIN to the next ancestor (R472): the grandparent, the great-grandparent, then the launcher. -/
def joinNext (s : Block) : Block :=
  match lowestMissing s with
  | none => s
  | some c =>
    let k := min (s.launch.asked + 1) 3
    let to_ := if k = 3 then none else ancestor (k + 1) s.launch.rank
    emit { s with launch := { s.launch with asked := k } } (.launchMsg to_ 0x32 [s.launch.rank, c] [])

/-- A chunk is complete: verified, it is written, acknowledged and forwarded; else it is asked for twice more, and then the sender
counts as failed (R471). While memory is being zeroed it waits (R273). -/
def imgDone (s : Block) (from_ : Option Nat) (c : Nat) : Block :=
  let bs := tget [] s.launch.partials c
  if s.launch.zeroing ∨ bs.length < imgLen s c then s
  else
    let s := { s with launch := { s.launch with partials := tset [] s.launch.partials c [] } }
    if (sha512 bs).toNat = (s.launch.table.getD c 0).toNat then
      let s := innerWrite { s with launch := { s.launch with have_ := s.launch.have_ ++ [c], retries := tset 0 s.launch.retries c 0 } }
        none 1 (s.launch.load + c * s.launch.chunk) bs
      let waiting := s.launch.children.filter (fun k => (tget (0, 0) s.launch.progress k).1 == c)
      ackUp (waiting.foldl serveChild s)
    else
      let n := tget 0 s.launch.retries c + 1
      if n ≤ 2 then
        emit { s with launch := { s.launch with retries := tset 0 s.launch.retries c n } } (.launchMsg from_ 0x31 [c, 0] [])
      else joinNext { s with launch := { s.launch with retries := tset 0 s.launch.retries c 0 } }

/-- Whether a launch message is one of this job's. -/
def launchHere (s : Block) (src : LaunchFrom) : Bool := s.launch.assigned && src.jobId == s.launch.jobId

/-- L_CHUNK (R471, R472, R495): bytes that follow those received are kept; L_GOT answers after every 64 segments and at the end of
the chunk. A chunk already held is discarded. -/
def execLChunk (src : LaunchFrom) (chunk offset : Nat) (data : List Byte) (s : State) : Host.Outcome State Fault Refusal := onBlock s fun s =>
  .next (if !launchHere s src || decide (s.launch.table.length ≤ chunk) || s.launch.have_.contains chunk then s
    else
      let have0 := tget [] s.launch.partials chunk
      if have0.length < offset ∨ offset + data.length ≤ have0.length then s
      else
        let now := (have0 ++ data.drop (have0.length - offset)).take (imgLen s chunk)
        let up := if s.launch.asked ≠ s.launch.upper ∧ some src.rank = ancestor (s.launch.asked + 1) s.launch.rank then s.launch.asked
          else if s.launch.asked = 3 ∧ s.launch.m ≤ src.rank then 3 else s.launch.upper
        let full := decide (imgLen s chunk ≤ now.length)
        let segs := s.launch.segs + 1
        let s := { s with launch := { s.launch with
          partials := tset [] s.launch.partials chunk now, upper := up, segs := if full || segs == 64 then 0 else segs } }
        let s := if full || segs == 64 then emit s (.launchMsg (some src.rank) 0x31 [chunk, now.length] []) else s
        if full then ledgerFlush (imgDone s (some src.rank) chunk) else s)

/-- L_GOT (R495): the acknowledged offset of a child; at the end of a chunk the next one follows. -/
def execLGot (src : LaunchFrom) (chunk got : Nat) (s : State) : Host.Outcome State Fault Refusal := onBlock s fun s =>
  let p := tget (0, 0) s.launch.progress src.rank
  .next (if !launchHere s src || !s.launch.children.contains src.rank || p.1 != chunk then s
    else if imgLen s chunk ≤ got then serveChild (childAt s src.rank (chunk + 1) 0) src.rank
    else if got = 0 ∧ 0 < p.2 then serveChild (childAt s src.rank chunk 0) src.rank
    else childAt s src.rank chunk (max got p.2))

/-- L_CHUNK_RESEND_DUE (R495). -/
def execLChunkResendDue (child : Nat) (s : State) : Host.Outcome State Fault Refusal := onBlock s fun s =>
  .next (if s.launch.assigned ∧ s.launch.children.contains child then serveChild s child else s)

/-- LAUNCH_TIMEOUT (R472). -/
def execLaunchTimeout (s : State) : Host.Outcome State Fault Refusal := onBlock s fun s =>
  .next (if s.launch.assigned ∧ s.launch.rank < s.launch.m then joinNext s else s)

/-- L_JOIN (R472): an ancestor adopts the member, serves it and reports the silent member, its parent, to the launcher. -/
def execLJoin (src : LaunchFrom) (lowest : Nat) (s : State) : Host.Outcome State Fault Refusal := onBlock s fun s =>
  .next (if !launchHere s src || decide (s.launch.m ≤ src.rank) || decide (s.launch.m ≤ s.launch.rank) || !isAncestor s.launch.rank src.rank then s
    else
      let s := if s.launch.children.contains src.rank then s
        else
          let s := odBump { s with launch := { s.launch with children := s.launch.children ++ [src.rank] } } 0xA100 4 1
          emit s (.launchMsg none 0x34 [s.launch.rank, (src.rank - 1) / 8] [])
      serveChild (childAt s src.rank lowest 0) src.rank)

/-- L_ACK (R474): a child's acknowledgement of the image digest. -/
def execLAck (src : LaunchFrom) (digest : BitVec 512) (s : State) : Host.Outcome State Fault Refusal := onBlock s fun s =>
  .next (if !launchHere s src || !s.launch.children.contains src.rank || s.launch.acked.contains src.rank || digest != imageDigest s then s
    else ackUp { s with launch := { s.launch with acked := s.launch.acked ++ [src.rank] } })

/-- L_REPORT (R473, R495): the launcher's message; a member takes no part. -/
def execLReport (_src : LaunchFrom) (_silent : Nat) (s : State) : Host.Outcome State Fault Refusal := onBlock s fun s => .next s

/-! ### Replacement, start and abort (R473, R474, R495) -/

/-- Whether a signature by the launcher key verifies over a payload. -/
def launcherSigned (s : Block) (payload sig : List Byte) : Bool := Config.sigGood (manCert s.launch.manifest) payload sig

/-- A signed message that fails its check is refused with ST_LAUNCH_VERIFY. -/
def launchRefuse (s : Block) (typ : Nat) : Block := emit s (.dict 0 (typ + 0x80) 0 .launchVerify [])

/-- Pass a message down the tree. -/
def launchDown (s : Block) (typ : Nat) (args : List Nat) (sig : List Byte) : Block :=
  s.launch.children.foldl (fun s k => emit s (.launchMsg (some k) typ args sig)) s

/-- A member entry of R375. -/
def memberWord (m : Member) : Nat := m.slot.toNat + m.rack.toNat * 2 ^ 7 + (if m.istus then 2 ^ 20 else 0)

/-- L_REPLACE (R473): the replacement is verified, applied to the member list and passed on; the spare takes the rank, and its
parent serves it from chunk 0. -/
def execLReplace (src : LaunchFrom) (rank : Nat) (m : Member) (sig : List Byte) (s : State) : Host.Outcome State Fault Refusal := onBlock s fun s =>
  .next (if !launchHere s src then s
    else if s.launch.m ≤ rank ∨ ¬ launcherSigned s (natLe 8 src.jobId.toNat ++ natLe 4 rank ++ natLe 4 0 ++ natLe 8 (memberWord m)) sig then
      launchRefuse s 0x35
    else
      let members := s.launch.members.set rank m
      let mine := ownRankIn s members
      let s := { s with launch := { s.launch with members := members, rank := mine, acked := s.launch.acked.filter (· != rank) } }
      let s := launchDown (odModule s 0x6000 2 (peersOf s members)) 0x35 [rank, memberWord m] sig
      if s.launch.children.contains rank then serveChild (childAt s rank 0 0) rank else s)

/-- L_START (R474): N and the job seed are set and LAUNCH_STATE is STARTED; the harts start at TREL. -/
def execLStart (src : LaunchFrom) (trel : Word) (sig : List Byte) (s : State) : Host.Outcome State Fault Refusal := onBlock s fun s =>
  .next (if !launchHere s src then s
    else if !launcherSigned s (natLe 8 src.jobId.toNat ++ natLe 8 trel.toNat) sig then launchRefuse s 0x36
    else if odNat s 0xA100 2 ≠ 2 then s
    else
      let s := launchDown s 0x36 [trel.toNat] sig
      let s := odModule (odModule s 0x9000 3 s.launch.step0.toNat) 0x9000 2 s.launch.seed.toNat
      ledgerFlush { odPut s 0xA100 2 3 with launch := { s.launch with trel := some trel } })

/-- A hart as START leaves it: at ENTRY of this module in machine mode, a0 = mhartid, a1 = rank. -/
def startedHart (s : Block) (h : Nat) : Hart :=
  { hart0 with
    held := false, pc := BitVec.ofNat 64 (ownAddr s s.launch.entry.toNat)
    x := tset 0 (tset 0 [] 10 (BitVec.ofNat 64 h)) 11 (BitVec.ofNat 64 s.launch.rank) }

/-- HARTS_START (R474): at TREL every hart starts, but those of a disabled cluster. -/
def execHartsStart (s : State) : Host.Outcome State Fault Refusal := onBlock s fun s =>
  .next (match s.launch.trel with
    | none => s
    | some t =>
      if s.launch.started ∨ hallNat s < t.toNat then s
      else
        let s := { s with launch := { s.launch with started := true } }
        (List.range 96).foldl (fun s h => if funcOff s 5 (h / 8) then s else hartPut s h (startedHart s h)) s)

/-- L_ABORT (R473): the launch ends with LAUNCH_STATE ABORTED, memory is zeroed and the job leaves. -/
def execLAbort (src : LaunchFrom) (sig : List Byte) (s : State) : Host.Outcome State Fault Refusal := onBlock s fun s =>
  .next (if !launchHere s src then s
    else if !launcherSigned s (natLe 8 src.jobId.toNat ++ natLe 8 0) sig then launchRefuse s 0x37
    else ledgerFlush (beginEndJob (odPut (launchDown s 0x37 [0] sig) 0xA100 2 4) true))

/-! ### The end of zeroing (R273) -/

/-- JOB_ZEROING_DONE (R273): memory is zero, the new job's accesses that wait are served, and chunks that have come in are written. -/
def execJobZeroingDone (s : State) : Host.Outcome State Fault Refusal := onBlock s fun s =>
  .next (if s.launch.zeroing then
      let s := drainAll (zeroAll { s with launch := { s.launch with zeroing := false } })
      ledgerFlush ((s.launch.partials.map (·.1)).foldl (fun s c => imgDone s (ancestor (s.launch.upper + 1) s.launch.rank) c) s)
    else s)

end Sys2Proof.Machine
end

