-- ==== Sys2Proof/Machine/Sensors.lean ====
section
/-! DEFINITION. What the coolant sensors measure: thermistor resistances as temperatures and flow-meter pulses as a flow (R574, R576). -/

namespace Sys2Proof.Machine

open Sys2Proof

/-- exp(x / 2^60) · 2^60, by its series; |x| is at most 4 · 2^60 here. -/
def expFix (x : Int) : Int :=
  ((List.range 64).foldl (fun (a : Int × Int) k => (fun t => (a.1 + t, t)) (a.2 * x / (2 ^ 60 * ((k : Int) + 1)))) (2 ^ 60, 2 ^ 60)).1

/-- Resistance of a thermistor in mΩ at a temperature in thousandths of a degree Celsius: 10 kΩ · exp(3,435 · (1/T − 1/298.15)) (R576). -/
def thermRes (t : Int) : Int :=
  let k := t + 273150
  10000000 * expFix (3435000 * 2 ^ 60 * (298150 - k) / (k * 298150)) / 2 ^ 60

/-- Bisection: the resistance at `lo` is at least `r`, and that at `hi` is not. -/
def thermBetween (r : Int) : Nat → Int → Int → Int
  | 0, lo, _ => lo
  | fuel + 1, lo, hi =>
    let m := (lo + hi) / 2
    if r ≤ thermRes m then thermBetween r fuel m hi else thermBetween r fuel lo m

/-- Temperature of a resistance in mΩ, in thousandths of a degree; none outside the range of −20 °C to 120 °C (R574, R576). -/
def thermTemp (r : Int) : Option Int :=
  if thermRes (-20000) < r ∨ r < thermRes 120000 then none else some (thermBetween r 18 (-20000) 120001)

/-- The median of five readings (R574). -/
def median5 (l : List Nat) : Nat :=
  (l.find? (fun e => decide ((l.filter (fun x => decide (x < e))).length ≤ 2) && decide (3 ≤ (l.filter (fun x => decide (x ≤ e))).length))).getD 0

/-- What the module reads of a thermistor's last five resistances, in Ω: within half a degree from 10 °C to 60 °C; elsewhere the spec states
no accuracy (R574, R576; log 95). -/
def thermReading (s : Block) (rs : Vector Nat 5) : Option Int :=
  (thermTemp (1000 * (median5 rs.toList : Int))).map (fun t =>
    let e := Config.sensorError s.free
    t + (if 10000 ≤ t ∧ t ≤ 60000 then e % 1001 - 500 else e))

/-- Flow in mL/min of the pulses of the last 100 ms: a pulse is 1 mL (R574, R576). -/
def pulseFlow (pulses : Nat) : Nat := 600 * pulses

end Sys2Proof.Machine
end

