-- ==== Sys2Proof/Machine/Power.lean ====
section
/-! DEFINITION. Power states, start-up, resets, trips, the power loop and the pins of J6 (R533 to R552, R566 to R577). -/

namespace Sys2Proof.Machine

open Sys2Proof

/-! ### Input, cap and absence of trip conditions -/

/-- Samples of the last millisecond (R546). -/
def samplesMs : Nat := 100

/-- 1 ms average of the input voltage in mV, and A1 in mW (R546). -/
def avgMv (s : Block) : Nat := s.power.mv.foldl (· + ·) 0 / s.power.mv.length
def a1Mw (s : Block) : Nat := (List.zipWith (· * ·) s.power.mv s.power.ma).foldl (· + ·) 0 / (1000 * s.power.mv.length)

/-- Whether the 1 ms input voltage lies within 56 V to 70 V. -/
def inputInRange (s : Block) : Bool := s.power.mv.isEmpty || (decide (56000 ≤ avgMv s) && decide (avgMv s ≤ 70000))

/-- CAP_EFFECTIVE in mW (R547). -/
def capMw (s : Block) : Nat :=
  let cap := 1000 * odNat s 0x2010 3
  let cap := if s.power.mv.isEmpty then cap else min cap (75 * avgMv s)
  let cap := if 40000 < s.power.inlet then min cap (4200000 - 150 * (s.power.inlet - 40000).toNat) else cap
  if s.power.flow < 6000 then min cap (4200000 * s.power.flow / 6000) else cap

/-- Publish CAP_EFFECTIVE in whole watts. -/
def setCap (s : Block) : Block := if odNat s 0x2010 4 = capMw s / 1000 then s else odPut s 0x2010 4 (capMw s / 1000)

/-- Whether the condition of a latched trip is absent (R552). -/
def tripAbsent (s : Block) (c : TripCause) : Bool :=
  match c with
  | .clockLoss => s.power.refOk
  | .thermal => s.power.dieTemps.all (fun t => decide (t < odNat s 0x2030 2)) && (List.range 16).all (fun k => decide (odByte s 0x3010 7 k ≤ 85))
  | .input => inputInRange s
  | .coolant => !s.power.leak && decide (s.power.inlet ≤ 45000) && decide (3000 ≤ s.power.flow)
  | .overcurrent => s.power.ma.getLast?.all (fun x => decide (x ≤ 90000))

/-- Note the cycle since which every latched condition is absent. -/
def tripWatch (s : Block) : Block :=
  if s.power.trip.isEmpty then s
  else if s.power.trip.all (tripAbsent s) then
    match s.power.absentAt with
    | some _ => s
    | none => { s with power := { s.power with absentAt := some (BitVec.ofNat 64 s.clk.cycle) } }
  else { s with power := { s.power with absentAt := none } }

/-- Raise an alarm when a condition begins to hold. -/
def alarmEdge (s : Block) (code detail : Nat) (before now : Bool) : Block := if now && !before then raiseAlarm s code unitNone .ok detail else s

/-- FAULT# (contact 9 of J6): low while a trip is latched or any of alarms 0x40 to 0x47 is active. -/
def faultLow (s : Block) : Bool := !s.power.trip.isEmpty || (List.range 8).any (fun k => (tget alarm0 s.logs.alarms (0x40 + k)).active)

/-! ### POWER_CONTROL (R536) -/

/-- States that accept a command. -/
def powerAccepts : Nat → List Nat
  | 1 => [0, 1]
  | 2 => [0, 2]
  | 3 => [1, 2]
  | 4 => [3]
  | 5 => [2, 3]
  | 6 => [1, 2]
  | _ => []

/-- Whether PD, FD and the boot tables have an image that is not known to fail (R555). -/
def bootable (s : Block) : Bool := [1, 2, 3].all (fun typ => stageGood s 0 typ || stageGood s 1 typ)

/-- What a command is refused with. -/
def powerCheck (s : Block) (v : Nat) : Option Status :=
  if !(powerAccepts v).contains (powerState s) || ((v == 1 || v == 2) && !inputInRange s) || !s.power.trip.isEmpty || s.power.recovery ||
      (v == 1 && (s.power.blocked || !bootable s)) then some .odState
  else none

/-- Set what a start-up sequence goes to, and its stage. -/
def startSeq (s : Block) (goal stage : Nat) : Block := odPut { s with power := { s.power with goal := goal } } 0x2000 3 stage

/-- The island boots: MEAS0 is measured afresh; without a good management image it enters recovery mode (R555, R562). -/
def bootIsland (s : Block) : Block × Bool :=
  let (s, ok) := measureStage (measPut s 0 0) 0
  if ok then (s, true)
  else (odPut (raiseAlarm { s with power := { s.power with recovery := true } } 0x49 unitNone .ok 0) 0x2000 3 8, false)

/-- What sessions have staged is discarded (R490). -/
def dropStaged (s : Block) : Block :=
  { s with sess := { s.sess with table := s.sess.table.map (fun e => (e.1, { e.2 with stagedEnt := none, staged := [] })) } }

/-- A maintenance reset (R297, R490, R539): the island reboots from the bank named next, what sessions have staged is discarded, repairs
are made hard, the straps are read again. -/
def maintReset (s : Block) : Block :=
  let s := odPut (clearUnits (dropStaged s)) 0x2000 4 2
  let s := { s with
    sec := { s.sec with active := s.sec.next }
    ecc := { s.ecc with rows := s.ecc.rows.map (fun r => { r with hard := true }) }
    power := { s.power with straps := none } }
  match bootIsland (odPut s 0x3030 4 0) with
  | (s, true) => reachStandby { s with power := { s.power with goal := 2 } }
  | (s, false) => odPut (toOff s) 0x2000 3 8

/-- READY to STANDBY: every unit loses power, HBM keeps its contents (R533, R534). -/
def toStandby (s : Block) : Block := odPut (setPower (clearUnits s) 1) 0x2000 3 7

/-- An accepted command (R534, R536). -/
def powerApply (s : Block) (v : Nat) : Block :=
  match v with
  | 1 => if powerState s = 0 then startSeq s 2 3 else startSeq s 2 5
  | 2 => if powerState s = 0 then startSeq s 1 3 else toStandby s
  | 3 => toOff s
  | 4 => beginEndJob s false
  | 5 => moduleReset s 1
  | 6 => maintReset s
  | _ => s

/-! ### Start-up (R541, R542) -/

/-- Images found bad, by 4·bank + type. -/
def markImages (s : Block) (failures : List Nat) : Block :=
  failures.foldl (fun s k => imagePut s (k / 4) (k % 4) { imageAt s (k / 4) (k % 4) with good := false }) s

/-- STANDBY_REACHED (R541): the rails are up; firmware is verified and measured, in STANDBY with a new home epoch. -/
def execStandbyReached (failures : List Nat) (s : State) : Host.Outcome State Fault Refusal := onBlock s fun s =>
  .next (if powerState s ≠ 0 ∨ s.power.goal = 0 then s else reachStandby (markImages s failures))

/-- Tile numbers of a die left to map, in ascending order, on its good spares, in ascending order (R25). -/
def mapTiles (s : Block) : List Nat → List Nat → Block
  | [], _ => s
  | t :: ts, k :: ks =>
    let d := dieAt s (dieOfTile t)
    mapTiles (tilePut (diePut s (dieOfTile t) { d with used := BitVec.ofNat 4 (setBit d.used.toNat k true) }) t { tile0 with phys := some (k + 1) }) ts ks
  | t :: ts, [] => mapTiles (odSetBit (tilePut s t { tile0 with phys := none }) 0x2101 1 t true) ts []

/-- Tile self-test of a die: physical tile p of the module is number p mod 132 of die p div 132, exposed below 128 and a spare from
there on (log 37). -/
def testDie (failed : List Nat) (s : Block) (d : Nat) : Block :=
  let bad := (List.range 128).filter (fun k => failed.contains (132 * d + k))
  let spares := (List.range 4).filter (fun k => !failed.contains (132 * d + 128 + k))
  let mask := fun (l : List Nat) => BitVec.ofNat 4 (l.foldl (fun n k => setBit n k true) 0)
  let s := diePut s d { used := 0, failed := mask ((List.range 4).filter (fun k => !spares.contains k)), passed := mask spares }
  mapTiles s (bad.map (fun k => 128 * d + k)) spares

/-- The function of a unit that failed its self-test; none for units that no function holds. -/
def unitFunc (s : Block) (u : Nat) : Option Nat :=
  if 512 ≤ u ∧ u < 608 then some (funcKey 5 ((u - 512) / 8))
  else if 608 ≤ u ∧ u < 672 then some (funcKey 2 ((u - 608) * plumbGroups s / 64))
  else if 692 ≤ u ∧ u < 710 then some (funcKey 6 (u - 692))
  else if 710 ≤ u ∧ u < 712 then some (funcKey 7 (u - 710))
  else if 712 ≤ u ∧ u < 728 then some (funcKey 3 (u - 712))
  else if u = 728 then some (funcKey 4 0)
  else none

/-- A unit that failed stays disabled, with alarm 0x4A (R542). -/
def failUnit (s : Block) (u : Nat) : Block :=
  let s := match unitFunc s u with
    | some k => odSetBit s 0x2101 (funcSub (keyClass k)) (funcBit (keyClass k) (keyInst k)) true
    | none => s
  let s := match (unitFunc s u).bind funcSeq with
    | some q => seqPut s q { seqAt s q with running := false, intake := false }
    | none => s
  raiseAlarm s 0x4A u .ok u

/-- The start-up stops in STANDBY (R542). -/
def stopInStandby (s : Block) (stage : Nat) : Block :=
  startSeq { s with power := { s.power with blocked := true } } 0 stage

/-- The start-up sequence has passed its self-tests (R541, R542): what failed is replaced, disabled or left out, and the module is in
READY, or it stops in STANDBY. -/
def readyNow (s : Block) (failedTiles failedUnits failedPorts failedStacks : List Nat) : Block :=
  let s := failedStacks.foldl (fun s k => raiseAlarm s 0x4B (unitHbm k) .ok k) s
  if !failedStacks.isEmpty then stopInStandby s 5
  else if failedUnits.any (fun u => decide (512 ≤ u) && decide (u < 520)) then stopInStandby (failedUnits.foldl failUnit s) 6
  else if s.power.strapBad then stopInStandby (raiseAlarm s 0x4A unitNone .ok 0) 6
  else
    let s := failedUnits.foldl failUnit ((List.range 4).foldl (testDie failedTiles) s)
    let s := failedPorts.foldl (fun s k => raiseAlarm s 0x4C (unitPort k) .ok k) s
    let s := (List.range 18).foldl (fun s k =>
      let off := failedUnits.contains (unitPort k)
      let s := portPut s k { port0 with disabled := off }
      if off || failedPorts.contains k then s else odSetByte s 0x6000 1 k 2) s
    let s := (List.range 2).foldl (fun s k => if failedUnits.contains (unitEth k) then s else odSetByte s 0x7000 1 k 2) s
    let s := { s with
      hbm := (List.range 16).map (fun k => (k, { stackAt s k with trained := true }))
      power := { s.power with goal := 0, blocked := false } }
    let s := keepCause (keepCause (setPower s 2) 2 (odOn s 0x4310 1)) 0 false
    odPut s 0x2000 3 7

/-- READY_REACHED (R541, R542): training and self-tests end. -/
def execReadyReached (failedTiles failedUnits failedPorts failedStacks : List Nat) (s : State) : Host.Outcome State Fault Refusal := onBlock s fun s =>
  .next (if powerState s ≠ 1 ∨ s.power.goal ≠ 2 then s else readyNow s failedTiles failedUnits failedPorts failedStacks)

/-! ### Module-level resets that no command asks for (R29, R537, R545) -/

/-- Whether a module-level reset can be taken: READY and RUN (R534). -/
def resettable (s : Block) : Bool := decide (2 ≤ powerState s)

/-- WATCHDOG_EXPIRY (R537). -/
def execWatchdogExpiry (s : State) : Host.Outcome State Fault Refusal := onBlock s fun s => .next (if resettable s then moduleReset s 9 else s)

/-- PLL_LOCK_LOSS (R545). -/
def execPllLockLoss (s : State) : Host.Outcome State Fault Refusal := onBlock s fun s =>
  .next (if resettable s then moduleReset (raiseAlarm s 0x4E unitNone .ok 4) 4 else s)

/-- RIDGE_LINK_FAILURE (R29): alarm 0x01, and a module-level reset. -/
def execRidgeLinkFailure (link : Fin 15) (s : State) : Host.Outcome State Fault Refusal := onBlock s fun s =>
  .next (if resettable s then moduleReset (raiseAlarm s 0x01 unitNone .ok link) 3 else s)

/-- REFERENCE_LOSS (R545). -/
def execReferenceLoss (s : State) : Host.Outcome State Fault Refusal := onBlock s fun s =>
  .next (if !s.power.inputHeld || !s.power.refOk then s
    else tripNow { s with power := { s.power with refOk := false } } [(.clockLoss, 0x4E)])

/-- REFERENCE_RESTORED (R545). -/
def execReferenceRestored (s : State) : Host.Outcome State Fault Refusal := onBlock s fun s => .next (tripWatch { s with power := { s.power with refOk := true } })

/-! ### Input (R540, R567, R572) -/

/-- INPUT_APPLIED (R540): 64 V appears behind the switch. -/
def execInputApplied (s : State) : Host.Outcome State Fault Refusal := onBlock s fun s =>
  .next (if s.power.inputHeld then s else { s with power := { s.power with inputOn := true, modEn := true } })

/-- The payload of ANNOUNCE (R487): serial, rack, slot and state. -/
def announceBytes (s : Block) : List Byte := natLe 16 (odNat s 0x1000 3) ++ natLe 2 (ownRack s) ++ natLe 1 (ownSlot s) ++ natLe 1 (powerState s)

/-- INPUT_HELD_IN_RANGE (R540): the island starts; power-on clears MEAS0, MEAS4 and MEAS6 (R562). -/
def execInputHeldInRange (s : State) : Host.Outcome State Fault Refusal := onBlock s fun s =>
  .next (if !s.power.inputOn || s.power.inputHeld then s
    else
      let s := odPut { s with power := { s.power with inputHeld := true } } 0x2000 4 0
      match bootIsland (measPut (measPut s 4 0) 6 0) with
      | (s, true) => let s := odPut s 0x2000 3 2; emit s (.announce (announceBytes s))
      | (s, false) => s)

/-- Ones among the straps (R572). -/
def strapOnes (ga ra : Nat) (gap : Bool) : Nat :=
  ((List.range 7).filter (bit ga)).length + ((List.range 10).filter (bit ra)).length + (if gap then 1 else 0)

/-- STRAP_READ (R572): once after input is present. An even parity or a slot beyond 71 raises alarm 0x4A. -/
def execStrapRead (ga : BitVec 7) (ra : BitVec 10) (parity : Bool) (s : State) : Host.Outcome State Fault Refusal := onBlock s fun s =>
  .next (if !s.power.inputOn || s.power.straps.isSome then s
    else
      let bad := strapOnes ga.toNat ra.toNat parity % 2 == 0 || decide (71 < ga.toNat)
      let s := { s with power := { s.power with straps := some (ga, ra, parity), strapBad := bad } }
      let s := odPut (odPut s 0x1000 6 ga.toNat) 0x1000 5 ra.toNat
      -- JOB_PEERS holds the own slot alone where nothing has set it (R339).
      let s := if odNat s 0x6000 2 = 0 then odPut s 0x6000 2 (2 ^ ga.toNat) else s
      if bad then raiseAlarm s 0x4A unitNone .ok ga.toNat else s)

/-- Entries that on-module flash holds (R301, R327, R477, R502). -/
def odFlash (key : Nat) : Bool :=
  key / 256 == 0x3030 || key == odKey 0x1000 7 || key / 256 == 0x1020 ||
    (match odRow (key / 256) (key % 256) with
     | some r => r.wr != 0 && !bit r.wr 1
     | none => false)

/-- What is left when power is lost: flash and fuses (R297, R477, R502, R504, R553, R559). -/
def powerLost (s : Block) : Block :=
  let s := chlogCut s
  { Block.reset with
    tx := s.tx, free := s.free + 1
    clk := { Block.reset.clk with cycle := s.clk.cycle }
    od := s.od.filter (fun e => odFlash e.1)
    chlog := s.chlog
    ecc := { Block.reset.ecc with retired := s.ecc.retired, rows := s.ecc.rows, spareUse := (dropRepairs s.ecc).spareUse }
    time := { Block.reset.time with savedHall := s.time.savedHall }
    sec := { s.sec with meas := [] } }

/-- MOD_EN_FALL (R567): the input switch opens, as for a removal of 64 V. -/
def execModEnFall (s : State) : Host.Outcome State Fault Refusal := onBlock s fun s =>
  .next (let s := powerLost s; { s with power := { s.power with modEn := false } })

/-! ### Gate levels (R548 to R550) -/

/-- Level of a die: the greater of its floor and the power loop's level. -/
def gateLevel (s : Block) (d : Nat) : Nat := max (tget 0 s.power.floors d) (tget 0 s.power.loops d)

/-- Publish GATE_LEVEL, and raise alarm 0x42 when a tensor die's level is above 0 and the alarm is not active. -/
def setGates (s : Block) : Block :=
  let s := (List.range 10).foldl (fun s d => if odByte s 0x2010 5 d = gateLevel s d then s else odSetByte s 0x2010 5 d (gateLevel s d)) s
  if (List.range 4).any (fun d => decide (0 < gateLevel s d)) && !(tget alarm0 s.logs.alarms 0x42).active then raiseAlarm s 0x42 unitNone .ok 0
  else s

/-- Set the power loop's level of dies. -/
def loopsMap (s : Block) (ds : List Nat) (f : Nat → Nat) : Block :=
  { s with power := { s.power with loops := ds.foldl (fun t d => tset 0 t d (f (tget 0 t d))) s.power.loops } }

def tensorDies : List Nat := [0, 1, 2, 3]
def otherDies : List Nat := [4, 5, 6, 7, 8, 9]
def levelUp (n : Nat) (x : Nat) : Nat := min 7 (x + n)

/-- One evaluation of the power loop (R549): the levels rise above the cap and fall well below it. -/
def powerLoop (s : Block) : Block :=
  let s := if tensorDies.any (fun d => decide (0 < gateLevel s d)) then odBump s 0x2010 6 1000000 else s
  let a := a1Mw s
  let cap := capMw s
  let s :=
    if cap < a then
      let s := { s with power := { s.power with low := 0 } }
      if tensorDies.all (fun d => tget 0 s.power.loops d == 7) then loopsMap s otherDies (levelUp 1) else loopsMap s tensorDies (levelUp 1)
    else if a + 200000 < cap then
      if s.power.low + 1 < 10 then { s with power := { s.power with low := s.power.low + 1 } }
      else
        let s := { s with power := { s.power with low := 0 } }
        if otherDies.any (fun d => decide (0 < tget 0 s.power.loops d)) then loopsMap s otherDies (· - 1) else loopsMap s tensorDies (· - 1)
    else { s with power := { s.power with low := 0 } }
  ledgerFlush (setGates s)

/-- POWER_LOOP_EVALUATION (R549). -/
def execPowerLoopEvaluation (s : State) : Host.Outcome State Fault Refusal := onBlock s fun s =>
  .next (if powerState s < 2 ∨ s.power.mv = [] then s
    else powerLoop s)

/-! ### Samples (R546, R549 to R551) -/

/-- What the input sensors give (R546, R549, R551): published, limited, alarmed and tripped. -/
def inputNow (s : Block) (milliVolts milliAmps : Nat) : Block :=
  let last := s.power.mv.getLast?
  let keep := fun (l : List Nat) (x : Nat) => (l ++ [x]).drop (l.length + 1 - samplesMs)
  let count := fun (b : Bool) (n : Nat) => if b then n + 1 else 0
  let s := { s with power := { s.power with
    mv := keep s.power.mv milliVolts, ma := keep s.power.ma milliAmps
    overV := count (decide (74000 < milliVolts)) s.power.overV, overI := count (decide (90000 < milliAmps)) s.power.overI } }
  let s := odPut (odPut s 0x2010 1 (f32Ratio false milliVolts 1000)) 0x2010 2 (f32Ratio false (a1Mw s) 1000)
  let s := setCap s
  let low := decide (milliVolts < 45000) || (s.power.mv.length == samplesMs && decide (avgMv s < 50000))
  let trips : Trips := (if low then [(.input, 0x40)] else []) ++ (if samplesMs < s.power.overV then [(.input, 0x41)] else []) ++
    (if 10 < s.power.overI then [(.overcurrent, 0x4D)] else [])
  let fresh := trips.filter (fun x => !s.power.trip.contains x.1)
  if !fresh.isEmpty then tripWatch (tripNow s fresh)
  else
    -- The input leaves its range during a start-up sequence: an alarm, and the module lowers its rails.
    let before := fun (p : Nat → Bool) => s.power.goal == 0 && last.any p
    let s := alarmEdge s 0x40 milliVolts (before (fun x => decide (x < 56000))) (decide (milliVolts < 56000))
    let s := alarmEdge s 0x41 milliVolts (before (fun x => decide (70000 < x))) (decide (70000 < milliVolts))
    let s := if s.power.goal ≠ 0 ∧ (milliVolts < 56000 ∨ 70000 < milliVolts) then toOff s else s
    let s := if 2 ≤ powerState s ∧ 4800000000 < milliVolts * milliAmps then setGates (loopsMap s (tensorDies ++ otherDies) (levelUp 2)) else s
    ledgerFlush (tripWatch s)

/-- INPUT_SAMPLE (R546, R549, R551): voltage and current; a condition that must hold for a time has held from its first sample. -/
def execInputSample (milliVolts milliAmps : Nat) (s : State) : Host.Outcome State Fault Refusal := onBlock s fun s =>
  .next (if !s.power.inputHeld then s
    else inputNow s milliVolts milliAmps)

/-- The threshold that sets a floor (R550). -/
def dieThreshold (s : Block) (f : Nat) : Nat := odNat s 0x2030 (f / 2 + 1)

/-- The floor after a reading: the highest reached, or one already in force that the reading has not left by 3 °C. -/
def dieFloor (s : Block) (now t : Nat) : Nat :=
  [2, 4, 6].foldl (fun m f => if dieThreshold s f ≤ t ∨ (f ≤ now ∧ dieThreshold s f < t + 3) then f else m) 0

/-- What the die sensors give (R550, R551): floors of throttling, alarms, and a trip at the third reading of 115 °C in a row. -/
def dieTempsNow (s : Block) (temps : List Nat) : Block :=
  let s := odPut { s with power := { s.power with dieTemps := temps } } 0x2030 1 (leNat (temps.map (BitVec.ofNat 8)))
  let s := (List.range 10).foldl (fun s d =>
    let t := temps.getD d 0
    let old := tget 0 s.power.floors d
    let new := if powerState s < 2 then 0 else dieFloor s old t
    let hot := if 115 ≤ t then tget 0 s.power.dieHot d + 1 else 0
    let s := { s with power := { s.power with floors := tset 0 s.power.floors d new, dieHot := tset 0 s.power.dieHot d hot } }
    let s := if old = 0 ∧ 0 < new then tallyAdd s unitNone .dieFloor 1 else s
    if old < new ∧ 4 ≤ new then raiseAlarm s 0x43 unitNone .ok d else s) s
  if (List.range 10).any (fun d => decide (3 ≤ tget 0 s.power.dieHot d)) && !s.power.trip.contains .thermal then
    tripWatch (tripNow s [(.thermal, 0x44)])
  else ledgerFlush (tripWatch (setGates s))

/-- DIE_TEMP_SAMPLE (R550, R551). -/
def execDieTempSample (temps : Vector Nat 10) (s : State) : Host.Outcome State Fault Refusal := onBlock s fun s =>
  .next (if !s.power.inputHeld then s
    else dieTempsNow s temps.toList)

/-- STACK_TEMP_SAMPLE (R285 to R287, R551). -/
def execStackTempSample (stack : Fin 16) (reading : Option (BitVec 8)) (s : State) : Host.Outcome State Fault Refusal := onBlock s fun s =>
  let hot := match reading with
    | some t => decide (105 ≤ t.toNat)
    | none => false
  .next (let on := decide (2 ≤ powerState s)
    let s := stackSample stack reading s
    if on && hot then tripWatch (tripNow s [(.thermal, 0x44)]) else tripWatch s)

/-- What the coolant sensors give: published, limited, alarmed and tripped (R546, R547, R551). -/
def coolantNow (s : Block) (inlet outlet : Int) (flow : Nat) (sampled : Bool) : Block :=
  let old := s.power
  let step := if sampled then 1 else 0
  let s := { s with power := { s.power with
    inlet := inlet, outlet := outlet, flow := flow
    inletBad := if 45000 < inlet then s.power.inletBad + step else 0
    flowBad := if flow < 3000 then s.power.flowBad + step else 0 } }
  let s := odPut s 0x2040 1 (f32Ratio (decide (inlet < 0)) inlet.natAbs 1000)
  let s := odPut s 0x2040 2 (f32Ratio (decide (outlet < 0)) outlet.natAbs 1000)
  let s := setCap (odPut s 0x2040 3 (f32Ratio false flow 1000))
  let trips : Trips := (if 100 < s.power.inletBad then [(.coolant, 0x45)] else []) ++ (if 100 < s.power.flowBad then [(.coolant, 0x46)] else [])
  if !trips.isEmpty && !s.power.trip.contains .coolant then tripWatch (tripNow s trips)
  else
    let s := alarmEdge s 0x45 inlet.natAbs (decide (40000 < old.inlet)) (decide (40000 < inlet))
    ledgerFlush (tripWatch (alarmEdge s 0x46 flow (decide (old.flow < 6000)) (decide (flow < 6000))))

/-- The fault of an input, by its contact of J6: its beginning is logged (R574). -/
def inputState (s : Block) (contact : Nat) (bad : Bool) : Block :=
  let s := if bad && !s.power.badInputs.contains contact then inputFault s contact else s
  let rest := s.power.badInputs.filter (fun c => c != contact)
  { s with power := { s.power with badInputs := if bad then contact :: rest else rest } }

/-- What a sample of the coolant gives: a failed inlet sensor reads 100.0 °C, a failed outlet sensor 0.0; each fault is logged (R574). -/
def coolantTaken (s : Block) (inlet outlet : Option Int) (flow : Nat) : Block :=
  let s := inputState (inputState s 12 inlet.isNone) 13 outlet.isNone
  let s := if flow = 0 then s else inputState s 15 false
  coolantNow s (inlet.getD 100000) (outlet.getD 0) flow true

/-- COOLANT_SAMPLE (R546, R574, R576): the last five resistances of each thermistor, in Ω, and the pulses of the last 100 ms. -/
def execCoolantSample (inlet outlet : Vector Nat 5) (pulses : Nat) (s : State) : Host.Outcome State Fault Refusal := onBlock s fun s =>
  .next (if !s.power.inputHeld then s
    else coolantTaken (freeNext (freeNext s).2).2 (thermReading s inlet) (thermReading (freeNext s).2 outlet) (pulseFlow pulses))

/-- FLOW_PULSE_LOSS (R574). -/
def execFlowPulseLoss (s : State) : Host.Outcome State Fault Refusal := onBlock s fun s =>
  .next (if !s.power.inputHeld then s else coolantNow (inputState s 15 true) s.power.inlet s.power.outlet 0 false)

/-- LEAK_ASSERTED (R575): wet or open for 1 ms trips the module. -/
def execLeakAsserted (s : State) : Host.Outcome State Fault Refusal := onBlock s fun s =>
  .next (if !s.power.inputHeld || s.power.leak then s
    else tripWatch (tripNow (odPut { s with power := { s.power with leak := true } } 0x2040 4 1) [(.coolant, 0x47)]))

/-- LEAK_DEASSERTED (R575). -/
def execLeakDeasserted (s : State) : Host.Outcome State Fault Refusal := onBlock s fun s =>
  .next (if s.power.leak then tripWatch (odPut { s with power := { s.power with leak := false } } 0x2040 4 0) else s)

/-- Cycles of clk600 in 10 s. -/
def tripHold : Nat := 6000000000

/-- TRIP_LATCH_CLEARED (R552): the conditions have been absent for 10 s. -/
def execTripLatchCleared (s : State) : Host.Outcome State Fault Refusal := onBlock s fun s =>
  .next (match s.power.absentAt with
    | none => s
    | some t =>
      if s.power.trip.isEmpty ∨ s.clk.cycle < t.toNat + tripHold then s
      else odPut { s with power := { s.power with trip := [], absentAt := none } } 0x2000 5 0)

/-! ### Powering off idle units (R535) -/

/-- The sequencer of a tile, a Plumb cluster or a Truss engine. -/
def unitSeq (s : Block) (u : Nat) : Option Nat :=
  if u < 512 then some u
  else if 608 ≤ u ∧ u < 672 then some (512 + (u - 608) * plumbGroups s / 64)
  else if 712 ≤ u ∧ u < 728 then some (528 + (u - 712))
  else none

/-- Whether a unit has work: a tile or a Plumb cluster while its sequencer has a stream, a Truss engine while it has one or a collective
too, a Tenon port while packets wait on it or flits of it are not acknowledged. The other units never count as idle (R35). -/
def unitWorks (s : Block) (u : Nat) : Bool :=
  if 692 ≤ u ∧ u < 710 then
    let p := portAt s (u - 692)
    decide (portWaiting p ≠ 0) || !p.unacked.isEmpty
  else
    match unitSeq s u with
    | some q => (seqAt s q).stream.isSome || s.truss.colls.any (fun c => 528 + c.engine == q)
    | none => true

/-- GATE_DELAY_EXPIRY (R535): an idle unit is powered off with its state in retention; only timing changes. -/
def execGateDelayExpiry (unit : Fin 737) (s : State) : Host.Outcome State Fault Refusal := onBlock s fun s =>
  .next (if powerState s < 2 ∨ unitWorks s unit then s else { s with power := { s.power with unitOff := tset 0 s.power.unitOff unit 1 } })

/-- Units that have work again are powered. -/
def wakeUnits (s : Block) : Block :=
  { s with power := { s.power with unitOff := s.power.unitOff.filter (fun e => !unitWorks s e.1) } }

end Sys2Proof.Machine
end

