-- ==== Sys2Proof/Machine/Security.lean ====
section
/-! DEFINITION. Firmware banks (R556, R557), the identity certificate (R558 to R561), claiming (R560) and quotes (R563). -/

namespace Sys2Proof.Machine

open Sys2Proof

/-! ### Firmware -/

/-- Fused minimum SVN of a type. -/
def fuseAt (s : Block) (typ : Nat) : Nat := tget 0 s.sec.fuses typ

/-- An image that verifies (R554): type, SVN and header digest. -/
def goodImage (s : Block) (bytes : List Byte) : Option (Nat × Nat × Nat) :=
  match Config.fwImage bytes with
  | some (typ, svn, d) => if typ < 4 ∧ svn < 256 ∧ fuseAt s typ ≤ svn then some (typ, svn, d) else none
  | none => none

/-- An accepted image goes to the inactive bank, which becomes the next; MEAS6 takes its header digest (R556, R562). -/
def fwApply (s : Block) (bytes : List Byte) : Block :=
  match goodImage s bytes with
  | some (typ, svn, d) =>
    let bank := 1 - s.sec.active % 2
    let s := imagePut s bank typ ⟨svn, BitVec.ofNat 512 d, true⟩
    measExtend { s with sec := { s.sec with next := bank } } 6 (BitVec.ofNat 512 d)
  | none => s

/-- FW_BANKS. -/
def banksBytes (s : Block) : List Byte :=
  natLe 1 s.sec.active ++ natLe 1 s.sec.next ++ (List.range 8).flatMap (fun k => natLe 1 (imageAt s (k / 4) (k % 4)).svn) ++ natLe 6 0

/-- A value of SVN_COMMIT within its range (R557). -/
def svnOk (s : Block) (v : Nat) : Bool :=
  (List.range 4).all (fun typ => decide (fuseAt s typ ≤ bits v (8 * typ) 8) && decide (bits v (8 * typ) 8 ≤ (imageAt s (s.sec.active % 2) typ).svn))

/-- The fuses are raised. -/
def svnApply (s : Block) (v : Nat) : Block :=
  { s with sec := { s.sec with fuses := (List.range 4).foldl (fun t typ => tset 0 t typ (bits v (8 * typ) 8)) s.sec.fuses } }

/-- The image that runs: the active bank's, or the other's when that one failed (R555). -/
def runningSvn (s : Block) (typ : Nat) : Nat :=
  let a := s.sec.active % 2
  (imageAt s (if stageGood s a typ then a else 1 - a) typ).svn

/-! ### The identity certificate (R561) -/

/-- A renewed certificate that is accepted. -/
def identityOk (s : Block) (bytes : List Byte) : Bool :=
  let c := bytes.take (derLen bytes)
  Config.carriesIdentity c && Config.certValid c (certTime s) && Config.chainGood c (anchorsFor s 4) (certTime s)

/-- IDENTITY_CERT_CHECK (R561): outside the validity period alarm 0x4F is active. -/
def execIdentityCertCheck (s : State) : Host.Outcome State Fault Refusal := onBlock s fun s =>
  .next (if !s.power.inputHeld || Config.certValid (identityCert s) (certTime s) || (tget alarm0 s.logs.alarms 0x4F).active then s
    else ledgerFlush (raiseAlarm s 0x4F unitNone .ok 0))

/-- HALL_TIME_SAVE (R559). -/
def execHallTimeSave (s : State) : Host.Outcome State Fault Refusal := onBlock s fun s =>
  .next (if odNat s 0x9400 2 = 0 then s else { s with time := { s.time with savedHall := s.clk.hall } })

/-! ### Claiming (R560) -/

/-- Whether the module is claimed. -/
def claimed (s : Block) : Bool :=
  (List.range 7).any (fun k => odNat s 0xC011 (k + 2) % 4 != 0) || (List.range 64).any (fun k => odNat s 0xC020 (k + 1) != 0)

/-- The lowest empty anchor slot from OD 0xC010.02 on. -/
def emptyAnchor (s : Block) : Option Nat := ((List.range 7).map (· + 2)).find? (fun k => odNat s 0xC010 k == 0)

/-- A write of a claim: logged as SECURITY on path 0 with the client's key (R560). -/
def claimWrite (s : Block) (index sub v : Nat) (source : BitVec 128) (keyId : Word) : Block :=
  odPut (chlogAdd s index sub 4 0 (odLen index sub) (odNat s index sub) v source keyId) index sub v

/-- An accepted claim: the anchor, its use, and the first role key. -/
def claimApply (s : Block) (slot : Nat) (root : List Byte) (source : BitVec 128) (keyId : Word) : Block :=
  let s := claimWrite s 0xC010 slot (leNat root) source keyId
  let s := claimWrite s 0xC011 slot 3 source keyId
  claimWrite s 0xC020 1 (keyId.toNat + 2 ^ 68) source keyId

/-! ### Quotes (R563) -/

/-- Bytes 0 to 703 of a quote over a nonce. -/
def quoteBody (s : Block) (nonce : Nat) : List Byte :=
  natLe 4 1 ++ natLe 4 (homeEpoch s) ++ natLe 16 (odNat s 0x1000 3) ++ natLe 8 (hallNat s) ++ natLe 1 (powerState s) ++
    natLe 1 (odNat s 0x9400 2) ++ natLe 1 s.sec.active ++ natLe 1 0 ++ (List.range 4).flatMap (fun typ => natLe 1 (runningSvn s typ)) ++
    natLe 8 s.chlog.nextSeq ++ natLe 16 0 ++ natLe 64 nonce ++ (List.range 8).flatMap (fun k => natLe 64 (measAt s k).toNat) ++
    natLe 64 (sha512 (odBytes s 0xC000 1)).toNat

/-- A quote with its signature. -/
def quoteBytes (s : Block) (nonce : Nat) : List Byte :=
  let body := quoteBody s nonce
  body ++ slice (Config.identitySign body) 0 512

end Sys2Proof.Machine
end

