-- ==== Sys2Proof/Machine/Dictionary.lean ====
section
/-! DEFINITION. Reads and writes of the object dictionary (R476 to R481), with the effect each entry's chapter gives its write,
and the rows that write or read one entry. -/

namespace Sys2Proof.Machine

open Sys2Proof

/-! ### Entries whose value is formed as they are read -/

/-- An ownership entry (R353). -/
def ownBytes (s : Block) (k : Nat) : List Byte :=
  match s.own.table.find? (fun e => e.1 == k) with
  | some (_, e) =>
    let b := fun (x : Bool) (n : Nat) => if x then 2 ^ n else 0
    natLe 16 (1 + b e.read 1 + b e.pend 2 + b e.lost 3 + e.region * 2 ^ 8 + e.oslot * 2 ^ 32 + e.ounit * 2 ^ 39 + e.oepoch * 2 ^ 64)
  | none => natLe 16 0

/-- A group entry (R374). -/
def groupBytes (s : Block) (k : Nat) : List Byte :=
  let g := groupAt s k
  let b := fun (x : Bool) (n : Nat) => if x then 2 ^ n else 0
  natLe 32 (g.state + b g.replica 3 + b g.istus 4 + g.resv * 2 ^ 8 + g.rank * 2 ^ 16 + g.gid * 2 ^ 32 + g.epoch * 2 ^ 64 + g.m * 2 ^ 96 +
    g.b * 2 ^ 128 + g.collSeq * 2 ^ 160 + g.mlist * 2 ^ 192)

/-- A barrier entry (R427): the configuration as written, GEN and TREL. -/
def barrierBytes (s : Block) (b : Nat) : List Byte :=
  let x := barrierAt s b
  natLe 32 (x.cfg % 2 ^ 128 + x.gen.toNat * 2 ^ 128 + x.trel.toNat * 2 ^ 192)

/-- Barrier object of an entry. -/
def barrierOf (index sub : Nat) : Nat := if index = 0x9101 then sub + 127 else sub - 1

/-- The region of the map whose frames hold a frame of a pseudo-channel, with the first of those frames (R277). -/
def frameRegion (s : Block) (p f : Nat) : Nat → Nat → Nat → Option (Nat × Nat)
  | 0, _, _ => none
  | fuel + 1, r, below =>
    let n := framesOn s p r
    if f < below + n then some (r, below) else frameRegion s p f fuel (r + 1) (below + n)

/-- Module address of granule 0 of a retired page under the current map (R298). -/
def granule0 (s : Block) (g : RetPage) : Nat :=
  match frameRegion s g.pc (g.page / 512) 384 0 0 with
  | none => 0
  | some (r, below) =>
    let row := 16 * (g.page - 512 * below)
    if regionMode s r < 0x10 then r * 2 ^ 30 + row * 2 ^ 17 + (g.pc ^^^ bits row 0 9) * 2 ^ 8
    else r * 2 ^ 30 + row * 2 ^ 15 + (g.pc % 128 ^^^ bits row 0 7) * 2 ^ 8

/-- RETIRED_LIST of a stack (R299). -/
def retiredBytes (s : Block) (stack : Nat) : List Byte :=
  padTo 32768 ((s.ecc.retired.filter (fun g => g.pc / 32 == stack)).flatMap (fun g => natLe 8 (1 + granule0 s g)))

/-- LOG: each record at 64 · (SEQ mod 65,536). -/
def logRingBytes (s : Block) : List Byte :=
  (List.range 65536).flatMap (fun k =>
    match s.logs.recs.find? (fun r => r.seq % 65536 == k) with
    | some r => logBytes r
    | none => natLe 64 0)

/-- LOG_RING: each record at 128 · (SEQ mod 1,048,576). -/
def chlogRingBytes (s : Block) : List Byte :=
  (List.range chlogSize).flatMap (fun k =>
    match s.chlog.recs.find? (fun r => r.seq % chlogSize == k) with
    | some r => chlogBytes r
    | none => natLe 128 0)

/-- The bytes of an entry that has no stored value of its own; none when it has. -/
def odFormed (s : Block) (nonce index sub : Nat) : Option (List Byte) :=
  match index, sub with
  | 0x1020, 3 => some (chlogRingBytes s)
  | 0x2020, 2 => some (banksBytes s)
  | 0x2020, 3 => some ((List.range 4).flatMap (fun typ => natLe 1 (fuseAt s typ)))
  | 0x6100, 1 => some ((List.range 1024).flatMap (ownBytes s))
  | 0x8020, 1 => some ((List.range 1024).flatMap (groupBytes s))
  | 0xB000, 1 => some (configBytes s)
  | 0xB010, 1 => some (counterBytes s)
  | 0xB010, 2 => some (overflowBytes s)
  | 0xB040, 1 => some (logRingBytes s)
  | 0xB050, 1 => some ((List.range 256).flatMap (alarmBytes s))
  | 0xC000, 2 => some (natLe 8 (Config.certKeyId (identityCert s)))
  | 0xC030, 2 => some (quoteBytes s nonce)
  | 0xC030, 3 => some ((List.range 8).flatMap (fun k => natLe 64 (measAt s k).toNat))
  | 0xC040, 1 => some (natLe 2 (if claimed s then 1 else 0))
  | 0x7000, 4 => some (natLe 1 (if odNat s 0x7000 4 = 32 then ownSlot s % 32 else odNat s 0x7000 4))
  | 0x3031, n => some (retiredBytes s (n - 1))
  | 0x9100, n => some (barrierBytes s (barrierOf 0x9100 n))
  | 0x9101, n => some (barrierBytes s (barrierOf 0x9101 n))
  | _, _ => none

/-- The bytes of an entry; subindex 0 is the highest subindex in use (R476). -/
def odRead (s : Block) (nonce index sub : Nat) : List Byte :=
  if sub = 0 then natLe 1 (odHighest index)
  else match odFormed s nonce index sub with
    | some bs => bs
    | none => natLe (odLen index sub) (odNat s index sub)

/-- Type code of an entry. -/
def odType (index sub : Nat) : Nat :=
  match odRow index sub with
  | some r => r.typ
  | none => 2

/-! ### Who asks -/

/-- Roles a path permits (R481). -/
def pathAllows (p : Path) (r : Role) : Bool :=
  match p with
  | .t1s => r != .job
  | .e0 => r == .observer || r == .job || r == .operator
  | .e1 => r == .observer || r == .job || r == .operator
  | .window => r == .job
  | .module => false

/-- Whether the dictionary answers on a path: 10BASE-T1S once the island has started, Ethernet in READY and RUN while the port
is UP and DICT_ON_ETH is set, the window in RUN (R506, R533, R540). -/
def pathOpen (s : Block) (p : Path) : Bool :=
  match p with
  | .t1s => s.power.inputHeld
  | .e0 => decide (2 ≤ powerState s) && odByte s 0x7000 1 0 == 2 && odOn s 0x7000 5
  | .e1 => decide (2 ≤ powerState s) && odByte s 0x7000 1 1 == 2 && odOn s 0x7000 5
  | .window => jobAssigned s
  | .module => false

/-- Whether an access mask admits a request: by its role, or, through the window, as the window's own entries. -/
def maskAllows (mask : Nat) (o : Origin) : Bool :=
  if o.path = .window then bit mask 1 || bit mask 5 || bit mask 6 else bit mask (roleNum o.role)

/-- What recovery mode serves (R555). -/
def recoveryServes (index sub : Nat) : Bool :=
  index / 4096 == 1 || (index == 0x2000 && decide (1 ≤ sub) && decide (sub ≤ 4)) || index == 0x2020 || index == 0xB050 ||
    (index == 0xC000 && sub == 1)

/-- Whether an entry exists for a request. -/
def odExists (s : Block) (index sub : Nat) : Bool :=
  (if sub = 0 then decide (0 < odHighest index) else (odRow index sub).isSome) && (!s.power.recovery || recoveryServes index sub)

/-- A read is checked for existence and access only (R479); JOB reads counters only with JOB_COUNTERS (R517). -/
def odReadCheck (s : Block) (o : Origin) (index sub : Nat) : Option Status :=
  if !odExists s index sub then some .odNoEntry
  else
    let mask := match odRow index sub with
      | some r => if sub = 0 then rAll else r.rd
      | none => rAll
    if !maskAllows mask o then some .odAccess
    else if index = 0xB010 ∧ (o.path = .window ∨ o.role = .job) ∧ ¬ odOn s 0xB000 2 then some .odAccess
    else none

/-! ### The checks of a write (R479) -/

/-- Strictly ascending thresholds of consecutive subindices when `sub` takes `v`. -/
def ascending (s : Block) (index : Nat) (subs : List Nat) (sub v : Nat) : Bool :=
  let vals := subs.map (fun k => if k = sub then v else odNat s index k)
  (List.zipWith (fun a b => decide (a < b)) vals (vals.drop 1)).all id

/-- Ranges that are rules of their own. -/
def odSpecial (s : Block) (index sub v : Nat) (data : List Byte) : Bool :=
  match index, sub with
  | 0x1020, 4 => decide (v < s.chlog.nextSeq)
  | 0x2020, 1 => (goodImage s data).isSome
  | 0x2020, 3 => svnOk s v
  | 0x2030, k => decide (80 ≤ v) && decide (v ≤ 110) && ascending s 0x2030 [2, 3, 4] k v
  | 0x3000, 1 => mapBytesOk v
  | 0x3010, k => decide (70 ≤ v) && decide (v ≤ 104) && ascending s 0x3010 [1, 2, 3, 4] k v
  | 0x7100, _ => flowEntryOk v
  | 0x9100, _ => !bit v 0 || decide (1 ≤ bits v 64 16)
  | 0x9101, _ => !bit v 0 || decide (1 ≤ bits v 64 16)
  | 0x9300, 2 => decide (2 ^ 26 ≤ v) && decide (v ≤ 2 ^ 36) && v % 2097152 == 0
  | 0xB020, 4 => decide (odNat s 0xB020 1 < v)
  | 0xB030, 1 => v == 0 || (decide (16 ≤ v) && decide (v ≤ 2 ^ 24))
  | 0xB030, 4 => decide (4096 ≤ v) && decide (v ≤ 2 ^ 34) && v % 4096 == 0
  | 0xB030, 6 => decide (v ≤ odNat s 0xB030 5)
  | 0xC000, 1 => identityOk s data
  | _, _ => true

/-- Whether a value lies in an entry's range. The pattern of −0 is the number 0. -/
def rangeOk (s : Block) (r : OdRow) (sub v : Nat) (data : List Byte) : Bool :=
  match r.range with
  | .any => true
  | .between lo hi => (decide (lo ≤ v) && decide (v ≤ hi)) || (r.typ == 0x0B && lo == 0 && v == 2 ^ 63)
  | .oneOf l => l.contains v
  | .multiple m hi => v % m == 0 && decide (v ≤ hi)
  | .special => odSpecial s r.index sub v data

/-- A reserved field or encoding of an entry with a map of its own. -/
def odReserved (r : OdRow) (v : Nat) (data : List Byte) : Bool :=
  (v &&& r.resv) != 0 || (r.index == 0xB000 && r.lo == 1 && !configOk v) || (r.index == 0xA100 && r.lo == 1 && !manZero data) ||
    (r.index == 0x7100 && flowPortSel v == 3)

/-- Whether a barrier's arrival is pending, or its STEP would be a second one (R427). -/
def barrierBusy (s : Block) (b v : Nat) : Bool :=
  let x := barrierAt s b
  (barrierEn x && (x.arrived.isSome || !x.children.isEmpty)) || (bit v 1 && s.barriers.any (fun e => e.1 != b && barrierStep e.2))

/-- What the module's state refuses. -/
def odStateCheck (s : Block) (index sub v : Nat) : Option Status :=
  match index, sub with
  | 0x2000, 2 => powerCheck s v
  | 0x2020, 1 => if jobAssigned s then some .odState else none
  | 0x2100, 1 => funcCheck s v
  | 0x3000, 1 =>
    if mapCount v 0 ≠ mapCount v 1 ∨ mapCount v 0 ≠ mapCount v 2 ∨ mapCount v 0 ≠ mapCount v 3 then some .mapUnbalanced
    else if jobAssigned s then some .mapBusy else none
  | 0x5100, 1 =>
    if odNat s 0x2101 2 ≠ 0 then some .odState
    else if (List.range 16).any (fun g => (seqAt s (512 + g)).stream.isSome) then some .plumbBusy else none
  | 0x5101, k => if (seqAt s (511 + k)).stream.isSome then some .plumbBusy else none
  | 0x7100, f => if bit v 0 && flowOn (odNat s 0x7100 f) then some .odState else none
  | 0x9000, 3 => if s.barriers.any (fun e => barrierEn e.2 && barrierStep e.2) then some .odState else none
  | 0x9100, k => if barrierBusy s (barrierOf 0x9100 k) v then some .barrierBusy else none
  | 0x9101, k => if barrierBusy s (barrierOf 0x9101 k) v then some .barrierBusy else none
  | 0xB000, 1 => if s.counters.frozen then some .odState else none
  | 0xB020, k => if k ≤ 3 ∧ snapBusy s then some .odState else none
  | _, _ => none

/-- The first check of a write that fails (R479). `typ` is none where the path carries no type code. JOB_MANIFEST is refused for
the state before it is checked (R470). -/
def odCheck (s : Block) (o : Origin) (index sub : Nat) (typ : Option Nat) (data : List Byte) : Option Status :=
  if !odExists s index sub then some .odNoEntry
  else match odRow index sub with
    | none => some .odAccess
    | some r =>
      let v := leNat data
      if !maskAllows r.wr o then some .odAccess
      else if data.length ≠ r.len ∨ typ.any (· != r.typ) then some .odType
      else if index = 0xA100 ∧ sub = 1 ∧ powerState s ≠ 2 then some .odState
      else if odReserved r v data then some .malformed
      else if !rangeOk s r sub v data then some .odRange
      else
        let st := if index = 0xA100 ∧ sub = 1 then manifestCheck s data else odStateCheck s index sub v
        match st with
        | some st => some st
        | none => if r.logged && !(index == 0x1020 && sub == 4) && chlogFull s then some .auditFull else none

/-! ### What a write does -/

/-- A change of GROUPS clears the groups' counts and launch objects (R221). -/
def setGroups (s : Block) (v : Nat) : Block :=
  if odNat s 0x5100 1 = v then s
  else
    let s := (List.range 16).foldl (fun s g => syncPut (seqPut s (512 + g) { seqAt s (512 + g) with n := 0 }) (512 + g) sync0) s
    odPut s 0x5100 1 v

/-- A barrier's configuration (R427): GEN counts from when EN is set. -/
def setBarrier (s : Block) (b v : Nat) : Block :=
  let x := barrierAt s b
  let cfg := v % 2 ^ 128
  let y := if bit v 0 && !barrierEn x then { barrier0 with cfg := cfg } else { x with cfg := cfg }
  let s := barrierPut s b y
  if barrierEn y then barrierCount s (barrierArriveObj y) b else s

/-- A flow entry (R496). -/
def setFlow (s : Block) (f v : Nat) : Block :=
  let e := odNat s 0x7100 f
  if bit v 0 then odPut (flowPut s f flow0) 0x7100 f v
  else odPut (if flowOn e then flowEnd s f e else s) 0x7100 f v

/-- SCRIBE_PARTNER (R435): comparison stops, and starts again at the next step barrier release. -/
def setPartner (s : Block) (v : Nat) : Block :=
  if odNat s 0x9200 1 = v then s
  else odPut (odPut { s with scribe := { s.scribe with on := false } } 0x9200 5 0) 0x9200 1 v

/-- LEDGER_BASE or LEDGER_SIZE: a ring that moves begins empty. -/
def setLedgerRing (s : Block) (sub v : Nat) : Block :=
  if odNat s 0x9300 sub = v then s
  else ledgerFlush (odPut { s with ledger := { s.ledger with wptr := 0, lens := [] } } 0x9300 sub v)

/-- EXPORTED_TO (R503): the records up to the SEQ are freed. -/
def exportTo (s : Block) (seq : Nat) : Block :=
  chlogPublish { s with chlog := { s.chlog with exported := max s.chlog.exported (seq + 1) } }

/-- The effect of an accepted write, its record being in the change log. `hart` is the hart of a window access. -/
def odApply (s : Block) (hart : Option Nat) (index sub v : Nat) (data : List Byte) : Block :=
  match index, sub with
  | 0x1020, 4 => chlogRelease (odPut s 0x1020 4 v)
  | 0x2000, 2 => powerApply (odPut s 0x2000 2 v) v
  | 0x2010, 3 => setCap (odPut s 0x2010 3 v)
  | 0x2020, 1 => fwApply s data
  | 0x2020, 3 => svnApply s v
  | 0x2100, 1 => funcApply s v
  | 0x3000, 1 => zeroHbm (odPut s 0x3000 1 v)
  | 0x4310, 1 => keepCause (odPut s 0x4310 1 v) 2 (v == 1)
  | 0x5100, 1 => setGroups s v
  | 0x6110, 1 => match hart with
    | some h => ownCommand s h v
    | none => s
  | 0x6110, 3 => clearLost s v
  | 0x7100, f => setFlow s f v
  | 0x9100, k => setBarrier s (barrierOf 0x9100 k) v
  | 0x9101, k => setBarrier s (barrierOf 0x9101 k) v
  | 0x9200, 1 => setPartner s v
  | 0x9300, 1 => setLedgerRing s 1 v
  | 0x9300, 2 => setLedgerRing s 2 v
  | 0x9300, 5 => ledgerExport (odPut s 0x9300 5 v) v
  | 0x9400, 1 => timeRepick (odPut s 0x9400 1 v)
  | 0xA100, 1 => manifestApply s data
  | 0xB000, 1 => setConfig s v
  | 0xB020, 1 => setSnapTime (odPut s 0xB020 1 v) v
  | 0xB030, 1 => setPeriod s v
  | 0xB030, 2 => setClasses s v
  | 0xB040, 3 => setBurst s v
  | 0xB050, 4 => ackAlarm s v
  | 0xC030, 1 => match hart with
    | some h => hartPut s h { hartAt s h with nonce := BitVec.ofNat 512 v }
    | none => odPut s 0xC030 1 v
  | _, _ => odPut s index sub v

/-- Hart of a window request. -/
def originHart (o : Origin) : Option Nat := if o.path = .window then some (o.source.toNat % 96) else none

/-- An accepted write: EXPORTED_TO frees its records first, then every logged write takes its record, then it is applied whole
(R480, R502, R503). -/
def odAccept (s : Block) (o : Origin) (index sub : Nat) (data : List Byte) : Block :=
  let v := leNat data
  let s := if index = 0x1020 ∧ sub = 4 then exportTo s v else s
  let role := if o.path = .window then 1 else roleNum o.role
  let s := if odLogged index sub then
      chlogAdd s index sub role (pathNum o.path) (odLen index sub) (odNat s index sub) v o.source (if o.path = .window then 0 else o.keyId)
    else s
  ledgerFlush (odApply s (originHart o) index sub v data)

/-- A write (R479, R480): its status, and what it leaves. -/
def odWrite (s : Block) (o : Origin) (index sub : Nat) (typ : Option Nat) (data : List Byte) : Block × Status :=
  match odCheck s o index sub typ data with
  | some st => (s, st)
  | none => (odAccept s o index sub data, .ok)

/-! ### The rows that write or read one entry -/

/-- The answer to a request: a response on its path; a refused window write is kept until the hart's next ordering point
(R485). -/
def answerWrite (s : Block) (o : Origin) (st : Status) : Block :=
  match originHart o with
  | some h => if st = .ok then s else noteFailed s h st
  | none => replyOrOwe s 0 0x91 0 st [] (fun s => emit s (.dict 0 0x91 0 st []))

/-- A write by row: it reaches the dictionary when its path does and permits its role. -/
def rowWrite (s : Block) (o : Origin) (index sub : Nat) (data : List Byte) : Block :=
  if !pathOpen s o.path || (o.path != .window && !pathAllows o.path o.role) then s
  else
    let r := odWrite s o index sub none data
    answerWrite r.1 o r.2

/-- A write of a number. -/
def rowSet (s : Block) (o : Origin) (index sub v : Nat) : Block := rowWrite s o index sub (natLe (odLen index sub) v)

/-- A read by row: type code, length and bytes (R487). -/
def rowRead (s : Block) (o : Origin) (index sub : Nat) : Block :=
  if !pathOpen s o.path || (o.path != .window && !pathAllows o.path o.role) then s
  else match odReadCheck s o index sub with
    | some st => emit s (.dict 0 0x90 0 st [])
    | none =>
      let nonce := match originHart o with
        | some h => (hartAt s h).nonce.toNat
        | none => odNat s 0xC030 1
      let bs := odRead s nonce index sub
      emit s (.dict 0 0x90 0 .ok (natLe 1 (odType index sub) ++ natLe 3 0 ++ natLe 4 bs.length ++ bs))

/-- OD_WRITE (R479). The block port's entries have rows of their own. -/
def execOdWrite (o : Origin) (index : BitVec 16) (sub typ : BitVec 8) (data : List Byte) (s : State) : Host.Outcome State Fault Refusal := onBlock s fun s =>
  .next (if !pathOpen s o.path || (o.path != .window && !pathAllows o.path o.role) || (o.path == .window && index == 0x1030) then s
    else
      let r := odWrite s o index.toNat sub.toNat (some typ.toNat) data
      answerWrite r.1 o r.2)

/-- GROUPS (R221). -/
def execGroups (o : Origin) (value : BitVec 16) (s : State) : Host.Outcome State Fault Refusal := onBlock s fun s => .next (rowSet s o 0x5100 1 value.toNat)
/-- GROUP_MODE (R221). -/
def execGroupMode (o : Origin) (g : Fin 16) (value : BitVec 16) (s : State) : Host.Outcome State Fault Refusal := onBlock s fun s =>
  .next (rowSet s o 0x5101 (g + 1) value.toNat)
/-- INTERLEAVE_MAP (R274, R277). -/
def execInterleaveMap (o : Origin) (map : List Byte) (s : State) : Host.Outcome State Fault Refusal := onBlock s fun s => .next (rowWrite s o 0x3000 1 map)
/-- CLEAR_LOST (R356). -/
def execClearLost (o : Origin) (region : BitVec 32) (s : State) : Host.Outcome State Fault Refusal := onBlock s fun s => .next (rowSet s o 0x6110 3 region.toNat)
/-- JOB_MANIFEST (R470): the manifest, then zero bytes to the entry's length. -/
def execJobManifest (o : Origin) (bytes : List Byte) (s : State) : Host.Outcome State Fault Refusal := onBlock s fun s =>
  .next (rowWrite s o 0xA100 1 (padTo 8388608 bytes))
/-- EXPORTED_TO (R503). -/
def execExportedTo (o : Origin) (seq : Word) (s : State) : Host.Outcome State Fault Refusal := onBlock s fun s => .next (rowSet s o 0x1020 4 seq.toNat)
/-- FLOW (R496). -/
def execFlow (o : Origin) (f : Fin 256) (value : List Byte) (s : State) : Host.Outcome State Fault Refusal := onBlock s fun s => .next (rowWrite s o 0x7100 f value)
/-- COUNTER_CONFIG (R514). -/
def execCounterConfig (o : Origin) (value : List Byte) (s : State) : Host.Outcome State Fault Refusal := onBlock s fun s => .next (rowWrite s o 0xB000 1 value)
/-- COUNTER_VALUES (R518): every counter, latched at one edge. -/
def execCounterValues (o : Origin) (s : State) : Host.Outcome State Fault Refusal := onBlock s fun s => .next (rowRead s o 0xB010 1)
/-- SNAP_TIME (R519 to R521). -/
def execSnapTime (o : Origin) (time : Word) (s : State) : Host.Outcome State Fault Refusal := onBlock s fun s => .next (rowSet s o 0xB020 1 time.toNat)
/-- ALARM_ACK (R529). -/
def execAlarmAck (o : Origin) (code : BitVec 16) (s : State) : Host.Outcome State Fault Refusal := onBlock s fun s => .next (rowSet s o 0xB050 4 code.toNat)
/-- OLDEST_UNEXPORTED (R442). -/
def execOldestUnexported (o : Origin) (seq : BitVec 32) (s : State) : Host.Outcome State Fault Refusal := onBlock s fun s => .next (rowSet s o 0x9300 5 seq.toNat)
/-- POWER_UP (R541). -/
def execPowerUp (o : Origin) (s : State) : Host.Outcome State Fault Refusal := onBlock s fun s => .next (rowSet s o 0x2000 2 1)
/-- STANDBY (R534). -/
def execStandby (o : Origin) (s : State) : Host.Outcome State Fault Refusal := onBlock s fun s => .next (rowSet s o 0x2000 2 2)
/-- POWER_DOWN (R534). -/
def execPowerDown (o : Origin) (s : State) : Host.Outcome State Fault Refusal := onBlock s fun s => .next (rowSet s o 0x2000 2 3)
/-- RELEASE_JOB (R534). -/
def execReleaseJob (o : Origin) (s : State) : Host.Outcome State Fault Refusal := onBlock s fun s => .next (rowSet s o 0x2000 2 4)
/-- RESET (R538). -/
def execReset (o : Origin) (s : State) : Host.Outcome State Fault Refusal := onBlock s fun s => .next (rowSet s o 0x2000 2 5)
/-- MAINTENANCE_RESET (R539). -/
def execMaintenanceReset (o : Origin) (s : State) : Host.Outcome State Fault Refusal := onBlock s fun s => .next (rowSet s o 0x2000 2 6)
/-- FW_IMAGE (R556): the image, then zero bytes to the entry's length. -/
def execFwImage (o : Origin) (image : List Byte) (s : State) : Host.Outcome State Fault Refusal := onBlock s fun s => .next (rowWrite s o 0x2020 1 (padTo 33554432 image))
/-- SVN_COMMIT (R557). -/
def execSvnCommit (o : Origin) (value : BitVec 32) (s : State) : Host.Outcome State Fault Refusal := onBlock s fun s => .next (rowSet s o 0x2020 3 value.toNat)
/-- IDENTITY_CERT (R561): the certificate, zero-padded to the entry's length. -/
def execIdentityCert (o : Origin) (der : List Byte) (s : State) : Host.Outcome State Fault Refusal := onBlock s fun s => .next (rowWrite s o 0xC000 1 (padTo 4096 der))
/-- QUOTE (R563). -/
def execQuote (o : Origin) (s : State) : Host.Outcome State Fault Refusal := onBlock s fun s => .next (rowRead s o 0xC030 2)

/-- Value of FUNC_CONTROL. -/
def funcValue (cls : BitVec 4) (inst : BitVec 10) (enable : Bool) : Nat := cls.toNat + (if enable then 16 else 0) + inst.toNat * 2 ^ 16

/-- FUNC_DISABLE (R507, R508). -/
def execFuncDisable (o : Origin) (cls : BitVec 4) (inst : BitVec 10) (s : State) : Host.Outcome State Fault Refusal := onBlock s fun s =>
  .next (rowSet s o 0x2100 1 (funcValue cls inst false))

/-- FUNC_ENABLE (R507, R510): the write, unless an enable of the function is in progress, and the end of its self-test. -/
def execFuncEnable (o : Origin) (cls : BitVec 4) (inst : BitVec 10) (r : TestResult) (s : State) : Host.Outcome State Fault Refusal := onBlock s fun s =>
  let k := funcKey cls.toNat inst.toNat
  let busy := fun (s : Block) => s.power.drains.any (fun d => d.1 == enablingKey k)
  .next (let s := if busy s then s else rowSet s o 0x2100 1 (funcValue cls inst true)
    if busy s then ledgerFlush (endEnable s k r) else s)

end Sys2Proof.Machine
end

