-- ==== Sys2Proof/Machine/Sessions.lean ====
section
/-! DEFINITION. Sessions of the dictionary protocol (R486 to R495) and subscriptions (R491, R528). -/

namespace Sys2Proof.Machine

open Sys2Proof

/-! ### The table of sessions -/

/-- Publish SESSIONS_OPEN. -/
def sessPublish (s : Block) : Block := if odNat s 0x1010 1 = s.sess.table.length then s else odPut s 0x1010 1 s.sess.table.length

/-- A session closes. -/
def sessClose (s : Block) (n : Nat) : Block :=
  sessPublish { s with sess := { s.sess with table := s.sess.table.filter (fun e => e.1 != n) } }

/-- Requests of a session carry its role, path, source and key (R481, R502). -/
def sessOrigin (x : Session) : Origin := ⟨x.role, x.path, x.source, x.keyId⟩

/-! ### Set-up (R493, R494, R560) -/

/-- Hall time of a failure, ten seconds on. -/
def tenSeconds : Nat := 10000000000

/-- Whether HELLOs of a source are ignored: eight of its failures fell within 10 s, the last of them less than 10 s ago. -/
def sourceBlocked (s : Block) (source : BitVec 128) : Bool :=
  let ts := (s.sess.failures.filter (fun e => e.1 == source)).map (fun e => e.2.toNat)
  (List.range ts.length).any (fun i => decide (i + 7 < ts.length) && decide (ts.getD (i + 7) 0 - ts.getD i 0 ≤ tenSeconds) &&
    decide (hallNat s < ts.getD (i + 7) 0 + tenSeconds))

/-- A set-up fails: answered with SESSION 0, counted, and noted against its source. -/
def setupFails (s : Block) (source : BitVec 128) : Block :=
  let s := odBump s 0x1010 4 1
  emit { s with sess := { s.sess with failures := s.sess.failures ++ [(source, hallNow s)] } } (.dict 0 0x04 0 .session [])

/-- The HELLO payload. -/
def helloPayload (role : Nat) (nonce : Nat) : List Byte := natLe 1 role ++ natLe 7 0 ++ natLe 32 nonce

/-- The answer to a HELLO: the module's nonce, its identity certificate and its signature over both nonces. -/
def helloAnswer (s : Block) (path : Path) (source : BitVec 128) (role : BitVec 8) (nonce : BitVec 256) : Block :=
  let (k, s) := freeNext s
  let mnonce := Config.freeValue k % 2 ^ 256
  let cert := identityCert s
  let sig := slice (Config.identitySign (natLe 64 (sha512 (helloPayload role.toNat nonce.toNat ++ natLe 32 mnonce)).toNat)) 0 512
  let h : Hello := ⟨path, source, role.toNat, nonce, mnonce⟩
  let s := { s with sess := { s.sess with hellos := s.sess.hellos.filter (fun x => !(x.path == path && x.source == source)) ++ [h] } }
  emit s (.dict 0 0x02 0 .ok (natLe 32 mnonce ++ natLe 4 cert.length ++ cert ++ sig))

/-- HELLO (R493, R494): answered with CHALLENGE: the module nonce, a free value, the module's certificate chain and its signature. -/
def execHello (path : Path) (source : BitVec 128) (role : BitVec 8) (nonce : BitVec 256) (s : State) : Host.Outcome State Fault Refusal := onBlock s fun s =>
  .next (if !pathOpen s path || path == .window || sourceBlocked s source then s
    else if 32 ≤ s.sess.table.length then emit s (.dict 0 0x02 0 .session [])
    else helloAnswer s path source role nonce)

/-- Parts of the OPEN payload: the encrypted key, the client's chain with its length, the signature. -/
def openParts (payload : List Byte) : List Byte × List Byte × List Byte :=
  let enc := payload.take 512
  let rest := payload.drop 512
  let n := rest.length - 512
  (enc, rest.take n, rest.drop n)

/-- The first certificate of a chain: the client's. -/
def leafOf (chain : List Byte) : List Byte := let bs := chain.drop 4; bs.take (derLen bs)

/-- Bit of a role in the ROLE_KEY entry that lists a key (R493, R506). -/
def keyListed (s : Block) (keyId : Nat) (role : Nat) : Bool :=
  (List.range 64).any (fun k =>
    let e := odNat s 0xC020 (k + 1)
    e != 0 && e % 2 ^ 64 == keyId && bit e (64 + role))

/-- How a set-up is accepted. -/
inductive Grant where
  | session
  | launch
  | claim (slot : Nat) (root : List Byte)
deriving DecidableEq, Repr

/-- Whether a set-up passes its checks, and as what (R493, R495, R560). -/
def setupGrant (s : Block) (h : Hello) (role : Role) (chain : List Byte) : Option Grant :=
  let leaf := leafOf chain
  let certs := chain.drop 4
  let keyId := Config.certKeyId leaf % 2 ^ 64
  if Config.chainGood certs (anchorsFor s 1) (certTime s) && keyListed s keyId (roleNum role) && pathAllows h.path role then some .session
  else if role == .job && Config.chainGood certs (anchorsFor s 4) (certTime s) && pathAllows h.path role then some .launch
  else if !claimed s && h.path == .t1s && role == .security && decide (powerState s < 2) && decide (chlogSize ≥ s.chlog.nextSeq - s.chlog.exported + 3) then
    match Config.chainRoot certs, emptyAnchor s with
    | some root, some slot => if Config.chainGood certs [root] (certTime s) then some (.claim slot root) else none
    | _, _ => none
  else none

/-- A session opens: its number is new and not zero. -/
def sessOpen (s : Block) (h : Hello) (role : Role) (key : List Byte) (keyId : Word) (launch : Bool) : Block :=
  let n := s.sess.next
  let x : Session := ⟨role, h.path, h.source, keyId, key, 0, [], none, [], launch, [], 1, hallNow s, 0⟩
  let s := { s with sess := { s.sess with table := s.sess.table ++ [(n, x)], next := n + 1 } }
  emit (sessPublish s) (.dict n 0x04 0 .ok [])

/-- An OPEN that answers a HELLO: the session key is unwrapped, the signature covers both nonces, and the certificates grant the
session (R493, R495, R560). -/
def openNow (s : Block) (h : Hello) (payload : List Byte) : Block :=
  let (enc, chain, sig) := openParts payload
  let leaf := leafOf chain
  let keyId := BitVec.ofNat 64 (Config.certKeyId leaf)
  let body := natLe 32 h.nonce.toNat ++ natLe 32 h.mnonce ++ natLe 1 h.role ++ enc
  match roleOf h.role, Config.oaepOpen enc with
  | some role, some key =>
    if 32 ≤ s.sess.table.length ∨ ¬ Config.sigGood leaf body sig then setupFails s h.source
    else match setupGrant s h role chain with
      | some .session => sessOpen s h role key keyId false
      | some .launch => sessOpen s h role key keyId true
      | some (.claim slot root) => ledgerFlush (sessOpen (claimApply s slot root h.source keyId) h role key keyId false)
      | none => setupFails s h.source
  | _, _ => setupFails s h.source

/-- OPEN (R493, R495, R560). -/
def execOpenSession (path : Path) (source : BitVec 128) (payload : List Byte) (s : State) : Host.Outcome State Fault Refusal := onBlock s fun s =>
  .next (if !pathOpen s path || path == .window then s
    else match s.sess.hellos.find? (fun x => x.path == path && x.source == source) with
    | none => setupFails s source
    | some h =>
      openNow { s with sess := { s.sess with hellos := s.sess.hellos.filter (fun x => !(x.path == path && x.source == source)) } } h payload)

/-! ### Requests (R488, R489, R494) -/

/-- A message is discarded and counted. -/
def discardMsg (s : Block) : Block := odBump s 0x1010 5 1

/-- The response to a request: at once, or at the end of the disable or enable that it began (R508, R510). -/
def respondReq (s : Block) (n seq typ : Nat) (st : Status) (payload : List Byte) : Block :=
  replyOrOwe s n typ seq st payload (fun s => respondNow s n typ seq st payload)

/-- Whether a request waits for its response. -/
def awaitsReply (s : Block) (r : SessReq) : Bool := s.power.replies.any (fun p => p.session == r.session && p.seq == r.seq.toNat)

/-- A request of a session: a bad tag is discarded, a repeated SEQ gets its response again (or none, while that is owed), one far below the highest is
discarded, and any other is applied. -/
def request (s : Block) (r : SessReq) (typ : Nat) (body : Block → Session → Block × Status × List Byte) : Block :=
  match sessAt s r.session with
  | none => discardMsg s
  | some x =>
    if !pathOpen s x.path then s
    else if !r.tagOk then discardMsg s
    else if awaitsReply s r then s
    else match x.kept.find? (fun k => k.1 == r.seq.toNat) with
      | some k => emit s (.dict r.session k.2.1 k.1 k.2.2.1 k.2.2.2)
      | none =>
        if r.seq.toNat + 64 ≤ x.highSeq then s
        else if x.launchOnly then respondReq s r.session r.seq.toNat (typ + 0x80) .odAccess []
        else
          let a := body s x
          respondReq a.1 r.session r.seq.toNat (typ + 0x80) a.2.1 a.2.2

/-- CLOSE (R494): the response leaves and the session is gone. A session granted for launch messages may close too. -/
def execClose (r : SessReq) (s : State) : Host.Outcome State Fault Refusal := onBlock s fun s =>
  .next (match sessAt s r.session with
    | none => discardMsg s
    | some x =>
      if !pathOpen s x.path then s
      else if !r.tagOk then discardMsg s
      else match x.kept.find? (fun k => k.1 == r.seq.toNat) with
        | some k => emit s (.dict r.session k.2.1 k.1 k.2.2.1 k.2.2.2)
        | none => if awaitsReply s r ∨ r.seq.toNat + 64 ≤ x.highSeq then s else sessClose (emit s (.dict r.session 0x85 r.seq.toNat .ok [])) r.session)

/-- Value of an entry as a session reads it. -/
def sessRead (s : Block) (x : Session) (index sub : Nat) : List Byte := odRead s x.nonce.toNat index sub

/-- READ (R487, R490). -/
def execRead (r : SessReq) (index : BitVec 16) (sub : BitVec 8) (offset length : Nat) (s : State) : Host.Outcome State Fault Refusal := onBlock s fun s =>
  .next (request s r 0x10 (fun s x =>
    match odReadCheck s (sessOrigin x) index.toNat sub.toNat with
    | some st => (s, st, [])
    | none =>
      let bs := sessRead s x index.toNat sub.toNat
      (s, .ok, natLe 1 (odType index.toNat sub.toNat) ++ natLe 3 0 ++ natLe 4 bs.length ++ (bs.drop offset).take length)))

/-- The staged pieces as one value of `len` bytes; none when they leave a gap or reach beyond it. The last piece stands. -/
def stagedValue (pieces : List (Nat × List Byte)) (len : Nat) : Option (List Byte) :=
  if pieces.any (fun p => decide (len < p.1 + p.2.length)) then none
  else (List.range len).mapM (fun k => pieces.reverse.findSome? (fun p => if k < p.1 then none else p.2[k - p.1]?))

/-- A write of a session: QUOTE_NONCE is the session's own (R563). -/
def sessWrite (s : Block) (n : Nat) (x : Session) (index sub : Nat) (typ : Option Nat) (data : List Byte) : Block × Status :=
  let r := odWrite s (sessOrigin x) index sub typ data
  if r.2 = .ok ∧ index = 0xC030 ∧ sub = 1 then
    match sessAt r.1 n with
    | some y => (sessPut r.1 n { y with nonce := BitVec.ofNat 512 (leNat data) }, .ok)
    | none => r
  else r

/-- WRITE (R490): fragments are staged; the one with LAST applies them as one write. -/
def execWrite (r : SessReq) (index : BitVec 16) (sub typ : BitVec 8) (offset : Nat) (last : Bool) (data : List Byte) (s : State) :
    Host.Outcome State Fault Refusal := onBlock s fun s =>
  .next (request s r 0x11 (fun s x =>
    let ent := (index.toNat, sub.toNat)
    let pieces := (if x.stagedEnt = some ent then x.staged else []) ++ [(offset, data)]
    if !last then (sessPut s r.session { x with stagedEnt := some ent, staged := pieces }, .ok, [])
    else
      let s := sessPut s r.session { x with stagedEnt := none, staged := [] }
      match stagedValue pieces (odLen ent.1 ent.2) with
      | some v => let a := sessWrite s r.session x ent.1 ent.2 (some typ.toNat) v; (a.1, a.2, [])
      | none =>
        -- Existence and access come before the length (R479).
        (s, match odCheck s (sessOrigin x) ent.1 ent.2 none [] with
          | some .odNoEntry => .odNoEntry
          | some .odAccess => .odAccess
          | _ => .odType, [])))

/-- One item of a BLOCK_READ's response. -/
def blockItem (s : Block) (x : Session) (i : BlockItem) : List Byte :=
  let index := i.index.toNat
  let sub := i.sub.toNat
  let st := match odReadCheck s (sessOrigin x) index sub with
    | some st => some st
    | none => if 64 < odLen index sub then some .odType else none
  match st with
  | some st => natLe 2 (statusCode st) ++ natLe 2 0
  | none =>
    let bs := sessRead s x index sub
    natLe 2 0 ++ natLe 1 (odType index sub) ++ natLe 1 bs.length ++ padTo (roundUp 8 bs.length) bs

/-- BLOCK_READ (R490). -/
def execBlockRead (r : SessReq) (items : List BlockItem) (s : State) : Host.Outcome State Fault Refusal := onBlock s fun s =>
  .next (request s r 0x12 (fun s x =>
    if items.isEmpty ∨ 64 < items.length then (s, .malformed, []) else (s, .ok, items.flatMap (blockItem s x))))

/-- What an item of a BLOCK_WRITE is refused with before any is applied. -/
def blockCheck (s : Block) (x : Session) (i : BlockItem) : Option Status :=
  match odCheck s (sessOrigin x) i.index.toNat i.sub.toNat (some i.typ.toNat) i.data with
  | some st => some st
  | none => if 64 < i.data.length then some .odType else none

/-- Items applied in order up to one that is refused: how many, and that one's status. -/
def blockApply (n : Nat) (x : Session) : List BlockItem → Nat → Block → Block × Status × Nat
  | [], k, s => (s, .ok, k)
  | i :: t, k, s =>
    let r := sessWrite s n x i.index.toNat i.sub.toNat (some i.typ.toNat) i.data
    if r.2 = .ok then blockApply n x t (k + 1) r.1 else (r.1, r.2, k)

/-- BLOCK_WRITE (R490). -/
def execBlockWrite (r : SessReq) (items : List BlockItem) (s : State) : Host.Outcome State Fault Refusal := onBlock s fun s =>
  .next (request s r 0x13 (fun s x =>
    if items.isEmpty ∨ 64 < items.length then (s, .malformed, natLe 4 0)
    else match items.findSome? (blockCheck s x) with
      | some st => (s, st, natLe 4 0)
      | none =>
        let a := blockApply r.session x items 0 s
        (a.1, a.2.1, natLe 2 a.2.2 ++ natLe 2 0)))

/-! ### Subscriptions (R491, R528) -/

/-- SUBSCRIBE. -/
def execSubscribe (r : SessReq) (index : BitVec 16) (sub : BitVec 8) (mode : BitVec 8) (period : BitVec 32) (s : State) :
    Host.Outcome State Fault Refusal := onBlock s fun s =>
  .next (request s r 0x14 (fun s x =>
    match odReadCheck s (sessOrigin x) index.toNat sub.toNat with
    | some st => (s, st, [])
    | none =>
      if 1 < mode.toNat then (s, .malformed, [])
      else if mode = 1 ∧ period.toNat < 1000 then (s, .odRange, [])
      else if 256 ≤ x.subs.length then (s, .odState, [])
      else
        let q : Sub := ⟨x.nextSub, index.toNat, sub.toNat, mode == 1, period.toNat, false⟩
        (sessPut s r.session { x with subs := x.subs ++ [q], nextSub := x.nextSub + 1 }, .ok, natLe 4 x.nextSub)))

/-- UNSUBSCRIBE. -/
def execUnsubscribe (r : SessReq) (sub : Nat) (s : State) : Host.Outcome State Fault Refusal := onBlock s fun s =>
  .next (request s r 0x15 (fun s x =>
    if x.subs.any (fun q => q.id == sub) then (sessPut s r.session { x with subs := x.subs.filter (fun q => q.id != sub) }, .ok, [])
    else (s, .odRange, [])))

/-- A NOTIFY carries the entry's latest value. -/
def notify (s : Block) (n : Nat) (x : Session) (q : Sub) : Block :=
  let bs := sessRead s x q.index q.sub
  emit s (.dict n 0x16 0 .ok (natLe 4 q.id ++ natLe 4 0 ++ natLe 8 (hallNat s) ++ natLe 1 (odType q.index q.sub) ++ natLe 3 0 ++
    natLe 4 bs.length ++ bs))

/-- A pending on-change NOTIFY is sent. -/
def notifyPending (s : Block) (n : Nat) (q : Sub) : Block :=
  match sessAt s n with
  | none => s
  | some x =>
    if q.pending then
      notify (sessPut s n { x with subs := x.subs.map (fun y => if y.id = q.id then { y with pending := false } else y) }) n x q
    else s

/-- Whether a subscription is to ALARM_ACTIVE or ALARM_TOTAL. -/
def alarmSub (q : Sub) : Bool := q.index == 0xB050 && (q.sub == 2 || q.sub == 3)

/-- NOTIFY_PERIOD. -/
def execNotifyPeriod (session sub : Nat) (s : State) : Host.Outcome State Fault Refusal := onBlock s fun s =>
  .next (match sessAt s session with
    | none => s
    | some x =>
      match x.subs.find? (fun q => q.id == sub && q.periodic) with
      | some q =>
        let s := (x.subs.filter (fun q => alarmSub q && q.pending)).foldl (fun s q => notifyPending s session q) s
        notify s session x q
      | none => s)

/-- NOTIFY_COALESCE_END: the latest value is sent; alarm NOTIFYs that wait go ahead of every other (R528). -/
def execNotifyCoalesceEnd (session sub : Nat) (s : State) : Host.Outcome State Fault Refusal := onBlock s fun s =>
  .next (match sessAt s session with
    | none => s
    | some x =>
      match x.subs.find? (fun q => q.id == sub && !q.periodic && q.pending) with
      | some q =>
        let first := if alarmSub q then [q] else x.subs.filter (fun y => alarmSub y && y.pending) ++ [q]
        first.foldl (fun s q => notifyPending s session q) s
      | none => s)

/-! ### Timers (R489, R494) -/

/-- REQUEST_TIMEOUT (R489): a request that has not begun is answered with ST_OD_TIMEOUT and applies nothing. The row names no
TYPE: the response is shown with TYPE 0x80. -/
def execRequestTimeout (r : SessReq) (s : State) : Host.Outcome State Fault Refusal := onBlock s fun s =>
  .next (match sessAt s r.session with
    | none => s
    | some x =>
      if !r.tagOk || awaitsReply s r || x.kept.any (fun k => k.1 == r.seq.toNat) || decide (r.seq.toNat + 64 ≤ x.highSeq) then s
      else respondReq s r.session r.seq.toNat 0x80 .odTimeout [])

/-- IDLE_TIMEOUT (R494). -/
def execIdleTimeout (session : Nat) (s : State) : Host.Outcome State Fault Refusal := onBlock s fun s =>
  .next (match sessAt s session with
    | none => s
    | some x => if odNat s 0x1010 3 * 1000000000 ≤ hallNat s - x.lastReq.toNat then sessClose s session else s)

end Sys2Proof.Machine
end

