-- ==== Sys2Proof/Machine/Window.lean ====
section
/-! DEFINITION. The dictionary window and its block port, as a control core reaches them (R482 to R485, R354). -/

namespace Sys2Proof.Machine

open Sys2Proof

/-- Entry number of a window address: index and subindex (R482). -/
def windowIndex (a : Nat) : Nat := (a - windowBase) / 2048
def windowSub (a : Nat) : Nat := (a - windowBase) / 8 % 256

/-- The rack address of an entry in this module's window (R482). -/
def windowAddr (s : Block) (index sub : Nat) : Nat := ownAddr s (windowBase + index * 2048 + sub * 8)

/-- A hart as the source of a dictionary request (R481, R502). -/
def hartOrigin (h : Nat) : Origin := ⟨.job, .window, BitVec.ofNat 128 h, 0⟩

/-- What a window read gives: a value, a refusal, or nothing yet (R354). -/
inductive WinRead where
  | value (s : Block) (v : Nat)
  | refused (st : Status)
  | wait

/-- Entries that only machine-mode harts reach (R354). -/
def machineOnly (index sub : Nat) : Bool := index == 0x6110 && (sub == 1 || sub == 2)

/-- Whether a hart's entry is closed to its mode. -/
def modeDenied (s : Block) (h index sub : Nat) : Bool := machineOnly index sub && (hartAt s h).priv != .machine

/-- Whether a request of a hart for ownership has not completed. -/
def ownBusy (s : Block) (h : Nat) : Bool := s.own.mine.any (fun r => (r.hart.map (fun x => x.val)) == some h && !r.held)

/-! ### The block port (R484) -/

/-- Index, subindex and byte offset that a cursor names. -/
def cursorIndex (v : Word) : Nat := bits v.toNat 0 16
def cursorSub (v : Word) : Nat := bits v.toNat 16 8
def cursorOff (v : Word) : Nat := bits v.toNat 24 32

/-- The cursor eight bytes further on. -/
def cursorNext (v : Word) : Word := BitVec.ofNat 64 (setBits v.toNat 24 32 (cursorOff v + 8))

/-- The bytes of an entry as the block port reads them: COUNTER_VALUES is read from the copy that CURSOR latched (R518). -/
def portBytes (s : Block) (k : Hart) (index sub : Nat) : List Byte :=
  match (if index = 0xB010 ∧ sub = 1 then k.latch else none) with
  | some v => natLe (odLen 0xB010 1) v
  | none => odRead s k.nonce.toNat index sub

/-- A read of DATA. -/
def portRead (s : Block) (h : Nat) : WinRead :=
  let k := hartAt s h
  let index := cursorIndex k.cursor
  let sub := cursorSub k.cursor
  if modeDenied s h index sub then .refused .odAccess
  else match odReadCheck s (hartOrigin h) index sub with
    | some st => .refused st
    | none =>
      .value (hartPut s h { k with cursor := cursorNext k.cursor })
        (leNat (slice (portBytes s k index sub) (cursorOff k.cursor) 8))

/-- A write of CURSOR: staged bytes are discarded, and COUNTER_VALUES is latched when it is named. -/
def portCursor (s : Block) (h : Nat) (v : Word) : Block × Status :=
  if bits v.toNat 56 8 ≠ 0 ∨ cursorOff v % 8 ≠ 0 then (s, .malformed)
  else
    let latch := if cursorIndex v = 0xB010 ∧ cursorSub v = 1 then some (leNat (counterBytes s)) else none
    (hartPut s h { hartAt s h with cursor := v, staged := [], latch := latch }, .ok)

/-- A write of DATA stages eight bytes at the cursor. -/
def portData (s : Block) (h : Nat) (v : Word) : Block × Status :=
  let k := hartAt s h
  (hartPut s h { k with staged := k.staged ++ [(cursorOff k.cursor, natLe 8 v.toNat)], cursor := cursorNext k.cursor }, .ok)

/-- A dictionary write of a hart: OWN_CMD from another mode than machine mode is refused and leaves ST_OWN_DENIED to be read
(R354). -/
def hartOdWrite (s : Block) (h index sub : Nat) (data : List Byte) : Block × Status :=
  if index = 0x6110 ∧ sub = 1 ∧ (hartAt s h).priv ≠ .machine then
    (hartPut s h { hartAt s h with ownResult := .ownDenied }, .odAccess)
  else odWrite s (hartOrigin h) index sub none data

/-- A write of COMMIT: the staged pieces must cover the whole entry. -/
def portCommit (s : Block) (h : Nat) (v : Word) : Block × Status :=
  let k := hartAt s h
  let index := cursorIndex k.cursor
  let sub := cursorSub k.cursor
  if 256 ≤ v.toNat then (s, .malformed)
  else if v ≠ 1 then (s, .odRange)
  else
    let data := match stagedValue k.staged (roundUp 8 (odLen index sub)) with
      | some d => d.take (odLen index sub)
      | none => []
    hartOdWrite (hartPut s h { k with staged := [] }) h index sub data

/-! ### Window reads and writes (R482, R483, R485) -/

/-- A window read of an entry by a hart: entries of up to 8 bytes in the low bytes of their slot, the length of a larger
one. OWN_RESULT returns once the hart's request has completed. -/
def windowRead (s : Block) (h index sub : Nat) : WinRead :=
  let k := hartAt s h
  if !pathOpen s .window then .refused .odAccess
  else if index = 0x1030 ∧ sub = 2 then portRead s h
  else if modeDenied s h index sub then .refused .odAccess
  else match odReadCheck s (hartOrigin h) index sub with
    | some st => .refused st
    | none =>
      if index = 0x6110 ∧ sub = 2 then (if ownBusy s h then .wait else .value s (statusCode k.ownResult))
      else if index = 0x1030 ∧ sub = 1 then .value s k.cursor.toNat
      else if 8 < odLen index sub then .value s (odLen index sub % 2 ^ 32)
      else .value s (leNat (odRead s k.nonce.toNat index sub))

/-- A window write of a slot by a hart: the bytes above an entry's length must be zero, and a larger entry's slot takes no
write. -/
def windowWrite (s : Block) (h index sub : Nat) (v : Word) : Block × Status :=
  if !pathOpen s .window then (s, .odAccess)
  else if index = 0x1030 ∧ sub = 1 then portCursor s h v
  else if index = 0x1030 ∧ sub = 2 then portData s h v
  else if index = 0x1030 ∧ sub = 3 then portCommit s h v
  else
    let n := min 8 (odLen index sub)
    let high := decide (2 ^ (8 * n) ≤ v.toNat)
    let early := match odCheck s (hartOrigin h) index sub none (natLe (if 8 < odLen index sub then 8 else n) v.toNat) with
      | some st => st == .odNoEntry || st == .odAccess || st == .odType
      | none => false
    if high && !early then (s, .malformed)
    else hartOdWrite s h index sub (natLe (if 8 < odLen index sub then 8 else n) v.toNat)

/-- A window write whose refusal waits for the hart's next ordering point (R485). -/
def windowStore (s : Block) (h index sub : Nat) (v : Word) : Block :=
  let r := windowWrite s h index sub v
  if r.2 = .ok then r.1 else noteFailed r.1 h r.2

/-- The value of OWN_CMD (R354). -/
def ownCmdValue (op slot region : Nat) : Word := BitVec.ofNat 64 (op + slot * 2 ^ 2 + region * 2 ^ 9)

end Sys2Proof.Machine
end

