-- ==== Sys2Proof/Machine/CoreAccess.lean ====
section
/-! DEFINITION. How a control core reaches memory: translation and protection (R250), the lines its cluster holds (R341,
R342), accesses at the home and in other modules (R251, R260), and what issuing an instruction takes. -/

namespace Sys2Proof.Machine

open Sys2Proof

/-! ### Waiting and ordering -/

/-- A sampled instruction that writes a Sketch-protected granule waits on it (R456, R523); loads do not. -/
def noteStall (s : Block) (k : Hart) : Hart :=
  let write := fun (w : Issued) => w.addr != 0 && w.opcode != 0x03 && w.opcode != 0x07
  { k with sampling := k.sampling.map (fun x =>
      { x with stalled := x.stalled || (write x.what && isOwn s x.what.addr && (protectedGranule s (rackLocal x.what.addr)).isSome) }) }

/-- A hart waits for something and gives its instruction again; none leaves it free to try again. -/
def hartWait (s : Block) (h : Nat) (b : Option Blocked) : Block :=
  match b with
  | some b => hartPut s h { noteStall s (hartAt s h) with blocked := some b }
  | none => s

/-- Whether a store of a hart is not yet performed (R260). -/
def storesPending (s : Block) (h : Nat) : Bool :=
  let mine := fun (o : Outst) => match o.forWhom with
    | .hartStore k => k.val == h && !o.timedOut
    | _ => false
  s.fab.outst.any mine || s.fab.held.any mine

/-- An ordering point (R260, R263): it waits for earlier stores, then reports a failed one as cause 24 instead of taking
effect. -/
def orderingPoint (s : Block) (h : Nat) (body : Block → Block) : Block :=
  if storesPending s h then s
  else match (hartAt s h).failed with
    | some st => trapFabric (hartPut s h { hartAt s h with failed := none }) h st
    | none => body s

/-! ### Physical memory protection (R250): 16 entries, 4 KiB granularity -/

/-- What an access is for. -/
inductive AccessFor where
  | fetch | load | store
deriving DecidableEq, Repr

/-- Configuration byte and address of an entry. -/
def pmpCfg (k : Hart) (i : Nat) : Nat := bits (csrGet k (0x3A0 + 2 * (i / 8))).toNat (8 * (i % 8)) 8
def pmpAddr (k : Hart) (i : Nat) : Nat := (csrGet k (0x3B0 + i)).toNat

/-- Trailing ones of a number, at most `fuel`. -/
def trailingOnes : Nat → Nat → Nat
  | 0, _ => 0
  | fuel + 1, v => if v % 2 = 1 then trailingOnes fuel (v / 2) + 1 else 0

/-- Whether an entry matches an address. -/
def pmpMatch (k : Hart) (i a : Nat) : Bool :=
  match bits (pmpCfg k i) 3 2 with
  | 1 =>
    let lo := if i = 0 then 0 else pmpAddr k (i - 1) / 1024 * 4096
    decide (lo ≤ a) && decide (a < pmpAddr k i / 1024 * 4096)
  | 3 =>
    let v := pmpAddr k i ||| 0x1FF
    let size := 2 ^ (trailingOnes 64 v + 3)
    a / size == v * 4 / size
  | _ => false

/-- Whether the first matching entry, or the want of one, permits an access. -/
def pmpOk (k : Hart) (p : Priv) (f : AccessFor) (a : Nat) : Bool :=
  match (List.range 16).find? (fun i => pmpMatch k i a) with
  | none => p == .machine
  | some i =>
    let c := pmpCfg k i
    if p = .machine ∧ ¬ bit c 7 then true
    else match f with
      | .fetch => bit c 2
      | .load => bit c 0
      | .store => bit c 1

/-! ### Where an access is served -/

/-- What serves a physical address: nothing (an access fault), the dictionary window, the cluster's cache, the home in this
module, or another module. -/
inductive Route where
  | bad | window | cached | direct | remote
deriving DecidableEq, Repr

/-- The region of another module that a hart's cluster owns at an address (R342). -/
def mineOf (s : Block) (h a : Nat) : Option OwnReq :=
  s.own.mine.find? (fun r => r.held && !r.release && r.unit == h / 8 && r.slot == rackSlot a && r.region == rackLocal a / 0x200000)

/-- Route of a physical address (R251, R271, R342, R482). -/
def routeOf (s : Block) (h a : Nat) : Route :=
  let l := rackLocal a
  if 2 ^ 48 ≤ a ∨ 72 ≤ rackSlot a then .bad
  else if isOwn s a then
    match placeOf l with
    | .hbm => .cached
    | .window => .window
    | .unmapped => .bad
    | _ => if populated s l then .direct else .bad
  else if placeOf l = .window then .bad
  else if l < hbmEnd ∧ (sameBay s (rackSlot a) ∨ ((hartAt s h).priv = .machine ∧ (mineOf s h a).isSome)) then .cached
  else .remote

/-- Whether a line of this module lies in a region that others own in READ: a cluster reads it uncached (R350). -/
def readOwned (s : Block) (h l : Nat) : Bool :=
  let es := ownEntries s (regionOf l)
  !es.isEmpty && es.all (fun e => e.read && !(e.oslot == ownSlot s && e.ounit == h / 8 && (hartAt s h).priv == .machine))

/-- Route of a plain load or store: a line with bad words, which no cache holds, is read and written word by word at its
home, so that words whose marks have been cleared serve (R291, R292); so is a line of a region that others own in READ (R350). -/
def plainRoute (s : Block) (h a : Nat) : Route :=
  let l := rackLocal a
  let r := routeOf s h a
  if r = .cached ∧ isOwn s a ∧ lineBad s (lineOf l) ∧ (dirAt s (lineOf l)).st = .u then .direct
  else if r = .cached ∧ isOwn s a ∧ readOwned s h l then .direct else r

/-- Owner that a hart's accesses name: its cluster in machine mode, nobody otherwise (R350). -/
def hartOwner (s : Block) (h : Nat) : Requester :=
  if (hartAt s h).priv = .machine then some (ownSlot s, h / 8) else none

/-- What ownership says to a hart's access before any copy is used (R350): for its own module by the table, for another
module by the regions its cluster owns. -/
def ownDeny (s : Block) (h a : Nat) (write : Bool) : Option Status :=
  if isOwn s a then ownCheck s (hartOwner s h) (rackLocal a) write
  else match mineOf s h a with
    | none => none
    | some r =>
      if r.read then (if write then some .regionOwned else none)
      else if (hartAt s h).priv = .machine then none else some .regionOwned

/-- HINT of a hart's accesses (R253). -/
def hartHint (s : Block) (h : Nat) : Nat := bits (hartAt s h).otnhint.toNat 0 2

/-! ### Lines of the cluster (R341 to R344) -/

/-- A cluster of this module as a caching agent. -/
def ownAgent (s : Block) (c : Nat) : Agent := ⟨⟨ownSlot s % 72, Nat.mod_lt _ (by decide)⟩, ⟨c % 12, Nat.mod_lt _ (by decide)⟩⟩

/-- What asking for a line gives: the line is held, its home refuses it, or the hart must wait. -/
inductive LineGot where
  | here (s : Block)
  | refused (s : Block) (st : Status)
  | wait (s : Block) (b : Option Blocked)

/-- Whether a cluster's request for a line waits at this home. -/
def cgetWaits (s : Block) (line : Nat) (a : Agent) : Bool :=
  (waitingAt s line).any (fun r => match r with
    | .cget b _ _ _ => b == a
    | _ => false)

/-- Ask this module's home for a line (R344). -/
def askOwn (s : Block) (h rackLine : Nat) (excl : Bool) (ecc : Ecc) : LineGot :=
  let l := lineOf (rackLocal (128 * rackLine))
  let a := ownAgent s (h / 8)
  if cgetWaits s l a then .wait s (some (.lines [rackLine]))
  else
    let s := eccRead s (128 * l) ecc
    match lineStatus s (hartOwner s h) (if excl then .rmw else .read) (128 * l) 128 with
    | some st => .refused s st
    | none =>
      let tid := s.coh.nextTid
      let s := homeAdmit { s with coh := { s.coh with nextTid := tid + 1 } } l (.cget a excl tid (hartHint s h))
      if holds s rackLine (h / 8) excl then .here s
      else .wait s (if cgetWaits s l a then some (.lines [rackLine]) else none)

/-- Ask another module for a line (R347): once, until it is answered. -/
def askOther (s : Block) (h rackLine : Nat) (excl : Bool) : LineGot :=
  let a := 128 * rackLine
  if s.coh.asked.any (fun q => q.line == rackLine && q.c == h / 8) then .wait s (some (.lines [rackLine]))
  else if (planeFor s (rackLocal a) (rackSlot a)).isNone then .refused s .unreachable
  else
    let q : CohAsk := ⟨rackLine, h / 8, excl, s.coh.nextTid, hartHint s h⟩
    let s := countEvent { s with coh := { s.coh with nextTid := s.coh.nextTid + 1, asked := s.coh.asked ++ [q] } } (unitHart h) 3 1
    .wait (sendCget s q) (some (.lines [rackLine]))

/-- A hart's cluster needs a line, for reads or as the only copy. -/
def ensureLine (s : Block) (h rackLine : Nat) (excl : Bool) (ecc : Ecc) : LineGot :=
  if holds s rackLine (h / 8) excl then .here s
  else match (hartAt s h).refused.find? (fun r => r.1 == rackLine) with
    | some r => .refused s r.2
    | none =>
      let s := countEvent s (unitHart h) 2 1
      if isOwn s (128 * rackLine) then askOwn s h rackLine excl ecc else askOther s h rackLine excl

/-! ### Reading -/

/-- What a read gives: bytes, an exception with its cause and value, or a wait. -/
inductive Got where
  | bytes (s : Block) (bs : List Byte)
  | trap (s : Block) (cause tval : Nat)
  | wait (s : Block) (b : Option Blocked)

/-- Read `n` bytes at a physical address aligned to `n`; `va` is the address the instruction gave (R251, R272, R293, R485). -/
def readPart (s : Block) (h : HartId) (va a n : Nat) (ecc : Ecc) : Got :=
  let l := rackLocal a
  match plainRoute s h a with
  | .bad => .trap s causeLoadFault va
  | .window =>
    if n ≠ 8 then .trap s causeLoadFault va
    else match windowRead s h (windowIndex l) (windowSub l) with
      | .value s v => .bytes s (natLe 8 v)
      | .refused st => .trap s causeLoadFault (statusCode st)
      | .wait => .wait s (some .owning)
  | .cached =>
    match ownDeny s h a false with
    | some _ => .trap s causeLoadFault va
    | none =>
      match ensureLine s h (a / 128) false ecc with
      | .here s => .bytes s (slice (heldAt s (a / 128) (h.val / 8)).data (a % 128) n)
      | .refused s _ => .trap s causeLoadFault va
      | .wait s b => .wait s b
  | .direct =>
    let s := eccRead s l ecc
    match lineStatus s (hartOwner s h) .read l n with
    | some _ => .trap s causeLoadFault va
    | none => .bytes s (memRead s l n)
  | .remote =>
    let k := hartAt s h
    let bs := tget [] k.lines (partKey a)
    if (ownDeny s h a false).isSome ∨ k.refused.any (fun r => r.1 == partKey a) then .trap s causeLoadFault va
    else if !bs.isEmpty then .bytes s (slice bs 0 n)
    else
      let r := sendRead (countEvent s (unitHart h) 3 1) (rackSlot a) h l (hartHint s h) n (.hartLoad h)
      if r.2 = .ok then .wait r.1 (some (.lines [partKey a])) else .trap r.1 causeLoadFault va

/-! ### Translation (R250: Sv48) -/

/-- A physical address, an exception cause, or a wait for a line of a page table. -/
inductive Phys where
  | found (s : Block) (a : Nat)
  | trap (s : Block) (cause : Nat)
  | wait (s : Block) (b : Option Blocked)

/-- Causes of an access fault and of a page fault. -/
def accessCause : AccessFor → Nat
  | .fetch => 1
  | .load => causeLoadFault
  | .store => causeStoreFault
def pageCause : AccessFor → Nat
  | .fetch => 12
  | .load => 13
  | .store => 15

/-- The mode whose rights an access has: mstatus.MPRV lends loads and stores the mode in MPP. -/
def effectivePriv (k : Hart) (f : AccessFor) : Priv :=
  let ms := (csrGet k 0x300).toNat
  if f = .fetch ∨ ¬ bit ms 17 then k.priv
  else match bits ms 11 2 with
    | 0 => .user
    | 1 => .supervisor
    | _ => .machine

/-- Whether a leaf permits an access: R, W, X, U, A, D of the entry, SUM and MXR of mstatus. -/
def leafOk (k : Hart) (p : Priv) (f : AccessFor) (v : Nat) : Bool :=
  let ms := (csrGet k 0x300).toNat
  let user := bit v 4
  let mode := if p = .user then user else !user || (f != .fetch && bit ms 18)
  let right := match f with
    | .fetch => bit v 3
    | .load => bit v 1 || (bit ms 19 && bit v 3)
    | .store => bit v 2 && bit v 7
  mode && right && bit v 6

/-- The walk from the table at `base`; `level + 1` levels are left. 1 GiB, 2 MiB and 4 KiB pages are leaves. -/
def walk (h : HartId) (p : Priv) (f : AccessFor) (va : Nat) : Nat → Nat → Block → Phys
  | 0, _, s => .trap s (pageCause f)
  | level + 1, base, s =>
    let pte := base + 8 * bits va (12 + 9 * level) 9
    if routeOf s h pte ≠ .cached ∨ ¬ pmpOk (hartAt s h) .supervisor .load pte then .trap s (accessCause f)
    else match readPart s h va pte 8 .clean with
      | .trap s _ _ => .trap s (accessCause f)
      | .wait s b => .wait s b
      | .bytes s bs =>
        let v := leNat bs
        let ppn := bits v 10 44
        if !bit v 0 || (!bit v 1 && bit v 2) || bits v 54 10 != 0 then .trap s (pageCause f)
        else if !bit v 1 && !bit v 3 then
          (if bit v 4 || bit v 6 || bit v 7 then .trap s (pageCause f) else walk h p f va level (ppn * 4096) s)
        else if level = 3 ∨ ppn % 2 ^ (9 * level) ≠ 0 ∨ ¬ leafOk (hartAt s h) p f v then .trap s (pageCause f)
        else
          let a := ppn * 4096 + va % 2 ^ (12 + 9 * level)
          if pmpOk (hartAt s h) p f a then .found s a else .trap s (accessCause f)

/-- The physical address of a virtual one. -/
def translated (s : Block) (h : HartId) (va : Nat) (f : AccessFor) : Phys :=
  let k := hartAt s h
  let p := effectivePriv k f
  let satp := (csrGet k 0x180).toNat
  if p = .machine ∨ bits satp 60 4 ≠ 9 then
    if pmpOk k p f va then .found s va else .trap s (accessCause f)
  else if va >>> 47 ≠ 0 ∧ va >>> 47 ≠ 2 ^ 17 - 1 then .trap s (pageCause f)
  else walk h p f va 4 (bits satp 0 44 * 4096) s

/-- Translation of an access; that of data is the first access of a sampled instruction (R523). -/
def translate (s : Block) (h : HartId) (va : Nat) (f : AccessFor) : Phys :=
  match translated s h va f with
  | .found s a => .found (if f = .fetch then s else noteAccess s h a) a
  | p => p

/-! ### Issuing an instruction -/

/-- Whether the machine timer interrupt would be taken (R268): pending, enabled in mie, and not masked by MIE; between
instructions only, so that it never leaves vstart non-zero (R255). -/
def timerTaken (k : Hart) : Bool :=
  k.mtip && k.vstart == 0 && bit (csrGet k 0x304).toNat 7 && (k.priv != .machine || bit (csrGet k 0x300).toNat 3)

/-- Taking the machine timer interrupt: as an exception into machine mode, with the interrupt bit in mcause, at the vector of
mtvec; the hart's wait is abandoned (R267). -/
def takeTimer (s : Block) (h : Nat) : Block :=
  let k := hartAt s h
  let ms := (csrGet k 0x300).toNat
  let ms1 := setBits (setBit (setBit ms 7 (bit ms 3)) 3 false) 11 2 (privNum k.priv)
  let k1 := csrSet (csrSet (csrSet (csrSet k 0x341 k.pc) 0x342 (BitVec.ofNat 64 (2 ^ 63 + 7))) 0x343 0) 0x300 (BitVec.ofNat 64 ms1)
  let tvec := csrGet k 0x305
  let base := tvec &&& ~~~3#64
  hartPut s h { k1 with priv := .machine, pc := (if tvec.toNat % 4 = 1 then base + 28 else base), blocked := none, lines := [], refused := [], sampling := none }

/-- Whether a hart may fetch at an address: in the module's own HBM (R251), where its home refuses no read (R272, R291, R298, R350). -/
def fetchable (s : Block) (h a : Nat) : Bool :=
  isOwn s a && decide (rackLocal a < hbmEnd) && (lineStatus s (hartOwner s h) .read (rackLocal a) 2).isNone

/-- A hart issues its next instruction, which `w` describes: not while it is held or waits, an interrupt comes first (R267), and the
fetch must be permitted (R251). -/
def issue (s : Block) (h : HartId) (w : Issued) (body : Block → Block) : Block :=
  if !hartReady s h then s
  else if timerTaken (hartAt s h) then takeTimer s h
  else
    let pc := (hartAt s h).pc
    match translate s h pc.toNat .fetch with
    | .trap s c => takeTrap s h c pc
    | .wait s b => hartWait s h b
    | .found s a => if fetchable s h a then ledgerFlush (body (noteIssue s h w)) else takeTrap s h 1 pc

/-! ### Scalar accesses and their parts (R252) -/

/-- The aligned parts of `[va, va + n)`, in address order. -/
def alignedParts : Nat → Nat → Nat → List (Nat × Nat)
  | 0, _, _ => []
  | fuel + 1, va, n =>
    if n = 0 then []
    else
      let p := if va % 8 = 0 ∧ 8 ≤ n then 8 else if va % 4 = 0 ∧ 4 ≤ n then 4 else if va % 2 = 0 ∧ 2 ≤ n then 2 else 1
      (va % 2 ^ 64, p) :: alignedParts fuel (va + p) (n - p)

/-- Read parts one after the other. -/
def readParts (h : HartId) (ecc : Ecc) : List (Nat × Nat) → Block → List Byte → Got
  | [], s, acc => .bytes s acc
  | (va, n) :: t, s, acc =>
    match translate s h va .load with
    | .trap s c => .trap s c va
    | .wait s b => .wait s b
    | .found s a =>
      match readPart s h va a n ecc with
      | .bytes s bs => readParts h ecc t s (acc ++ bs)
      | g => g

/-- A store that may be made: its place, its bytes, and the refusal it meets. -/
structure StoreAt where
  a   : Nat
  bs  : List Byte
  bad : Option Status
deriving DecidableEq, Repr

/-- What preparing stores gives. -/
inductive Prepared where
  | ready (s : Block) (l : List StoreAt)
  | trap (s : Block) (cause tval : Nat)
  | wait (s : Block) (b : Option Blocked)

/-- Prepare one aligned store: the cluster gets the only copy of a cached line; a refusal is kept for the next ordering
point (R251, R272, R293). -/
def prepareStore (s : Block) (h : HartId) (va a : Nat) (bs : List Byte) : Prepared :=
  let l := rackLocal a
  let deny := ownDeny s h a true
  match plainRoute s h a with
  | .bad => .trap s causeStoreFault va
  | .window => if bs.length = 8 then .ready s [⟨a, bs, none⟩] else .trap s causeStoreFault va
  | .cached =>
    if deny.isSome then .ready s [⟨a, bs, deny⟩]
    else match ensureLine s h (a / 128) true .clean with
      | .here s => .ready s [⟨a, bs, none⟩]
      | .refused s st => .ready s [⟨a, bs, some st⟩]
      | .wait s b => .wait s b
  | .direct => .ready s [⟨a, bs, lineStatus s (hartOwner s h) .write l bs.length⟩]
  | .remote => .ready s [⟨a, bs, deny⟩]

/-- Prepare the parts of a store. -/
def prepareParts (h : HartId) (data : List Byte) (va0 : Nat) : List (Nat × Nat) → Block → List StoreAt → Prepared
  | [], s, acc => .ready s acc
  | (va, n) :: t, s, acc =>
    match translate s h va .store with
    | .trap s c => .trap s c va
    | .wait s b => .wait s b
    | .found s a =>
      match prepareStore s h va a ((data.drop ((va + 2 ^ 64 - va0) % 2 ^ 64)).take n) with
      | .ready s l => prepareParts h data va0 t s (acc ++ l)
      | p => p

/-- Bytes of a line with `bs` put at an offset. -/
def splice (data : List Byte) (off : Nat) (bs : List Byte) : List Byte := data.take off ++ bs ++ data.drop (off + bs.length)

/-- Other harts of the cluster lose their reservations on a line that is written. -/
def breakResv (s : Block) (h rackLine : Nat) : Block :=
  { s with harts := s.harts.map (fun e =>
      if e.1 / 8 = h / 8 ∧ e.1 ≠ h ∧ e.2.resv = some rackLine then (e.1, { e.2 with resv := none }) else e) }

/-- Write bytes into the cluster's only copy of a line. -/
def storeCached (s : Block) (h a : Nat) (bs : List Byte) : Block :=
  let x := heldAt s (a / 128) (h / 8)
  breakResv (heldPut s (a / 128) (h / 8) { x with dirty := true, data := splice x.data (a % 128) bs }) h (a / 128)

/-- Make a prepared store; scribe sees it, the window's apart (R436). A remote store leaves and the hart goes on (R260). -/
def makeStore (h : HartId) (s : Block) (t : StoreAt) : Block :=
  let route := plainRoute s h t.a
  let s := if route = .window then s else scribeNote s h (Config.scribeOpcode 0 0) t.bs.length t.a t.bs
  match t.bad with
  | some st => noteFailed s h st
  | none =>
    match route with
    | .bad => s
    | .window => windowStore s h (windowIndex (rackLocal t.a)) (windowSub (rackLocal t.a)) (BitVec.ofNat 64 (leNat t.bs))
    | .cached => storeCached s h t.a t.bs
    | .direct => homeWrite s (rackLocal t.a) (hartHint s h) t.bs
    | .remote =>
      let r := sendWrite (countEvent s (unitHart h) 3 1) (rackSlot t.a) h (rackLocal t.a) (hartHint s h) t.bs (.hartStore h)
      if r.2 = .ok then r.1 else noteFailed r.1 h r.2

/-- Make stores in order. -/
def makeStores (h : HartId) (s : Block) (l : List StoreAt) : Block := l.foldl (makeStore h) s

end Sys2Proof.Machine
end

