-- ==== Sys2Proof/Machine/Cores.lean ====
section
/-! DEFINITION. The control cores' rows: scalar accesses and fences (R251, R252, R260, R263), atomics (R254, R269, R270),
SYNC instructions, hall time (R264 to R268), and the block port (R484) with OWN_CMD (R354). -/

namespace Sys2Proof.Machine

open Sys2Proof

/-! ### Loads, stores, FENCE -/

/-- The address of a scalar access: rs1 plus the sign-extended immediate. -/
def scalarAddr (k : Hart) (rs1 : RegId) (imm : BitVec 12) : Nat := (xget k rs1 + imm.signExtend 64).toNat

/-- The value a load of `n` bytes writes. -/
def loadValue (n : Nat) (signed : Bool) (bs : List Byte) : Word := if signed then signExt n (leNat bs) else BitVec.ofNat 64 (leNat bs)

/-- An aligned load of another module leaves as one read of its own size (R325). -/
def remoteScalar (s : Block) (h : HartId) (rd : RegId) (va a : Nat) (sizeLog : Nat) (signed : Bool) : Block :=
  if (ownDeny s h a false).isSome then takeTrap s h causeLoadFault (BitVec.ofNat 64 va)
  else
    let r := sendRead (countEvent s (unitHart h) 3 1) (rackSlot a) h (rackLocal a) (hartHint s h) (2 ^ sizeLog) (.hartLoad h)
    if r.2 = .ok then hartWait r.1 h (some (.remoteLoad rd va sizeLog signed))
    else takeTrap r.1 h causeLoadFault (BitVec.ofNat 64 va)

/-- A load in its aligned parts (R252). -/
def loadParts (s : Block) (h : HartId) (rd : RegId) (va n : Nat) (signed : Bool) (ecc : Ecc) : Block :=
  match readParts h ecc (alignedParts 8 va n) s [] with
  | .bytes s bs => retireRd s h rd (loadValue n signed bs)
  | .trap s c v => takeTrap s h c (BitVec.ofNat 64 v)
  | .wait s b => hartWait s h b

/-- CORE_LOAD (R251, R252, R260). -/
def execCoreLoad (h : HartId) (sizeLog : Fin 4) (signed : Bool) (rd rs1 : RegId) (imm : BitVec 12) (ecc : Ecc) (s : State) :
    Host.Outcome State Fault Refusal := onBlock s fun s =>
  .next (issue s h ⟨0x03, 0⟩ (fun s =>
    let n := 2 ^ sizeLog.val
    let va := scalarAddr (hartAt s h) rs1 imm
    if va % n ≠ 0 then loadParts s h rd va n signed ecc
    else match translate s h va .load with
      | .trap s c => takeTrap s h c (BitVec.ofNat 64 va)
      | .wait s b => hartWait s h b
      | .found s a => if routeOf s h a = .remote then remoteScalar s h rd va a sizeLog signed else loadParts s h rd va n signed ecc))

/-- CORE_STORE (R251, R252, R260): every part is checked before any is made. -/
def execCoreStore (h : HartId) (sizeLog : Fin 4) (rs2 rs1 : RegId) (imm : BitVec 12) (s : State) : Host.Outcome State Fault Refusal := onBlock s fun s =>
  .next (issue s h ⟨0x23, 0⟩ (fun s =>
    let k := hartAt s h
    let n := 2 ^ sizeLog.val
    let va := scalarAddr k rs1 imm
    let data := natLe n (xget k rs2).toNat
    match prepareParts h data va (alignedParts 8 va n) s [] with
    | .ready s l =>
      let s := makeStores h s l
      retire s h (hartAt s h)
    | .trap s c v => takeTrap s h c (BitVec.ofNat 64 v)
    | .wait s b => hartWait s h b))

/-- CORE_FENCE (R260, R263): with W among its predecessors (bit 0) it is an ordering point; earlier loads and accesses of the
window have completed. -/
def execCoreFence (h : HartId) (pred _succ : BitVec 4) (s : State) : Host.Outcome State Fault Refusal := onBlock s fun s =>
  .next (issue s h ⟨0x0F, 0⟩ (fun s =>
    if bit pred.toNat 0 then orderingPoint s h (fun s => retire s h (hartAt s h)) else retire s h (hartAt s h)))

/-! ### Atomics of the A extension (R254) -/

/-- Code of an AMO's operation. -/
def amoCode : AmoOp → Nat
  | .swap => 1
  | .xor => 4
  | .or => 8
  | .and => 12
  | .min => 16
  | .max => 20
  | .minu => 24
  | .maxu => 28
  | .lr => 0
  | .sc => 0
  | .add => 0

/-- Bytes of a width. -/
def widBytes : Wid → Nat
  | .w32 => 4
  | .w64 => 8

/-- A scribe record of an atomic (R436). -/
def scribeAtomic (s : Block) (h op n a x : Nat) : Block := scribeNote s h (Config.scribeOpcode 1 op) n a (natLe n x)

/-- LR on a line the cluster may cache: the hart reserves the line. -/
def lrCached (s : Block) (h : HartId) (rd : RegId) (va a n : Nat) : Block :=
  match ensureLine s h (a / 128) false .clean with
  | .refused s _ => takeTrap s h causeLoadFault (BitVec.ofNat 64 va)
  | .wait s b => hartWait s h b
  | .here s =>
    let v := signExt n (leNat (slice (heldAt s (a / 128) (h.val / 8)).data (a % 128) n))
    retireRd (hartPut s h { hartAt s h with resv := some (a / 128), resvAt := none }) h rd v

/-- What the cluster holds of a line in a region it owns goes back to the home before an operation there (R352, R359). -/
def flushOwned (s : Block) (h a : Nat) : Block :=
  let x := heldAt s (a / 128) (h / 8)
  if x.data.isEmpty then s
  else if isOwn s a then
    (if (hartOwner s h).isSome && agentOwns s (ownAgent s (h / 8)) (lineOf (rackLocal a)) then
        heldPut (ownWriteBack s h (ownSlot s) (a / 128, x)) (a / 128) (h / 8) held0 else s)
  else if (mineOf s h a).isSome then heldPut (ownWriteBack s h (rackSlot a) (a / 128, x)) (a / 128) (h / 8) held0
  else s

/-- A hart sends an atomic to its home and waits for the answer: in this module it joins the requests of its line (R32, R345);
in another it is a tagged request (R326, R329). `b` says what the answer gives the hart. -/
def atomSend (s : Block) (h : HartId) (b : Blocked) (wid : Wid) (op a x cmp : Nat) : Block :=
  let n := widBytes wid
  let s := flushOwned s h a
  let s := hartWait s h (some b)
  if isOwn s a then
    homeAdmit (scribeAtomic s h op n a x) (lineOf (rackLocal a)) (.amo h (hartOwner s h) (hartHint s h) op (rackLocal a) n x cmp)
  else
    let s := scribeAtomic (countEvent s (unitHart h) 3 1) h op n a x
    let r := sendAtom s (rackSlot a) h (rackLocal a) (hartHint s h) op (wid == .w64) x cmp (.hartAtom h)
    if r.2 = .ok then r.1 else atomDone r.1 h r.2 0

/-- SC on a line of the cluster: it stores and gives 0 while the reservation of the line stands, and gives 1 otherwise. -/
def scCached (s : Block) (h : HartId) (rd : RegId) (a n : Nat) (x : Word) : Block :=
  let free := fun (s : Block) => hartPut s h { hartAt s h with resv := none, resvAt := none }
  if (hartAt s h).resv ≠ some (a / 128) then retireRd (free s) h rd 1
  else match ensureLine s h (a / 128) true .clean with
    | .refused s st => retireRd (noteFailed (free s) h st) h rd 1
    | .wait s b => hartWait s h b
    | .here s => retireRd (free (storeCached (scribeAtomic s h 3 n a x.toNat) h a (natLe n x.toNat))) h rd 0

/-- LR where no cluster caches: the hart keeps the address and the value read (log 91). -/
def lrUncached (s : Block) (h : HartId) (rd : RegId) (va a n : Nat) : Block :=
  match readPart s h va a n .clean with
  | .bytes s bs => retireRd (hartPut s h { hartAt s h with resv := none, resvAt := some (a, n, leNat bs) }) h rd (signExt n (leNat bs))
  | .trap s c v => takeTrap s h c (BitVec.ofNat 64 v)
  | .wait s b => hartWait s h b

/-- SC where no cluster caches: the home stores while the value that LR read still stands (log 91). -/
def scUncached (s : Block) (h : HartId) (rd : RegId) (wid : Wid) (a : Nat) (x : Word) : Block :=
  let n := widBytes wid
  let s1 := hartPut s h { hartAt s h with resv := none, resvAt := none }
  match (hartAt s h).resvAt with
  | some (b, m, v) =>
    if b = a ∧ m = n then atomSend s1 h (.storeCond rd wid v) wid 0b00101 a (x.toNat % 2 ^ (8 * n)) v else retireRd s1 h rd 1
  | none => retireRd s1 h rd 1

/-- LR, SC or an AMO at a place of the bay (R254). An AMO is performed at the home of its line (R32, R282). -/
def amoAt (s : Block) (h : HartId) (op : AmoOp) (wid : Wid) (rd : RegId) (va a : Nat) (x : Word) : Block :=
  let n := widBytes wid
  let cached := routeOf s h a == .cached
  match op, ownDeny s h a (op != .lr) with
  | .lr, some _ => takeTrap s h causeLoadFault (BitVec.ofNat 64 va)
  | .sc, some st => retireRd (noteFailed (hartPut s h { hartAt s h with resv := none, resvAt := none }) h st) h rd 1
  | _, some st => amoRefused s h rd st
  | .lr, none => if cached then lrCached s h rd va a n else lrUncached s h rd va a n
  | .sc, none => if cached then scCached s h rd a n x else scUncached s h rd wid a x
  | _, none => atomSend s h (.amo rd wid) wid (amoCode op) a (x.toNat % 2 ^ (8 * n)) 0

/-- CORE_AMO (R252, R254, R260): only on addresses of the bay; with rl it waits for the hart's earlier stores. -/
def execCoreAmo (h : HartId) (op : AmoOp) (wid : Wid) (_aq rl : Bool) (rd rs1 rs2 : RegId) (s : State) : Host.Outcome State Fault Refusal := onBlock s fun s =>
  .next (issue s h ⟨0x2F, 0⟩ (fun s =>
    let k := hartAt s h
    let va := (xget k rs1).toNat
    let isLr := op == .lr
    if rl && storesPending s h then s
    else if va % widBytes wid ≠ 0 then takeTrap s h (if isLr then causeLoadMisaligned else causeStoreMisaligned) (BitVec.ofNat 64 va)
    else match translate s h va (if isLr then .load else .store) with
      | .trap s c => takeTrap s h c (BitVec.ofNat 64 va)
      | .wait s b => hartWait s h b
      | .found s a =>
        let route := routeOf s h a
        if route = .bad ∨ route = .window ∨ ¬ sameBay s (rackSlot a) then
          takeTrap s h (if isLr then causeLoadFault else causeStoreFault) (BitVec.ofNat 64 va)
        else amoAt s h op wid rd va a (xget k rs2)))

/-! ### Tagged atomics (R269, R270) -/

/-- A tagged atomic once its address is known. -/
def tamoAt (s : Block) (t : TamoArgs) (op va a : Nat) : Block :=
  let k := hartAt s t.hart
  let n := widBytes t.wid
  let x := (xget k t.rs2).toNat % 2 ^ (8 * n)
  let cmp := (xget k t.rd).toNat % 2 ^ (8 * n)
  let route := routeOf s t.hart a
  if route = .bad ∨ route = .window then takeTrap s t.hart causeStoreFault (BitVec.ofNat 64 va)
  else match ownDeny s t.hart a true with
    | some st => trapFabric s t.hart st
    | none => atomSend s t.hart (.tagged t.rd t.wid) t.wid op a x cmp

/-- TAMO: with rl it is an ordering point (R263). -/
def tamo (op : Nat) (t : TamoArgs) (s : Block) : Block :=
  issue s t.hart ⟨0x2B, 0⟩ (fun s =>
    let va := (xget (hartAt s t.hart) t.rs1).toNat
    let body := fun (s : Block) =>
      if va % widBytes t.wid ≠ 0 then takeTrap s t.hart causeStoreMisaligned (BitVec.ofNat 64 va)
      else match translate s t.hart va .store with
        | .trap s c => takeTrap s t.hart c (BitVec.ofNat 64 va)
        | .wait s b => hartWait s t.hart b
        | .found s a => tamoAt s t op va a
    if t.rl then orderingPoint s t.hart body else body s)

/-- TAMO.ADD. -/
def execTamoAdd (t : TamoArgs) (s : State) : Host.Outcome State Fault Refusal := onBlock s fun s => .next (tamo 0b00000 t s)
/-- TAMO.SWAP. -/
def execTamoSwap (t : TamoArgs) (s : State) : Host.Outcome State Fault Refusal := onBlock s fun s => .next (tamo 0b00001 t s)
/-- TAMO.XOR. -/
def execTamoXor (t : TamoArgs) (s : State) : Host.Outcome State Fault Refusal := onBlock s fun s => .next (tamo 0b00100 t s)
/-- TAMO.CAS. -/
def execTamoCas (t : TamoArgs) (s : State) : Host.Outcome State Fault Refusal := onBlock s fun s => .next (tamo 0b00101 t s)
/-- TAMO.FADD. -/
def execTamoFadd (t : TamoArgs) (s : State) : Host.Outcome State Fault Refusal := onBlock s fun s => .next (tamo 0b00110 t s)
/-- TAMO.OR. -/
def execTamoOr (t : TamoArgs) (s : State) : Host.Outcome State Fault Refusal := onBlock s fun s => .next (tamo 0b01000 t s)
/-- TAMO.AND. -/
def execTamoAnd (t : TamoArgs) (s : State) : Host.Outcome State Fault Refusal := onBlock s fun s => .next (tamo 0b01100 t s)
/-- TAMO.MIN. -/
def execTamoMin (t : TamoArgs) (s : State) : Host.Outcome State Fault Refusal := onBlock s fun s => .next (tamo 0b10000 t s)
/-- TAMO.MAX. -/
def execTamoMax (t : TamoArgs) (s : State) : Host.Outcome State Fault Refusal := onBlock s fun s => .next (tamo 0b10100 t s)
/-- TAMO.MINU. -/
def execTamoMinu (t : TamoArgs) (s : State) : Host.Outcome State Fault Refusal := onBlock s fun s => .next (tamo 0b11000 t s)
/-- TAMO.MAXU. -/
def execTamoMaxu (t : TamoArgs) (s : State) : Host.Outcome State Fault Refusal := onBlock s fun s => .next (tamo 0b11100 t s)

/-! ### SYNC instructions (R265 to R267) -/

/-- Fields of the object word. -/
def objOf (w : Word) : ObjId := BitVec.ofNat 14 (bits w.toNat 0 14)
def objSlot (w : Word) : Nat := bits w.toNat 14 7
def objRmt (w : Word) : Bool := bit w.toNat 21
def objReserved (w : Word) : Bool := bits w.toNat 22 42 != 0

/-- A status as rd receives it. -/
def statusWord (st : Status) : Word := BitVec.ofNat 64 (statusCode st)

/-- A scribe record of a SYNC instruction (R436). -/
def scribeSync (s : Block) (h op : Nat) (w v : Word) : Block := scribeNote s h (Config.scribeOpcode 3 op) 8 w.toNat (natLe 8 v.toNat)

/-- SYNC.ADD and SYNC.SET: a release (R261). `op` is 0 for ADD and 1 for SET; on another module the object is reached by a
tagged atomic, whose answer gives rd (R206). -/
def syncStore (s : Block) (h : HartId) (rd rs1 rs2 : RegId) (op : Nat) (apply : Block → Nat → Word → Block) : Block :=
  issue s h ⟨0x0B, 0⟩ (fun s => orderingPoint s h (fun s =>
    let w := xget (hartAt s h) rs1
    let v := xget (hartAt s h) rs2
    if objReserved w then retireRd s h rd (statusWord .malformed)
    else if objRmt w && objSlot w != ownSlot s then
      let r := sendAtom (scribeSync (countEvent s (unitHart h) 3 1) h op w v) (objSlot w) h (objOf w).toNat 0 (0b11110 + op) true v.toNat 0 (.hartAtom h)
      if r.2 = .ok then hartWait r.1 h (some (.syncTagged rd)) else retireRd r.1 h rd (statusWord r.2)
    else retireRd (apply (scribeSync s h op w v) (objOf w).toNat v) h rd 0))

/-- SYNC.ADD. -/
def execSyncAdd (h : HartId) (rd rs1 rs2 : RegId) (s : State) : Host.Outcome State Fault Refusal := onBlock s fun s => .next (syncStore s h rd rs1 rs2 0 signalAdd)
/-- SYNC.SET. -/
def execSyncSet (h : HartId) (rd rs1 rs2 : RegId) (s : State) : Host.Outcome State Fault Refusal := onBlock s fun s => .next (syncStore s h rd rs1 rs2 1 signalSet)

/-- SYNC.ABORT: the object's abort flag is set, locally only. -/
def execSyncAbort (h : HartId) (rd rs1 : RegId) (s : State) : Host.Outcome State Fault Refusal := onBlock s fun s =>
  .next (issue s h ⟨0x0B, 0⟩ (fun s =>
    let w := xget (hartAt s h) rs1
    if objReserved w || objRmt w then retireRd s h rd (statusWord .malformed)
    else retireRd (abortObj (scribeSync s h 2 w 0) (objOf w).toNat) h rd 0))

/-- SYNC.WAIT: the abort flag takes precedence over the count; otherwise released at once or blocked. -/
def execSyncWait (h : HartId) (rd rs1 rs2 : RegId) (s : State) : Host.Outcome State Fault Refusal := onBlock s fun s =>
  .next (issue s h ⟨0x0B, 0⟩ (fun s =>
    let w := xget (hartAt s h) rs1
    let v := xget (hartAt s h) rs2
    let o := syncAt s (objOf w).toNat
    let s1 := scribeSync s h 3 w v
    if objReserved w || objRmt w then retireRd s h rd (statusWord .malformed)
    else if o.aborted then retireRd s1 h rd (statusWord .aborted)
    else if v.toNat ≤ o.count.toNat then retireRd (countEvent s1 unitSync 2 1) h rd 0
    else hartWait s1 h (some (.syncWait rd (objOf w) v (hallNow s)))))

/-- SYNC_WAIT_RELEASE: the count of the object has reached the value. -/
def execSyncWaitRelease (h : HartId) (s : State) : Host.Outcome State Fault Refusal := onBlock s fun s =>
  .next (match (hartAt s h).blocked with
    | some (.syncWait rd obj v _) => if waitMet s obj v then retireRd (countEvent s unitSync 2 1) h rd 0 else s
    | _ => s)

/-- SYNC.READ: the count, without ordering. -/
def execSyncRead (h : HartId) (rd rs1 : RegId) (s : State) : Host.Outcome State Fault Refusal := onBlock s fun s =>
  .next (issue s h ⟨0x0B, 0⟩ (fun s =>
    let w := xget (hartAt s h) rs1
    if objReserved w || objRmt w then retireRd s h rd (statusWord .malformed)
    else retireRd s h rd (syncAt s (objOf w).toNat).count))

/-! ### Hall time (R268) -/

/-- HTIME reads within 10 ns of the count; where in that range is a free value (log 2). -/
def execHtime (h : HartId) (rd : RegId) (s : State) : Host.Outcome State Fault Refusal := onBlock s fun s =>
  .next (issue s h ⟨0x0B, 0⟩ (fun s =>
    if storesPending s h then s
    else
      let r := freeNext s
      retireRd r.2 h rd (hallNow s + BitVec.ofNat 64 (Config.freeValue r.1 % 21) - 10)))

/-- HTWAIT blocks until hall time reaches rs1. -/
def execHtwait (h : HartId) (rd rs1 : RegId) (s : State) : Host.Outcome State Fault Refusal := onBlock s fun s =>
  .next (issue s h ⟨0x0B, 0⟩ (fun s =>
    let v := xget (hartAt s h) rs1
    if v.toNat ≤ hallNat s then retireRd s h rd (hallNow s) else hartWait s h (some (.htWait rd v))))

/-- HTWAIT_RELEASE: hall time has reached the target. -/
def execHtwaitRelease (h : HartId) (s : State) : Host.Outcome State Fault Refusal := onBlock s fun s =>
  .next (match (hartAt s h).blocked with
    | some (.htWait rd v) => if v.toNat ≤ hallNat s then retireRd s h rd (hallNow s) else s
    | _ => s)

/-! ### CSRs that the spec names (R249, R250, R253, R268, R516, R517) -/

/-- What a read of a CSR gives a hart. `t` is hall time as the hart reads it, within 10 ns of the time unit's count. -/
def csrRead (s : Block) (h : HartId) (n : Nat) (t : Word) : Word :=
  let k := hartAt s h
  match n with
  | 0x001 => BitVec.ofNat 64 (bits k.fcsr.toNat 0 5)
  | 0x002 => BitVec.ofNat 64 (bits k.fcsr.toNat 5 3)
  | 0x003 => k.fcsr.setWidth 64
  | 0x008 => k.vstart
  | 0x009 => BitVec.ofNat 64 k.vxsat.toNat
  | 0x00A => k.vxrm.setWidth 64
  | 0x00F => BitVec.ofNat 64 (k.vxsat.toNat + 2 * k.vxrm.toNat)
  | 0x344 => setBits (csrGet k 0x344).toNat 7 1 k.mtip.toNat
  | 0x7C0 => k.otnmtcmp
  | 0x800 => k.otnhint
  | 0xC01 => t
  | 0xC20 => k.vl
  | 0xC21 => k.vtype
  | 0xC22 => 16
  | 0xF11 => 0
  | 0xF12 => 0x7720
  | 0xF13 => BitVec.ofNat 64 (odNat s 0x1000 4)
  | 0xF14 => BitVec.ofNat 64 h.val
  | n =>
    if 0xC03 ≤ n ∧ n ≤ 0xC0A then
      (if odOn s 0xB000 2 then BitVec.ofNat 64 (tget 0 s.counters.vals (8 * unitHart h + (n - 0xC03))) else 0)
    else if 0x323 ≤ n ∧ n ≤ 0x32A then BitVec.ofNat 64 (selectOf s (unitHart h) (n - 0x323))
    else csrGet k n

/-- OTNHINT: a write of CSR otnhint, whose old value goes to rd (R253); reserved bits and HINT 0b11 raise an
illegal-instruction exception. -/
def execOtnhint (h : HartId) (r : CsrRegs) (s : State) : Host.Outcome State Fault Refusal := onBlock s fun s =>
  .next (issue s h ⟨0x73, 0⟩ (fun s =>
    let v := xget (hartAt s h) r.rs1
    let old := csrRead s h 0x800 0
    if 3 ≤ v.toNat then takeTrap s h causeIllegal 0 else retireRd (hartPut s h { hartAt s h with otnhint := v }) h r.rd old))

/-- OTNMTCMP: a write of the machine CSR otnmtcmp, whose old value goes to rd; MTIP follows the comparison (R268). -/
def execOtnmtcmp (h : HartId) (r : CsrRegs) (s : State) : Host.Outcome State Fault Refusal := onBlock s fun s =>
  .next (issue s h ⟨0x73, 0⟩ (fun s =>
    let k := hartAt s h
    let v := xget k r.rs1
    if k.priv ≠ .machine then takeTrap s h causeIllegal 0
    else retireRd (hartPut s h { k with otnmtcmp := v, mtip := decide (v.toNat ≤ hallNat s) }) h r.rd (csrRead s h 0x7C0 0)))

/-- Whether an interrupt may be taken now: between instructions, or out of a SYNC.WAIT or HTWAIT (R267, R268). -/
def interruptible (k : Hart) : Bool :=
  !k.held && (match k.blocked with
    | none => true
    | some (.syncWait _ _ _ _) => true
    | some (.htWait _ _) => true
    | _ => false)

/-- MTIP: hall time has reached otnmtcmp. -/
def execMtip (h : HartId) (s : State) : Host.Outcome State Fault Refusal := onBlock s fun s =>
  .next (let k := hartAt s h
    if hallNat s < k.otnmtcmp.toNat then s
    else
      let k1 := { k with mtip := true }
      let s1 := hartPut s h k1
      if interruptible k1 && timerTaken k1 then takeTimer s1 h else s1)

/-! ### The block port and OWN_CMD (R354, R484) -/

/-- A window write as an instruction. -/
def windowRow (s : Block) (h : HartId) (index sub : Nat) (v : Word) : Block :=
  issue s h ⟨0x23, windowAddr s index sub⟩ (fun s => let s := windowStore s h index sub v; retire s h (hartAt s h))

/-- CURSOR. -/
def execCursor (h : HartId) (value : Word) (s : State) : Host.Outcome State Fault Refusal := onBlock s fun s => .next (windowRow s h 0x1030 1 value)
/-- DATA_WRITE. -/
def execDataWrite (h : HartId) (value : Word) (s : State) : Host.Outcome State Fault Refusal := onBlock s fun s => .next (windowRow s h 0x1030 2 value)
/-- COMMIT. -/
def execCommit (h : HartId) (value : Word) (s : State) : Host.Outcome State Fault Refusal := onBlock s fun s => .next (windowRow s h 0x1030 3 value)

/-- DATA_READ: a refused read raises a load access fault with the status in mtval (R485). -/
def execDataRead (h : HartId) (rd : RegId) (s : State) : Host.Outcome State Fault Refusal := onBlock s fun s =>
  .next (issue s h ⟨0x03, windowAddr s 0x1030 2⟩ (fun s =>
    match windowRead s h 0x1030 2 with
    | .value s v => retireRd s h rd (BitVec.ofNat 64 v)
    | .refused st => takeTrap s h causeLoadFault (statusWord st)
    | .wait => s))

/-- ACQUIRE_EXCL (R351, R354). -/
def execAcquireExcl (h : HartId) (slot : BitVec 7) (region : BitVec 18) (s : State) : Host.Outcome State Fault Refusal := onBlock s fun s =>
  .next (windowRow s h 0x6110 1 (ownCmdValue 1 slot.toNat region.toNat))
/-- ACQUIRE_READ (R351, R354). -/
def execAcquireRead (h : HartId) (slot : BitVec 7) (region : BitVec 18) (s : State) : Host.Outcome State Fault Refusal := onBlock s fun s =>
  .next (windowRow s h 0x6110 1 (ownCmdValue 2 slot.toNat region.toNat))
/-- OWN_RELEASE (R352, R354). -/
def execOwnRelease (h : HartId) (slot : BitVec 7) (region : BitVec 18) (s : State) : Host.Outcome State Fault Refusal := onBlock s fun s =>
  .next (windowRow s h 0x6110 1 (ownCmdValue 3 slot.toNat region.toNat))

end Sys2Proof.Machine
end

