-- ==== Sys2Proof/Machine/Vector.lean ====
section
/-! DEFINITION. Vector loads and stores and vsetvl under the module's choices (R252, R255 to R257). -/

namespace Sys2Proof.Machine

open Sys2Proof

/-! ### vtype (R250, R257) -/

/-- Base-2 logarithm of SEW in bytes, and of LMUL. -/
def vsewLog (vtype : Word) : Nat := bits vtype.toNat 3 3
def lmulLog (vtype : Word) : Int := sx 3 (bits vtype.toNat 0 3)

/-- The vill bit. -/
def vill (vtype : Word) : Bool := bit vtype.toNat 63

/-- Base-2 logarithm of VLMAX: VLEN is 128 bits. -/
def vlmaxLog (vtype : Word) : Int := 4 - vsewLog vtype + lmulLog vtype

/-- Whether a vtype is supported: SEW 8 to 64, LMUL 1/8 to 8, at least one element in a register group. -/
def vtypeOk (vtype : Word) : Bool :=
  decide (vtype.toNat < 256) && decide (vsewLog vtype < 4) && bits vtype.toNat 0 3 != 4 && decide (0 ≤ vlmaxLog vtype)

/-- VLMAX of a supported vtype. -/
def vlmax (vtype : Word) : Nat := 2 ^ (vlmaxLog vtype).toNat

/-- The vector length for an AVL (R257). -/
def vlFor (avl m : Nat) : Nat := if avl ≤ m then avl else if avl < 2 * m then (avl + 1) / 2 else m

/-- VSETVL (R257). -/
def execVsetvl (h : HartId) (rd : RegId) (avl : AvlSrc) (vtype : Word) (s : State) : Host.Outcome State Fault Refusal := onBlock s fun s =>
  .next (issue s h ⟨0x57, 0⟩ (fun s =>
    let k := hartAt s h
    if !vtypeOk vtype then retire s h (xset { k with vtype := 0x8000000000000000, vl := 0 } rd 0)
    else
      let m := vlmax vtype
      let n := match avl with
        | .imm u => vlFor u.toNat m
        | .reg r => if r ≠ 0 then vlFor (xget k r).toNat m else if rd ≠ 0 then m else vlFor k.vl.toNat m
      let v : Word := BitVec.ofNat 64 n
      retire s h (xset { k with vtype := vtype, vl := v } rd v)))

/-! ### Elements of register groups -/

/-- Read and write element `i` of `n` bytes of the group at register `r`. -/
def velem (k : Hart) (r n i : Nat) : Nat := bits (vget k (r + i * n / 16)).toNat (8 * (i * n % 16)) (8 * n)
def vput (k : Hart) (r n i v : Nat) : Hart :=
  vset k (r + i * n / 16) (BitVec.ofNat 128 (setBits (vget k (r + i * n / 16)).toNat (8 * (i * n % 16)) (8 * n) v))

/-- Registers of a group whose LMUL has this logarithm. -/
def groupRegs (e : Int) : Nat := 2 ^ e.toNat

/-- Base-2 logarithm of the width of the elements moved: SEW for indexed accesses. -/
def vdataLog (k : Hart) (v : VAccess) : Nat :=
  match v.mode with
  | .indexed _ _ => vsewLog k.vtype
  | _ => v.eewLog

/-- Logarithm of the group size for elements of a width. -/
def emulLog (k : Hart) (eewLog : Nat) : Int := lmulLog k.vtype + eewLog - vsewLog k.vtype

/-- Whether a group size exists and a register is aligned to it. -/
def groupOk (e : Int) (r : Nat) : Bool := decide (-3 ≤ e) && decide (e ≤ 3) && r % groupRegs e == 0

/-- Whether an access is one that V 1.0 defines. -/
def vaccessOk (k : Hart) (v : VAccess) : Bool :=
  let e := emulLog k (vdataLog k v)
  let n := (v.nf + 1) * groupRegs e
  !vill k.vtype && groupOk e v.vd.toNat && decide (n ≤ 8) && decide (v.vd.toNat + n ≤ 32) && !(v.masked && !v.isStore && v.vd == 0) &&
    (match v.mode with
      | .unit => !(v.faultOnlyFirst && v.isStore)
      | .strided _ => !v.faultOnlyFirst
      | .indexed vs2 idxLog => !v.faultOnlyFirst && groupOk (emulLog k idxLog) vs2.toNat)

/-- Address of segment `i`. -/
def segmentAddr (k : Hart) (v : VAccess) (i : Nat) : Nat :=
  let n := 2 ^ vdataLog k v
  let base := (xget k v.rs1).toNat
  (base + (match v.mode with
    | .unit => i * ((v.nf + 1) * n)
    | .strided rs2 => i * (xget k rs2).toNat
    | .indexed vs2 idxLog => velem k vs2.toNat (2 ^ idxLog.val) i)) % 2 ^ 64

/-- Addresses of the fields of segment `i`, each with its register. -/
def segmentFields (k : Hart) (v : VAccess) (i : Nat) : List (Nat × Nat) :=
  let n := 2 ^ vdataLog k v
  (List.range (v.nf + 1)).map (fun f =>
    ((segmentAddr k v i + f * n) % 2 ^ 64, v.vd.toNat + f * groupRegs (emulLog k (vdataLog k v))))

/-! ### Segments (R255): complete or untouched -/

/-- What one segment does: done, an exception, or a wait. -/
inductive VStep where
  | done (s : Block)
  | trap (s : Block) (cause tval : Nat)
  | wait (s : Block) (b : Option Blocked)

/-- Read the fields of a segment. -/
def readFields (h : HartId) (n : Nat) : List (Nat × Nat) → Block → List (Nat × Nat) → VStep ⊕ (Block × List (Nat × Nat))
  | [], s, acc => .inr (s, acc)
  | (va, r) :: t, s, acc =>
    if va % n ≠ 0 then .inl (.trap s causeLoadMisaligned va)
    else match readParts h .clean [(va, n)] s [] with
      | .bytes s bs => readFields h n t s (acc ++ [(r, leNat bs)])
      | .trap s c v => .inl (.trap s c v)
      | .wait s b => .inl (.wait s b)

/-- Load segment `i`. -/
def loadSegment (h : HartId) (v : VAccess) (i : Nat) (s : Block) : VStep :=
  let k := hartAt s h
  let n := 2 ^ vdataLog k v
  match readFields h n (segmentFields k v i) s [] with
  | .inl r => r
  | .inr (s, vals) => .done (hartPut s h (vals.foldl (fun k p => vput k p.1 n i p.2) (hartAt s h)))

/-- Prepare the stores of a segment's fields. -/
def prepareFields (h : HartId) (k : Hart) (n i : Nat) : List (Nat × Nat) → Block → List StoreAt → Prepared
  | [], s, acc => .ready s acc
  | (va, r) :: t, s, acc =>
    if va % n ≠ 0 then .trap s causeStoreMisaligned va
    else match prepareParts h (natLe n (velem k r n i)) va [(va, n)] s [] with
      | .ready s l => prepareFields h k n i t s (acc ++ l)
      | p => p

/-- Store segment `i`. -/
def storeSegment (h : HartId) (v : VAccess) (i : Nat) (s : Block) : VStep :=
  let k := hartAt s h
  match prepareFields h k (2 ^ vdataLog k v) i (segmentFields k v i) s [] with
  | .ready s l => .done (makeStores h s l)
  | .trap s c va => .trap s c va
  | .wait s b => .wait s b

/-- Segments from `i` on (R255): inactive ones are left undisturbed (R256); an exception leaves vstart at its segment, save
that a fault-only-first load above segment 0 reduces vl to it (R257). A wait keeps the segments done in vstart until the
instruction goes on. -/
def segments (h : HartId) (v : VAccess) : Nat → Nat → Block → Block
  | 0, _, s => retire s h (hartAt s h)
  | fuel + 1, i, s =>
    if v.masked && !bit (vget (hartAt s h) 0).toNat i then segments h v fuel (i + 1) s
    else match (if v.isStore then storeSegment h v i s else loadSegment h v i s) with
      | .done s => segments h v fuel (i + 1) s
      | .trap s c va =>
        if v.faultOnlyFirst && decide (0 < i) then retire s h { hartAt s h with vl := BitVec.ofNat 64 i }
        else takeTrap (hartPut s h { hartAt s h with vstart := BitVec.ofNat 64 i }) h c (BitVec.ofNat 64 va)
      | .wait s b => hartWait (hartPut s h { hartAt s h with vstart := BitVec.ofNat 64 i }) h b

/-- VECTOR_ACCESS (R252, R255, R256): it starts at vstart. -/
def execVectorAccess (v : VAccess) (s : State) : Host.Outcome State Fault Refusal := onBlock s fun s =>
  .next (issue s v.hart ⟨if v.isStore then 0x27 else 0x07, 0⟩ (fun s =>
    let k := hartAt s v.hart
    if !vaccessOk k v then takeTrap s v.hart causeIllegal 0
    else segments v.hart v (min 128 k.vl.toNat - k.vstart.toNat) k.vstart.toNat s))

end Sys2Proof.Machine
end

