-- ==== Sys2Proof/Machine/Dispatch.lean ====
section
/-! DEFINITION. One arm per command: its meaning, called directly. -/

namespace Sys2Proof.Machine

open Sys2Proof

/-- The effect of one command on everything but the queue. -/
def exec (i : Instr) (s : State) : Host.Outcome State Fault Refusal :=
  match i with
  | .launch q => Sys2Proof.Machine.execLaunch q s
  | .halt q => Sys2Proof.Machine.execHalt q s
  | .fence q => Sys2Proof.Machine.execFence q s
  | .wait q => Sys2Proof.Machine.execWait q s
  | .waitRelease q => Sys2Proof.Machine.execWaitRelease q s
  | .waitTimeout w => Sys2Proof.Machine.execWaitTimeout w s
  | .signalAdd q => Sys2Proof.Machine.execSignalAdd q s
  | .signalSet q => Sys2Proof.Machine.execSignalSet q s
  | .counterSnap q => Sys2Proof.Machine.execCounterSnap q s
  | .counterStamp q => Sys2Proof.Machine.execCounterStamp q s
  | .swatchBegin t => Sys2Proof.Machine.execSwatchBegin t s
  | .swatchEnd t => Sys2Proof.Machine.execSwatchEnd t s
  | .copy t => Sys2Proof.Machine.execCopy t s
  | .move t => Sys2Proof.Machine.execMove t s
  | .load t => Sys2Proof.Machine.execLoad t s
  | .weightLoadDone t => Sys2Proof.Machine.execWeightLoadDone t s
  | .fstream t => Sys2Proof.Machine.execFstream t s
  | .tstream t => Sys2Proof.Machine.execTstream t s
  | .rawadd t => Sys2Proof.Machine.execRawadd t s
  | .glaze t pwpError => Sys2Proof.Machine.execGlaze t pwpError s
  | .store t pwpError => Sys2Proof.Machine.execStore t pwpError s
  | .storeRaw t => Sys2Proof.Machine.execStoreRaw t s
  | .storeDgrad t reads => Sys2Proof.Machine.execStoreDgrad t reads s
  | .stencilForm t pwpError => Sys2Proof.Machine.execStencilForm t pwpError s
  | .stencilApply t reads => Sys2Proof.Machine.execStencilApply t reads s
  | .gather t => Sys2Proof.Machine.execGather t s
  | .scatterOverwrite t => Sys2Proof.Machine.execScatterOverwrite t s
  | .scatterAdd t => Sys2Proof.Machine.execScatterAdd t s
  | .scatterMax t => Sys2Proof.Machine.execScatterMax t s
  | .scatterMin t => Sys2Proof.Machine.execScatterMin t s
  | .commandCompletion q index => Sys2Proof.Machine.execCommandCompletion q index s
  | .stencilTableReloadDone t func => Sys2Proof.Machine.execStencilTableReloadDone t func s
  | .glazeTableReloadDone t func => Sys2Proof.Machine.execGlazeTableReloadDone t func s
  | .tileInternalError t => Sys2Proof.Machine.execTileInternalError t s
  | .spareSelfTestDone t r => Sys2Proof.Machine.execSpareSelfTestDone t r s
  | .solve g => Sys2Proof.Machine.execSolve g s
  | .problemEnded g j => Sys2Proof.Machine.execProblemEnded g j s
  | .qpCommit g j => Sys2Proof.Machine.execQpCommit g j s
  | .plumbDeadline g => Sys2Proof.Machine.execPlumbDeadline g s
  | .groups o value => Sys2Proof.Machine.execGroups o value s
  | .groupMode o g value => Sys2Proof.Machine.execGroupMode o g value s
  | .syncAdd h rd rs1 rs2 => Sys2Proof.Machine.execSyncAdd h rd rs1 rs2 s
  | .syncSet h rd rs1 rs2 => Sys2Proof.Machine.execSyncSet h rd rs1 rs2 s
  | .syncAbort h rd rs1 => Sys2Proof.Machine.execSyncAbort h rd rs1 s
  | .syncWait h rd rs1 rs2 => Sys2Proof.Machine.execSyncWait h rd rs1 rs2 s
  | .syncWaitRelease h => Sys2Proof.Machine.execSyncWaitRelease h s
  | .syncRead h rd rs1 => Sys2Proof.Machine.execSyncRead h rd rs1 s
  | .htime h rd => Sys2Proof.Machine.execHtime h rd s
  | .htwait h rd rs1 => Sys2Proof.Machine.execHtwait h rd rs1 s
  | .htwaitRelease h => Sys2Proof.Machine.execHtwaitRelease h s
  | .tamoAdd a => Sys2Proof.Machine.execTamoAdd a s
  | .tamoSwap a => Sys2Proof.Machine.execTamoSwap a s
  | .tamoXor a => Sys2Proof.Machine.execTamoXor a s
  | .tamoCas a => Sys2Proof.Machine.execTamoCas a s
  | .tamoFadd a => Sys2Proof.Machine.execTamoFadd a s
  | .tamoOr a => Sys2Proof.Machine.execTamoOr a s
  | .tamoAnd a => Sys2Proof.Machine.execTamoAnd a s
  | .tamoMin a => Sys2Proof.Machine.execTamoMin a s
  | .tamoMax a => Sys2Proof.Machine.execTamoMax a s
  | .tamoMinu a => Sys2Proof.Machine.execTamoMinu a s
  | .tamoMaxu a => Sys2Proof.Machine.execTamoMaxu a s
  | .coreLoad h sizeLog signed rd rs1 imm ecc => Sys2Proof.Machine.execCoreLoad h sizeLog signed rd rs1 imm ecc s
  | .coreStore h sizeLog rs2 rs1 imm => Sys2Proof.Machine.execCoreStore h sizeLog rs2 rs1 imm s
  | .coreFence h pred succ => Sys2Proof.Machine.execCoreFence h pred succ s
  | .coreAmo h op wid aq rl rd rs1 rs2 => Sys2Proof.Machine.execCoreAmo h op wid aq rl rd rs1 rs2 s
  | .vectorAccess a => Sys2Proof.Machine.execVectorAccess a s
  | .vsetvl h rd avl vtype => Sys2Proof.Machine.execVsetvl h rd avl vtype s
  | .otnhint h r => Sys2Proof.Machine.execOtnhint h r s
  | .otnmtcmp h r => Sys2Proof.Machine.execOtnmtcmp h r s
  | .mtip h => Sys2Proof.Machine.execMtip h s
  | .interleaveMap o map => Sys2Proof.Machine.execInterleaveMap o map s
  | .jobZeroingDone => Sys2Proof.Machine.execJobZeroingDone s
  | .stackTempSample stack reading => Sys2Proof.Machine.execStackTempSample stack reading s
  | .scrubRead stack ecc => Sys2Proof.Machine.execScrubRead stack ecc s
  | .rowRepairDone stack => Sys2Proof.Machine.execRowRepairDone stack s
  | .flitReceived port f => Sys2Proof.Machine.execFlitReceived port f s
  | .nak port fack => Sys2Proof.Machine.execNak port fack s
  | .laneFault port cause => Sys2Proof.Machine.execLaneFault port cause s
  | .retrainDone port passed => Sys2Proof.Machine.execRetrainDone port passed s
  | .downPortRetrain port => Sys2Proof.Machine.execDownPortRetrain port s
  | .planeReturn req slot line => Sys2Proof.Machine.execPlaneReturn req slot line s
  | .rd p size ecc => Sys2Proof.Machine.execRd p size ecc s
  | .rdrsp r st data => Sys2Proof.Machine.execRdrsp r st data s
  | .wr p data => Sys2Proof.Machine.execWr p data s
  | .wrack r st => Sys2Proof.Machine.execWrack r st s
  | .atom p x opnd cmp => Sys2Proof.Machine.execAtom p x opnd cmp s
  | .atomrsp r st old hepoch => Sys2Proof.Machine.execAtomrsp r st old hepoch s
  | .atomack sslot req seq => Sys2Proof.Machine.execAtomack sslot req seq s
  | .red p x data => Sys2Proof.Machine.execRed p x data s
  | .redrsp r st hepoch => Sys2Proof.Machine.execRedrsp r st hepoch s
  | .abort p x => Sys2Proof.Machine.execAbort p x s
  | .bulk p data => Sys2Proof.Machine.execBulk p data s
  | .bulkack r st => Sys2Proof.Machine.execBulkack r st s
  | .fabricTimeout r => Sys2Proof.Machine.execFabricTimeout r s
  | .reach plane mapSeq reachable => Sys2Proof.Machine.execReach plane mapSeq reachable s
  | .reachLost plane => Sys2Proof.Machine.execReachLost plane s
  | .timeSync plane t1 tseq src => Sys2Proof.Machine.execTimeSync plane t1 tseq src s
  | .delayReqDue => Sys2Proof.Machine.execDelayReqDue s
  | .delayRsp plane t4 tseq => Sys2Proof.Machine.execDelayRsp plane t4 tseq s
  | .planeSourceLost => Sys2Proof.Machine.execPlaneSourceLost s
  | .cgets a line ask => Sys2Proof.Machine.execCgets a line ask s
  | .cgetm a line ask => Sys2Proof.Machine.execCgetm a line ask s
  | .cput a line tid data => Sys2Proof.Machine.execCput a line tid data s
  | .crecallInv home c line tid => Sys2Proof.Machine.execCrecallInv home c line tid s
  | .crecallFwd home c line tid => Sys2Proof.Machine.execCrecallFwd home c line tid s
  | .cdata home c line tid excl st data => Sys2Proof.Machine.execCdata home c line tid excl st data s
  | .cack a line tid data => Sys2Proof.Machine.execCack a line tid data s
  | .recallTimeout line => Sys2Proof.Machine.execRecallTimeout line s
  | .cownAcqExcl o region tid => Sys2Proof.Machine.execCownAcqExcl o region tid s
  | .cownAcqRead o region tid => Sys2Proof.Machine.execCownAcqRead o region tid s
  | .cownRelease o region tid => Sys2Proof.Machine.execCownRelease o region tid s
  | .cownPing home tid => Sys2Proof.Machine.execCownPing home tid s
  | .cownPingDue => Sys2Proof.Machine.execCownPingDue s
  | .cownrsp home tid st epoch => Sys2Proof.Machine.execCownrsp home tid st epoch s
  | .acquireExcl h slot region => Sys2Proof.Machine.execAcquireExcl h slot region s
  | .acquireRead h slot region => Sys2Proof.Machine.execAcquireRead h slot region s
  | .ownRelease h slot region => Sys2Proof.Machine.execOwnRelease h slot region s
  | .clearLost o region => Sys2Proof.Machine.execClearLost o region s
  | .unitReset cls inst orderly => Sys2Proof.Machine.execUnitReset cls inst orderly s
  | .ridgeLinkFailure link => Sys2Proof.Machine.execRidgeLinkFailure link s
  | .coll e => Sys2Proof.Machine.execColl e s
  | .form e => Sys2Proof.Machine.execForm e s
  | .reform e => Sys2Proof.Machine.execReform e s
  | .park e => Sys2Proof.Machine.execPark e s
  | .dissolve e => Sys2Proof.Machine.execDissolve e s
  | .formUp gid rank lsig hepoch => Sys2Proof.Machine.execFormUp gid rank lsig hepoch s
  | .formDown gid st => Sys2Proof.Machine.execFormDown gid st s
  | .ready h pc opsig allow => Sys2Proof.Machine.execReady h pc opsig allow s
  | .chunkStart gid collSeq pc => Sys2Proof.Machine.execChunkStart gid collSeq pc s
  | .chunkData h pc off data => Sys2Proof.Machine.execChunkData h pc off data s
  | .chunkHeader h pc hd => Sys2Proof.Machine.execChunkHeader h pc hd s
  | .resend h pc => Sys2Proof.Machine.execResend h pc s
  | .pieceTimeout h pc => Sys2Proof.Machine.execPieceTimeout h pc s
  | .fail h st subject => Sys2Proof.Machine.execFail h st subject s
  | .trussAck h => Sys2Proof.Machine.execTrussAck h s
  | .failAckTimeout gid collSeq child => Sys2Proof.Machine.execFailAckTimeout gid collSeq child s
  | .probe h => Sys2Proof.Machine.execProbe h s
  | .probeAnswer h epoch => Sys2Proof.Machine.execProbeAnswer h epoch s
  | .memberTimeout h => Sys2Proof.Machine.execMemberTimeout h s
  | .doneUp h => Sys2Proof.Machine.execDoneUp h s
  | .doneDown h => Sys2Proof.Machine.execDoneDown h s
  | .count h entries => Sys2Proof.Machine.execCount h entries s
  | .barrierArrive gid rank gen10 => Sys2Proof.Machine.execBarrierArrive gid rank gen10 s
  | .barrierRelease gid gen10 trel => Sys2Proof.Machine.execBarrierRelease gid gen10 trel s
  | .barrierTrelReached b => Sys2Proof.Machine.execBarrierTrelReached b s
  | .barrierTimeout b => Sys2Proof.Machine.execBarrierTimeout b s
  | .htrefFrame time crcOk => Sys2Proof.Machine.execHtrefFrame time crcOk s
  | .htrefEdge => Sys2Proof.Machine.execHtrefEdge s
  | .ieee1588Message offset => Sys2Proof.Machine.execIeee1588Message offset s
  | .holdoverExpiry => Sys2Proof.Machine.execHoldoverExpiry s
  | .scribeExchangeDue => Sys2Proof.Machine.execScribeExchangeDue s
  | .scribe exch entries mismatch => Sys2Proof.Machine.execScribe exch entries mismatch s
  | .scribeLost => Sys2Proof.Machine.execScribeLost s
  | .arm => Sys2Proof.Machine.execArm s
  | .armingComplete => Sys2Proof.Machine.execArmingComplete s
  | .sketchSweepGranule => Sys2Proof.Machine.execSketchSweepGranule s
  | .priorityCopyDone => Sys2Proof.Machine.execPriorityCopyDone s
  | .sketchCopyEnd => Sys2Proof.Machine.execSketchCopyEnd s
  | .sketchDrainTimeout => Sys2Proof.Machine.execSketchDrainTimeout s
  | .restore fetched => Sys2Proof.Machine.execRestore fetched s
  | .jobManifest o bytes => Sys2Proof.Machine.execJobManifest o bytes s
  | .lChunk src chunk offset data => Sys2Proof.Machine.execLChunk src chunk offset data s
  | .lGot src chunk got => Sys2Proof.Machine.execLGot src chunk got s
  | .lChunkResendDue child => Sys2Proof.Machine.execLChunkResendDue child s
  | .launchTimeout => Sys2Proof.Machine.execLaunchTimeout s
  | .lJoin src lowest => Sys2Proof.Machine.execLJoin src lowest s
  | .lAck src digest => Sys2Proof.Machine.execLAck src digest s
  | .lReport src silent => Sys2Proof.Machine.execLReport src silent s
  | .lReplace src rank m sig => Sys2Proof.Machine.execLReplace src rank m sig s
  | .lStart src trel sig => Sys2Proof.Machine.execLStart src trel sig s
  | .hartsStart => Sys2Proof.Machine.execHartsStart s
  | .lAbort src sig => Sys2Proof.Machine.execLAbort src sig s
  | .hello path source role nonce => Sys2Proof.Machine.execHello path source role nonce s
  | .openSession path source payload => Sys2Proof.Machine.execOpenSession path source payload s
  | .close r => Sys2Proof.Machine.execClose r s
  | .read r index sub offset length => Sys2Proof.Machine.execRead r index sub offset length s
  | .write r index sub typ offset last data => Sys2Proof.Machine.execWrite r index sub typ offset last data s
  | .blockRead r items => Sys2Proof.Machine.execBlockRead r items s
  | .blockWrite r items => Sys2Proof.Machine.execBlockWrite r items s
  | .subscribe r index sub mode period => Sys2Proof.Machine.execSubscribe r index sub mode period s
  | .unsubscribe r sub => Sys2Proof.Machine.execUnsubscribe r sub s
  | .notifyPeriod session sub => Sys2Proof.Machine.execNotifyPeriod session sub s
  | .notifyCoalesceEnd session sub => Sys2Proof.Machine.execNotifyCoalesceEnd session sub s
  | .requestTimeout r => Sys2Proof.Machine.execRequestTimeout r s
  | .idleTimeout session => Sys2Proof.Machine.execIdleTimeout session s
  | .odWrite o index sub typ data => Sys2Proof.Machine.execOdWrite o index sub typ data s
  | .cursor h value => Sys2Proof.Machine.execCursor h value s
  | .dataRead h rd => Sys2Proof.Machine.execDataRead h rd s
  | .dataWrite h value => Sys2Proof.Machine.execDataWrite h value s
  | .commit h value => Sys2Proof.Machine.execCommit h value s
  | .exportedTo o seq => Sys2Proof.Machine.execExportedTo o seq s
  | .funcDisable o cls inst => Sys2Proof.Machine.execFuncDisable o cls inst s
  | .disableDrainTimeout => Sys2Proof.Machine.execDisableDrainTimeout s
  | .funcEnable o cls inst r => Sys2Proof.Machine.execFuncEnable o cls inst r s
  | .flow o f value => Sys2Proof.Machine.execFlow o f value s
  | .transportData seg => Sys2Proof.Machine.execTransportData seg s
  | .transportAck seg => Sys2Proof.Machine.execTransportAck seg s
  | .transportSendRecord f => Sys2Proof.Machine.execTransportSendRecord f s
  | .transportRto f seg => Sys2Proof.Machine.execTransportRto f seg s
  | .ackDelay f => Sys2Proof.Machine.execAckDelay f s
  | .counterConfig o value => Sys2Proof.Machine.execCounterConfig o value s
  | .counterValues o => Sys2Proof.Machine.execCounterValues o s
  | .snapTime o time => Sys2Proof.Machine.execSnapTime o time s
  | .snapshotLatch => Sys2Proof.Machine.execSnapshotLatch s
  | .thaw => Sys2Proof.Machine.execThaw s
  | .logTokenRefill cls => Sys2Proof.Machine.execLogTokenRefill cls s
  | .alarmAck o code => Sys2Proof.Machine.execAlarmAck o code s
  | .oldestUnexported o seq => Sys2Proof.Machine.execOldestUnexported o seq s
  | .powerUp o => Sys2Proof.Machine.execPowerUp o s
  | .standbyReached failures => Sys2Proof.Machine.execStandbyReached failures s
  | .readyReached failedTiles failedUnits failedPorts failedStacks => Sys2Proof.Machine.execReadyReached failedTiles failedUnits failedPorts failedStacks s
  | .standby o => Sys2Proof.Machine.execStandby o s
  | .powerDown o => Sys2Proof.Machine.execPowerDown o s
  | .releaseJob o => Sys2Proof.Machine.execReleaseJob o s
  | .reset o => Sys2Proof.Machine.execReset o s
  | .maintenanceReset o => Sys2Proof.Machine.execMaintenanceReset o s
  | .watchdogExpiry => Sys2Proof.Machine.execWatchdogExpiry s
  | .pllLockLoss => Sys2Proof.Machine.execPllLockLoss s
  | .referenceLoss => Sys2Proof.Machine.execReferenceLoss s
  | .inputApplied => Sys2Proof.Machine.execInputApplied s
  | .inputHeldInRange => Sys2Proof.Machine.execInputHeldInRange s
  | .strapRead ga ra parity => Sys2Proof.Machine.execStrapRead ga ra parity s
  | .modEnFall => Sys2Proof.Machine.execModEnFall s
  | .inputSample milliVolts milliAmps => Sys2Proof.Machine.execInputSample milliVolts milliAmps s
  | .dieTempSample temps => Sys2Proof.Machine.execDieTempSample temps s
  | .coolantSample inlet outlet pulses => Sys2Proof.Machine.execCoolantSample inlet outlet pulses s
  | .leakAsserted => Sys2Proof.Machine.execLeakAsserted s
  | .flowPulseLoss => Sys2Proof.Machine.execFlowPulseLoss s
  | .powerLoopEvaluation => Sys2Proof.Machine.execPowerLoopEvaluation s
  | .tripLatchCleared => Sys2Proof.Machine.execTripLatchCleared s
  | .gateDelayExpiry unit => Sys2Proof.Machine.execGateDelayExpiry unit s
  | .fwImage o image => Sys2Proof.Machine.execFwImage o image s
  | .svnCommit o value => Sys2Proof.Machine.execSvnCommit o value s
  | .identityCert o der => Sys2Proof.Machine.execIdentityCert o der s
  | .identityCertCheck => Sys2Proof.Machine.execIdentityCertCheck s
  | .hallTimeSave => Sys2Proof.Machine.execHallTimeSave s
  | .quote o => Sys2Proof.Machine.execQuote o s
  | .htrefFramesMissing => Sys2Proof.Machine.execHtrefFramesMissing s
  | .leakDeasserted => Sys2Proof.Machine.execLeakDeasserted s
  | .referenceRestored => Sys2Proof.Machine.execReferenceRestored s

end Sys2Proof.Machine
end

