-- ==== Sys2Proof/Machine/Tick.lean ====
section
/-! DEFINITION. What the block does when no command waits: one clk600 cycle passes (log 3). -/

namespace Sys2Proof.Machine

open Sys2Proof

/-- Nanoseconds of a clk600 period, 5/3, with the thirds carried (R12). -/
def tickNs (c : ClockSt) : Nat × Fin 3 :=
  if c.third = 0 then (1, 2) else if c.third = 1 then (2, 0) else (2, 1)

/-- A slew of 200 ppm moves hall time by 1 ns in 3,000 periods (R434). -/
def slewNow (c : ClockSt) : Int :=
  if c.cycle % 3000 = 2999 then (if 0 < c.slew then 1 else if c.slew < 0 then -1 else 0) else 0

/-- The clock after one period: hall time never decreases, and its count is 64 bits wide (R432, R434). -/
def tickClock (c : ClockSt) : ClockSt :=
  let p := tickNs c
  let d := slewNow c
  { cycle := c.cycle + 1, hall := c.hall + BitVec.ofNat 64 ((p.1 : Int) + d).toNat, third := p.2, slew := c.slew - d }

/-- Counters that select code 0x3FF count the cycle (R515). -/
def countCycles (s : Block) : Block :=
  if powerState s < 2 then s
  else (s.counters.sel.map (fun e => e.1 / 8)).dedup.foldl (fun s u => countEvent s u 0x3FF 1) s

/-- Requests and commands that wait on a protected granule in this cycle (R457). -/
def stalledNow (s : Block) : Nat :=
  (s.coh.waiting.filter (fun e => (protectedGranule s (e.1 * 128)).isSome)).length

/-- STALL_CYCLES of the generation in progress (R457, R475). -/
def countStallCycles (s : Block) : Block :=
  let n := stalledNow s
  if n = 0 then s
  else
    match s.sketch.gen with
    | some g => { s with sketch := { s.sketch with gen := some { g with stallCyc := g.stallCyc + n } } }
    | none => s

/-- Requests that wait for a bank group under repair in this cycle (R296). -/
def repairWaits (s : Block) : Nat :=
  if s.ecc.repairing.isEmpty then 0
  else (s.coh.waiting.filter (fun e => match e.2 with
    | [] => false
    | r :: _ => (dirAt s e.1).st != .b && blockerOf s e.1 r == .bank)).length

/-- The waits of R296 are counted in clk600 cycles. -/
def countRepairs (s : Block) : Block := if repairWaits s = 0 then s else odBump s 0x3030 8 (repairWaits s)

/-- Whether a packet waits at a port for credit (R308). -/
def creditStalled (p : Port) : Bool := (List.range 8).any (fun v => match vcQueue p v with
  | [] => false
  | x :: _ => decide (tget 0 p.credits v < slotCount x))

/-- Cycles that tiles stall on protected granules and on weight loads, of ports on credit, and cycles of throttled stacks (R90, R456, R286, R515). -/
def countStalled (s : Block) : Block :=
  let s := s.seqs.foldl (fun s e =>
    let held : Bool := match e.2.stream with
      | some st => st.win.any (fun c => c.phase == .fetched && c.stalled)
      | none => false
    if decide (e.1 < 512) then
      countEvent (countEvent s (unitTile e.1) 8 held.toNat) (unitTile e.1) 2 (swapWaits s e.1).toNat
    else s) s
  let s := s.fab.ports.foldl (fun s e => countEvent s (unitPort e.1) 3 (portUp s e.1 && creditStalled e.2).toNat) s
  s.hbm.foldl (fun s e => if 0 < e.2.step then countEvent s (unitHbm e.1) 4 1 else s) s

/-- What the engines do in a cycle without a command: Truss, Sketch and the transport take up what waited, disables that
have drained complete, a latched snapshot and the sampled records are written, units with work are powered (R35, R391, R453, R499, R508, R519). -/
def enginesTick (s : Block) : Block :=
  if powerState s < 2 then s else wakeUnits (traceFlush (snapWrite (drainTick (sketchTick (transportTick (trussTick (countStalled s)))))))

/-- One idle clk600 cycle: the clock advances, the engines go on, waiting requests and ledger entries go as far as they can. -/
def tick (s : Block) : Block :=
  let s := enginesTick (countRepairs (countStallCycles (countCycles { s with clk := tickClock s.clk })))
  ledgerFlush (releaseHeld (drainAll s))

end Sys2Proof.Machine
end

