-- ==== Sys2Proof/Machine/Step.lean ====
section
/-! DEFINITION. One step of the block: the front command of the queue, or an idle clk600 cycle. -/

namespace Sys2Proof.Machine

open Sys2Proof

/-- Take the command at the front of the queue and answer its outcome; on an empty queue one clk600 cycle passes (log 3). -/
def step (s : State) : Host.Outcome State Fault Refusal :=
  match s.pending with
  | [] => .next { s with toBlock := tick s.toBlock }
  | c :: rest => exec c { s with pending := rest }

/-- The state with the command that a word spells at the front of its queue. The table gives no row any bits, so a word
spells no command and the state is unchanged. -/
def State.withFetchWord (s : State) (nbits w : Nat) : State :=
  match decodeTableWord nbits w with
  | some c => { s with pending := c :: s.pending }
  | none => s

end Sys2Proof.Machine
end

