-- ==== Sys2Proof/Safety.lean ====
section
/-! DEFINITION. The terms that claims about the block use: what a command answers, when a sequencer or a hart gets to a
command, what memory holds, and when the waiting commands are ones that the hardware can be given. -/

namespace Sys2Proof

open Sys2Proof.Machine

/-- Memory is in its canonical form: addresses rise strictly and no listed byte is zero (R5, R273). -/
def memoryOk (b : Block) : Bool := Memory.wf b.mem

/-- Every waiting command is one that the hardware can be given. -/
def queueOk (s : State) : Prop := ∀ c ∈ s.pending, c.wf = true

/-- Whatever commands wait behind it, the command takes the module from `b` to `t` and leaves them waiting. -/
def Answers (i : Instr) (b t : Block) : Prop := ∀ q : List Instr, exec i ⟨b, q⟩ = .next ⟨t, q⟩

/-- Every byte of memory reads in `t` as in `b`. -/
def SameMemory (b t : Block) : Prop := ∀ a : Nat, memByte t a = memByte b a

/-! ### Commands of a stream -/

/-- Stream command `c` starts next: it is the next of its kind, its reserved bits are zero, its tile is there, and its
parameter block and descriptors can be read now (R15, R25, R208). -/
def Starts (b : Block) (q : Nat) (plain : Option Bool) (p : BitVec 128 → Bool) (c : CmdSlot) : Prop :=
  nextCmd (settled b q) q plain p = some c ∧ cmdReserved c.word = false ∧
    (isTileSeq q && tileAbsent (settled b q) q) = false ∧
    blockWait (begunState (settled b q) q) q (begunSlot (settled b q) q c) = none

/-- The command is carried out: wherever its stream starts it and its own effect `body`, after the reads of its parameter block
(R280), gives state `s1`, the module goes on from `s1` with the command started, or done where it is complete at once. -/
def RunsAs (i : Instr) (q : Nat) (plain : Option Bool) (p : BitVec 128 → Bool) (body : Block → CmdSlot → Began) : Prop :=
  ∀ (b s1 : Block) (c : CmdSlot) (w : Status) (quick : Bool), Starts b q plain p c →
    body (touchBlock (begunState (settled b q) q) q (begunSlot (settled b q) q c)) (begunSlot (settled b q) q c) =
      .go s1 w quick →
    Answers i b (ledgerFlush (carryOn s1 q { begunSlot (settled b q) q c with
      counts := countsOf (settled b q) s1 (seqUnit (settled b q) q) } w quick))

/-- The command is refused: wherever its stream starts it and its own effect stops it, the stream takes the stop. -/
def StopsAs (i : Instr) (q : Nat) (plain : Option Bool) (p : BitVec 128 → Bool) (body : Block → CmdSlot → Began) : Prop :=
  ∀ (b s1 : Block) (c : CmdSlot) (stop : Stop), Starts b q plain p c →
    body (touchBlock (begunState (settled b q) q) q (begunSlot (settled b q) q c)) (begunSlot (settled b q) q c) =
      .stop s1 stop →
    Answers i b (ledgerFlush (stopSlot s1 q (begunSlot (settled b q) q c) stop))

/-! ### Instructions of a hart -/

/-- Hart `h` issues its next instruction, which `w` describes: it is started and does not wait, no interrupt is taken, and its pc
translates to an address from which the module fetches (R251, R267); `b1` has begun its trace record where it is the one sampled
(R522). -/
def Issues (b : Block) (h : HartId) (w : Issued) (b1 : Block) : Prop :=
  hartReady b h = true ∧ timerTaken (hartAt b h) = false ∧
    ∃ b0 a, translate b h (hartAt b h).pc.toNat .fetch = .found b0 a ∧ fetchable b0 h a = true ∧ b1 = noteIssue b0 h w

/-! ### Requests to the dictionary, and packets that arrive -/

/-- The command writes an entry of the dictionary: where its path is open and permits its role, the write is checked, takes its
effect when it is accepted, and is answered with its status (R479 to R481). -/
def WritesEntry (i : Instr) (o : Origin) (index sub : Nat) (data : List Byte) : Prop :=
  ∀ b : Block, pathOpen b o.path = true → (o.path = .window ∨ pathAllows o.path o.role = true) →
    Answers i b (answerWrite (odWrite b o index sub none data).1 o (odWrite b o index sub none data).2)

/-- A request packet reaches its home: its port is up, its generation is not behind, and its source is a peer. `b1` has noted the
generation (R316, R324). -/
def Arrives (b : Block) (p : PktHdr) (b1 : Block) : Prop :=
  portUp b p.plane = true ∧ arrive b p = some b1 ∧ peerOk b1 p.sslot = true

/-- A tagged request reaches its home for the first time: the replay cache holds no outcome of it, and it does not wait already
(R329). `b1` has noted the generation and the requester's epoch. -/
def ArrivesNew (b : Block) (p : PktHdr) (x : TagExt) (b1 : Block) : Prop :=
  ∃ b0 : Block, Arrives b p b0 ∧ b1 = noteEpoch b0 p x ∧
    b1.fab.replay.find? (fun e => e.slot == p.sslot.val && e.req == p.req.toNat && e.seq == x.seq.toNat) = none ∧
    (x.retry = false ∨ x.hepoch.toNat = homeEpoch b1) ∧ alreadyWaits b1 p x = false

/-- A Truss message reaches the collective `c` of group `g` that it names: the group is here, its sender is a member that this
module knows, and the collective is bound, active and has not failed (R393). -/
def Reaches (b : Block) (h : TrussHdr) (g : Group) (c : Coll) : Prop :=
  2 ≤ powerState b ∧ (∃ k : Nat, groupByGid b h.gid.toNat = some (k, g)) ∧ knownMember b g h.rank = true ∧
    collAt b h.gid.toNat h.collSeq.toNat = some c ∧ c.active = true ∧ c.failed = none

end Sys2Proof
end

