-- ==== Sys2Proof/Certificates/Slice0/Obligations.lean ====
section
/-! DEFINITION. The statements about the model, one per obligation of OBLIGATIONS.json. -/

open Sys2Proof Sys2Proof.Machine

/-! ### The queue and the steps -/

/-- A step runs the command at the front of the queue on the state with the queue's rest. -/
def Obligations.StepRunsTheFrontCommand : Prop :=
  ∀ (c : Instr) (rest : List Instr) (s : State), s.pending = c :: rest → step s = exec c { s with pending := rest }

/-- The model's choice (log 3): with no command waiting, a step lets one clk600 cycle pass. Three cycles take 5 ns of hall time
while no slew is left (R12: the nominal period is 1.667 ns). -/
def Obligations.IdleStepsAdvanceTheClock : Prop :=
  (∀ b : Block, step ⟨b, []⟩ = .next ⟨tick b, []⟩) ∧
  (∀ c : ClockSt, (tickClock c).cycle = c.cycle + 1) ∧
  (∀ c : ClockSt, c.slew = 0 → (tickClock (tickClock (tickClock c))).hall = c.hall + 5 ∧
    (tickClock (tickClock (tickClock c))).third = c.third)

/-- Every command, of all 240 forms and with any operands, is carried out from every state, with no fault and no refusal, and leaves the
queue as it is. -/
def Obligations.EveryCommandAnswersNext : Prop :=
  ∀ (i : Instr) (s : State), ∃ b : Block, exec i s = .next { s with toBlock := b }

/-- Every step, from every state, completes and takes the front command off the queue; and the invariant that every waiting command is
one that the hardware can be given holds again. -/
def Obligations.StepsKeepTheQueueAndComplete : Prop :=
  ∀ s : State, ∃ t : State, step s = .next t ∧ t.pending = s.pending.tail ∧ (queueOk s → queueOk t)

/-- No run stops: from every state, any number of steps takes as many commands off the queue and ends in a next state. -/
def Obligations.RunsNeverStop : Prop :=
  ∀ (k : Nat) (s : State), ∃ t : State, Host.Core.run Sys2Proof.core k s = .next t ∧ t.pending = s.pending.drop k

/-- The state after reset: no command waits, memory lists nothing, is in its canonical form and reads zero, every sync object is 0 with
its flag clear (R203), every sequencer is RUNNING with n = 0 (R192), every hart is held with otnhint KEEP and otnmtcmp all ones
(R253, R268), POWER_STATE is OFF-AO (R533), and every entry of the dictionary reads its default (R477). -/
def Obligations.ResetHoldsTheDefaults : Prop :=
  (queueOk State.reset ∧ State.reset.pending = [] ∧ memoryOk State.reset.toBlock = true ∧
    ∀ a : Nat, memByte State.reset.toBlock a = 0) ∧
  ((∀ i : Nat, syncAt State.reset.toBlock i = ⟨0, false⟩) ∧
  (∀ q : Nat, (seqAt State.reset.toBlock q).n = 0 ∧ (seqAt State.reset.toBlock q).running = true ∧
    (seqAt State.reset.toBlock q).stream = none) ∧
  (∀ h : Nat, (hartAt State.reset.toBlock h).held = true ∧ (hartAt State.reset.toBlock h).otnhint = 0 ∧
    (hartAt State.reset.toBlock h).otnmtcmp = BitVec.allOnes 64) ∧
  (∀ index sub : Nat, odNat State.reset.toBlock index sub = odDefault index sub) ∧
  powerState State.reset.toBlock = 0)

/-! ### Streams and sync objects (chapter 8) -/

/-- LAUNCH powers the units of its sequencer (R35), takes the entry n mod 256 of the sequencer's stream table, and the stream starts with
what the entry names. Completes: launch. -/
def Obligations.LaunchTakesTheEntry : Prop :=
  ∀ (b0 : Block) (q : SeqId), launchReady b0 q = true →
    let w := (seqUnits b0 q).foldl wakeUnit b0
    let a := streamTable w q + 32 * ((seqAt w q).n % 256)
    let b := (homeRead w a 0 32).1
    let v := memLe b a 32
    let base := bits v 0 48
    let ncmd := bits v 48 24 + 1
    let record := bits v 128 48
    (isTileSeq q && tileAbsent w q) = false → unitFree w a 32 false = true → accessStatus w (seqOwner w q) .read a 32 = none →
    bits v 87 41 = 0 → bits v 176 80 = 0 → base % 16 = 0 → seqMem b q base 16 = true →
    (record = 0 ∨ (record % 32 = 0 ∧ seqMem b q record 32 = true)) →
    Answers (.launch q) b0 (ledgerFlush (settled (seqPut b q { seqAt w q with
      stream := some ⟨base, ncmd, BitVec.ofNat 14 (bits v 72 14), bit v 86, record, [], 0, none, .ok, none⟩ }) q))

/-- HALT ends its stream once every earlier command has completed: n grows by 1, the sequencer stays RUNNING and free for the
next launch, and DONE, where the entry enables it, is signalled 1. Completes: halt. -/
def Obligations.HaltEndsTheStream : Prop :=
  (∀ (b : Block) (q : SeqId) (st : StreamSt) (c : CmdSlot), (seqAt (settled b q) q).stream = some st →
    firstOf st (fun w => cmdOpcode w == 1) = some c → st.stop = none → st.waiting = none → allDone st c.idx = true →
    cmdReserved c.word = false → Answers (.halt q) b (ledgerFlush (endStreamOk (settled b q) q c.idx))) ∧
  (∀ (b : Block) (q idx : Nat) (st : StreamSt), (seqAt b q).stream = some st →
    ∃ s1 : Block, endStreamOk b q idx = (if st.doneEn then signalAdd s1 st.doneObj.toNat 1 else s1) ∧
      (seqAt s1 q).stream = none ∧ (seqAt s1 q).n = (seqAt b q).n + 1 ∧ (seqAt s1 q).running = (seqAt b q).running)

/-- FENCE, SIGNAL, COUNTER and SWATCH are carried out when every earlier command of their stream has completed, and a SIGNAL at an object
of the own module acts at once and is done. Completes: fence, signalAdd, signalSet, counterSnap, counterStamp, swatchBegin, swatchEnd. -/
def Obligations.PlainCommandsRun : Prop :=
  ((∀ q : SeqId, RunsAs (.fence q) q (some true) (fun w => cmdOpcode w == 2) (fun s _ => .go s .ok true)) ∧
  (∀ q : SeqId, RunsAs (.signalAdd q) q (some true) (isSignal false) (beginSignal false q)) ∧
  (∀ q : SeqId, RunsAs (.signalSet q) q (some true) (isSignal true) (beginSignal true q)) ∧
  (∀ q : SeqId, RunsAs (.counterSnap q) q (some true) (isCounter false) (beginCounter false q)) ∧
  (∀ q : SeqId, RunsAs (.counterStamp q) q (some true) (isCounter true) (beginCounter true q)) ∧
  (∀ t : TileId, RunsAs (.swatchBegin t) t (some true) (isSwatch false) (beginSwatch t.val)) ∧
  (∀ t : TileId, RunsAs (.swatchEnd t) t (some true) (isSwatch true) (beginSwatchEnd t.val))) ∧
  (∀ (b : Block) (q : SeqId) (c : CmdSlot), signalRemote b c.word = false →
    beginSignal false q b c = .go (signalAdd b (signalObj c.word) (signalValue c.word)) .ok true ∧
    beginSignal true q b c = .go (signalSet b (signalObj c.word) (signalValue c.word)) .ok true)

/-- SIGNAL ADD adds VALUE to the count modulo 2^64, and each wrap is counted; SIGNAL SET sets the count and clears the abort
flag; a SIGNAL ADD that reaches an aborted object is dropped and counted in OD 0x4330.03. Either way no other object changes.
R195: a stopped sequencer takes no launch; a SIGNAL SET of its launch object makes it RUNNING with n := VALUE and clears an abort of
the object; a SET that reaches the launch object of a RUNNING sequencer changes only the count. Completes: launch. -/
def Obligations.SignalsActOnTheirObject : Prop :=
  (∀ (b : Block) (obj : Nat) (v : Word), (syncAt b obj).aborted = false →
    syncAt (signalAdd b obj v) obj = ⟨(syncAt b obj).count + v, false⟩ ∧
    (signalAdd b obj v).wraps = b.wraps + ((syncAt b obj).count.toNat + v.toNat) / 2 ^ 64) ∧
  (∀ (b : Block) (obj : Nat) (v : Word), (syncAt b obj).aborted = true →
    (signalAdd b obj v).sync = b.sync ∧ odNat (signalAdd b obj v) 0x4330 3 = (odNat b 0x4330 3 + 1) % 2 ^ 64) ∧
  (∀ (b : Block) (obj : Nat) (v : Word), syncAt (signalSet b obj v) obj = ⟨v, false⟩) ∧
  (∀ (b : Block) (obj k : Nat) (v : Word), k ≠ obj →
    syncAt (signalAdd b obj v) k = syncAt b k ∧ syncAt (signalSet b obj v) k = syncAt b k) ∧
  (∀ (b : Block) (obj q : Nat) (v : Word), seqAt (signalAdd b obj v) q = seqAt b q ∧
    (q ≠ obj ∨ (seqAt b q).running = true ∨ 545 ≤ obj → seqAt (signalSet b obj v) q = seqAt b q)) ∧
  (∀ (b : Block) (q : Nat) (v : Word), q < 545 → (seqAt b q).running = false →
    seqAt (signalSet b q v) q = { seqAt b q with running := true, n := v.toNat }) ∧
  (∀ (b : Block) (q : SeqId), (seqAt b q).running = false → Answers (.launch q) b b)

/-- A WAIT on an object whose count reaches VALUE with its flag clear is done at once; the flag set, it ends its stream with
ABORTED whatever the count; otherwise it is pending from now on. Completes: wait. -/
def Obligations.WaitsAreReleasedAbortedOrPending : Prop :=
  (∀ (b : Block) (q : SeqId) (c : CmdSlot), nextWait (settled b q) q = some c →
    Answers (.wait q) b (ledgerFlush (issueWait (begunState (settled b q) q) q c))) ∧
  (∀ (b : Block) (q : Nat) (c : CmdSlot), cmdReserved c.word = false → (syncAt b (waitObj c.word).toNat).aborted = false →
    (waitValue c.word).toNat ≤ (syncAt b (waitObj c.word).toNat).count.toNat →
    issueWait b q c = completeSlot (countEvent b unitSync 2 1) q c.idx) ∧
  (∀ (b : Block) (q : Nat) (c : CmdSlot), cmdReserved c.word = false → (syncAt b (waitObj c.word).toNat).aborted = true →
    issueWait b q c = stopSlot b q c ⟨.aborted, 0⟩) ∧
  (∀ (b : Block) (q : Nat) (c : CmdSlot) (st : StreamSt), cmdReserved c.word = false → (seqAt b q).stream = some st →
    (syncAt b (waitObj c.word).toNat).aborted = false →
    (syncAt b (waitObj c.word).toNat).count.toNat < (waitValue c.word).toNat →
    pendingWait (issueWait b q c) q = some ⟨c.idx, waitObj c.word, waitValue c.word, hallNow b⟩)

/-- WAIT_RELEASE ends a pending WAIT whose object's count has reached its value with the flag clear, and WAIT_TIMEOUT stops the
stream of one pending for WAIT_LIMIT that is not met. A SYNC.WAIT of a hart past the limit retires with ST_WAIT_TIMEOUT. Completes:
waitRelease, waitTimeout. -/
def Obligations.PendingWaitsEnd : Prop :=
  (∀ (b : Block) (q : SeqId) (w : WaitSt), pendingWait b q = some w → waitMet b w.obj w.value = true →
    Answers (.waitRelease q) b (ledgerFlush (releaseWait b q w)) ∧
    pendingWait (seqPut b q { seqAt b q with stream := (seqAt b q).stream.map (fun st => { st with waiting := none }) }) q = none) ∧
  (∀ (b : Block) (q : SeqId) (w : WaitSt), pendingWait b q = some w → waitMet b w.obj w.value = false →
    waitLimitPassed b w.since = true →
    Answers (.waitTimeout (.stream q)) b (ledgerFlush (stopStream b q w.idx .waitTimeout 0))) ∧
  (∀ (b : Block) (h : HartId) (rd : RegId) (obj : ObjId) (v since : Word),
    (hartAt b h).blocked = some (.syncWait rd obj v since) → waitMet b obj v = false → waitLimitPassed b since = true →
    Answers (.waitTimeout (.hart h)) b (retireRd b h rd 7))

/-- Commands of a tile's queues are carried out when they are the next of their queue and the order rules let them start. Completes: load,
fstream, tstream, rawadd, glaze, store, storeRaw, storeDgrad, stencilForm, stencilApply, copy, move, gather, scatterOverwrite,
scatterAdd, scatterMax, scatterMin. -/
def Obligations.QueuedTileCommandsRun : Prop :=
  ∀ t : TileId,
    RunsAs (.load t) t none (fun w => cmdOpcode w == 0x10) (beginLoad t.val) ∧
    RunsAs (.fstream t) t none (fun w => cmdOpcode w == 0x11) (beginStream t.val false) ∧
    RunsAs (.tstream t) t none (fun w => cmdOpcode w == 0x12) (beginStream t.val true) ∧
    RunsAs (.rawadd t) t none (fun w => cmdOpcode w == 0x13) (beginRawAdd t.val) ∧
    (∀ e : Option (BitVec 48), RunsAs (.glaze t e) t none (fun w => cmdOpcode w == 0x18) (beginChain t.val .glaze ⟨errAt e, none, 0⟩)) ∧
    (∀ e : Option (BitVec 48), RunsAs (.store t e) t none isStore (beginChain t.val .store ⟨errAt e, none, 0⟩)) ∧
    RunsAs (.storeRaw t) t none isStoreRaw (beginStoreRaw t.val) ∧
    (∀ r : TableReads, RunsAs (.storeDgrad t r) t none isStoreDgrad (beginChain t.val .dgrad (readsOf r))) ∧
    (∀ e : Option (BitVec 48), RunsAs (.stencilForm t e) t none (isStencil false) (beginChain t.val .form ⟨errAt e, none, 0⟩)) ∧
    (∀ r : TableReads, RunsAs (.stencilApply t r) t none (isStencil true) (beginChain t.val .apply (readsOf r))) ∧
    RunsAs (.copy t) t none (fun w => cmdOpcode w == 0x08) (beginCopy t.val) ∧
    RunsAs (.move t) t none (fun w => cmdOpcode w == 0x09) (beginMove t.val) ∧
    RunsAs (.gather t) t none (fun w => cmdOpcode w == 0x1C) (beginGather t.val) ∧
    RunsAs (.scatterOverwrite t) t none (isScatter 0) (beginScatter t.val 0) ∧
    RunsAs (.scatterAdd t) t none (isScatter 1) (beginScatter t.val 1) ∧
    RunsAs (.scatterMax t) t none (isScatter 2) (beginScatter t.val 2) ∧
    RunsAs (.scatterMin t) t none (isScatter 3) (beginScatter t.val 3)

/-- The queued commands of Plumb, Truss and Sketch are carried out when they are next and the order rules let them start. Completes:
solve, form, reform, park, dissolve, coll, arm, restore. -/
def Obligations.QueuedUnitCommandsRun : Prop :=
  (∀ g : Fin 16, RunsAs (.solve g) (512 + g.val) none (fun w => cmdOpcode w == 0x20) (beginSolve g.val)) ∧
  (∀ e : Fin 16,
    RunsAs (.form e) (trussSeq e) none (isGroup 0) (beginForm (trussSeq e) false) ∧
    RunsAs (.reform e) (trussSeq e) none (isGroup 1) (beginForm (trussSeq e) true) ∧
    RunsAs (.park e) (trussSeq e) none (isGroup 2) (beginPark (trussSeq e) true) ∧
    RunsAs (.dissolve e) (trussSeq e) none (isGroup 3) (beginPark (trussSeq e) false) ∧
    RunsAs (.coll e) (trussSeq e) none (fun w => cmdOpcode w == 0x28) (beginColl (trussSeq e))) ∧
  RunsAs .arm sketchSeq none (fun w => cmdOpcode w == 0x30) beginArm ∧
  (∀ f : List (List Byte), RunsAs (.restore f) sketchSeq none (fun w => cmdOpcode w == 0x31) (beginRestore (f.take 2)))

/-- A command that its own rules refuse ends its stream, whatever the command: the stop is marked at its index (R215). -/
def Obligations.RefusedCommandsStopTheirStream : Prop :=
  (∀ t : TileId,
    StopsAs (.load t) t none (fun w => cmdOpcode w == 0x10) (beginLoad t.val) ∧
    StopsAs (.fstream t) t none (fun w => cmdOpcode w == 0x11) (beginStream t.val false) ∧
    StopsAs (.rawadd t) t none (fun w => cmdOpcode w == 0x13) (beginRawAdd t.val) ∧
    (∀ e : Option (BitVec 48), StopsAs (.glaze t e) t none (fun w => cmdOpcode w == 0x18) (beginChain t.val .glaze ⟨errAt e, none, 0⟩)) ∧
    (∀ e : Option (BitVec 48), StopsAs (.store t e) t none isStore (beginChain t.val .store ⟨errAt e, none, 0⟩)) ∧
    StopsAs (.copy t) t none (fun w => cmdOpcode w == 0x08) (beginCopy t.val) ∧
    StopsAs (.move t) t none (fun w => cmdOpcode w == 0x09) (beginMove t.val) ∧
    StopsAs (.gather t) t none (fun w => cmdOpcode w == 0x1C) (beginGather t.val) ∧
    StopsAs (.scatterAdd t) t none (isScatter 1) (beginScatter t.val 1)) ∧
  (∀ g : Fin 16, StopsAs (.solve g) (512 + g.val) none (fun w => cmdOpcode w == 0x20) (beginSolve g.val)) ∧
  (∀ e : Fin 16, StopsAs (.coll e) (trussSeq e) none (fun w => cmdOpcode w == 0x28) (beginColl (trussSeq e))) ∧
  StopsAs .arm sketchSeq none (fun w => cmdOpcode w == 0x30) beginArm

/-! ### Tiles -/

/-- COMMAND_COMPLETION: a started command that waits for no other module is done; WEIGHT_LOAD_DONE hands the loaded set to the
shadow copy and its LOAD is done, or, when the read failed, makes the shadow copy invalid and stops the stream (R91, R196). Completes:
commandCompletion, weightLoadDone. -/
def Obligations.StartedTileCommandsComplete : Prop :=
  (∀ (b : Block) (q : SeqId) (i : Nat) (st : StreamSt) (c : CmdSlot), (seqAt b q).stream = some st →
    st.win.find? (fun c => c.idx == i && c.phase == .started && completesHere q c.word) = some c → awaits b q i = false →
    Answers (.commandCompletion q i) b (ledgerFlush (completeSlot b q i))) ∧
  (∀ (b : Block) (t : TileId) (st : StreamSt) (c : CmdSlot) (w : WeightSet), (tileAt b t).loading = some (some w) →
    (seqAt b t).stream = some st → st.win.find? (fun c => c.phase == .started && cmdOpcode c.word == 0x10) = some c →
    Answers (.weightLoadDone t) b
      (ledgerFlush (completeSlot (tilePut b t { tileAt b t with loading := none, shadow := w }) t c.idx))) ∧
  (∀ (b : Block) (t : TileId) (st : StreamSt) (c : CmdSlot), (tileAt b t).loading = some none →
    (seqAt b t).stream = some st → st.win.find? (fun c => c.phase == .started && cmdOpcode c.word == 0x10) = some c →
    let s1 := tilePut b t { tileAt b t with loading := none, shadow := { (tileAt b t).shadow with valid := false } }
    Answers (.weightLoadDone t) b (ledgerFlush (stopSlot s1 t c (loadStop s1 t c))))

/-- A table reload that an error called for ends: its function is no longer waiting for a reload, and OD 0x4310.04 or 0x4320.01
counts it. No other tile changes. Completes: stencilTableReloadDone, glazeTableReloadDone. -/
def Obligations.TableReloadsEnd : Prop :=
  (∀ (b : Block) (t : TileId) (f : BitVec 5), bit (tileAt b t).stReload.toNat f.toNat = true →
    ∃ t1 : Block, Answers (.stencilTableReloadDone t f) b t1 ∧ bit (tileAt t1 t).stReload.toNat f.toNat = false ∧
      odNat t1 0x4310 4 = (odNat b 0x4310 4 + 1) % 2 ^ 32 ∧ (∀ k : Nat, k ≠ t.val → tileAt t1 k = tileAt b k) ∧
      SameMemory b t1) ∧
  (∀ (b : Block) (t : TileId) (f : BitVec 5), bit (tileAt b t).pwpReload.toNat f.toNat = true →
    ∃ t1 : Block, Answers (.glazeTableReloadDone t f) b t1 ∧ bit (tileAt t1 t).pwpReload.toNat f.toNat = false ∧
      odNat t1 0x4320 1 = (odNat b 0x4320 1 + 1) % 2 ^ 32 ∧ (∀ k : Nat, k ≠ t.val → tileAt t1 k = tileAt b k) ∧
      SameMemory b t1)

/-- A tile that reports an uncorrectable error takes no more commands; a spare of its die starts its self-test, or, with none left, the
tile becomes absent; a spare that the tile ran on is marked failed. A spare that passes takes the number and the stream faults; one
that fails is marked failed and the next is tried (R26, R368). Completes: tileInternalError, spareSelfTestDone. -/
def Obligations.FailedTilesAreReplaced : Prop :=
  (∀ (b : Block) (t : TileId), unitsOn b = true → (tileAt b t).phys = some 0 → (tileAt b t).testing = none →
    Answers (.tileInternalError t) b (keepRecovery (trySpare (seqPut b t { seqAt b t with intake := false }) t))) ∧
  (∀ (b : Block) (t : TileId) (k : Nat), unitsOn b = true → (tileAt b t).phys = some (k + 1) → (tileAt b t).testing = none →
    let d := dieAt b (dieOfTile t)
    let s1 := diePut b (dieOfTile t) { d with failed := BitVec.ofNat 4 (setBit d.failed.toNat k true) }
    Answers (.tileInternalError t) b (keepRecovery (trySpare (seqPut s1 t { seqAt s1 t with intake := false }) t))) ∧
  (∀ (b : Block) (t k : Nat), nextSpare b (dieOfTile t) = some k →
    trySpare b t = tilePut b t { tileAt b t with testing := some k }) ∧
  (∀ (b : Block) (t : Nat), nextSpare b (dieOfTile t) = none →
    trySpare b t = ledgerFlush (tileGone (odSetBit b 0x2101 1 t true) t none .tileAbsent)) ∧
  (∀ (b : Block) (t : TileId) (k : Nat), (tileAt b t).testing = some k →
    let d := dieAt b (dieOfTile t)
    let s1 := tileGone (diePut b (dieOfTile t) { d with used := BitVec.ofNat 4 (setBit d.used.toNat k true), passed := BitVec.ofNat 4 (setBit d.passed.toNat k true) }) t (some (k + 1)) .tileReplaced
    Answers (.spareSelfTestDone t .pass) b (ledgerFlush (keepRecovery (seqPut s1 t { seqAt s1 t with intake := true })))) ∧
  (∀ (b : Block) (t : TileId) (k : Nat), (tileAt b t).testing = some k →
    let d := dieAt b (dieOfTile t)
    let s1 := diePut b (dieOfTile t) { d with failed := BitVec.ofNat 4 (setBit d.failed.toNat k true) }
    Answers (.spareSelfTestDone t .fail) b (keepRecovery (trySpare (tilePut s1 t { tileAt b t with testing := none }) t)))

/-- The writes of a command change no byte of memory but those they name in the own module: at every other address memory reads as
before. They keep memory in its canonical form. -/
def Obligations.CommandWritesTouchOnlyTheirBytes : Prop :=
  (∀ (b : Block) (q idx hint : Nat) (ws : List WByte) (a : Nat),
    (∀ w ∈ ws, isOwn b w.addr = true → rackLocal w.addr ≠ a) → memByte (applyWrites b q idx hint ws).1 a = memByte b a) ∧
  (∀ (b : Block) (q idx hint : Nat) (ws : List WByte), memoryOk b = true → memoryOk (applyWrites b q idx hint ws).1 = true)

/-- COUNTER STAMP stores hall time: where its address is one that the stream may write and its home refuses nothing, the 8 bytes
there hold the count of the time unit, least significant first, and no other byte of memory changes (R199, R214). -/
def Obligations.StampStoresHallTime : Prop :=
  ∀ (b : Block) (q : Nat) (c : CmdSlot),
    let a := cmdBits c.word 16 48
    a % 8 = 0 → seqMem b q a 8 = true → rackPopulated b a = true → unitFree b (rackLocal a) 8 true = true →
    refusedLines b q (wBytes a 8 (hallNat b)) = [] →
    ∃ s1 : Block, beginCounter true q b c = .go s1 .ok true ∧
      (∀ k : Nat, k < 8 → memByte s1 (rackLocal a + k) = BitVec.ofNat 8 (hallNat b / 256 ^ k)) ∧
      ∀ x : Nat, (x < rackLocal a ∨ rackLocal a + 8 ≤ x) → memByte s1 x = memByte b x

/-- SWATCH BEGIN clears the digest of its tile and latches LAYER and N; SWATCH END without an address ends it. No other tile
changes (R425). -/
def Obligations.SwatchesBeginAndEnd : Prop :=
  (∀ (b : Block) (t : Nat) (c : CmdSlot),
    ∃ s1 : Block, beginSwatch t b c = .go s1 .ok true ∧
      (tileAt s1 t).swatch = ⟨true, BitVec.ofNat 32 (cmdBits c.word 16 32), BitVec.ofNat 64 (stepCounter b), 0, 0⟩ ∧
      (∀ k : Nat, k ≠ t → tileAt s1 k = tileAt b k) ∧ SameMemory b s1) ∧
  (∀ (b : Block) (t : Nat) (c : CmdSlot), cmdBits c.word 64 48 = 0 →
    ∃ s1 : Block, beginSwatchEnd t b c = .go s1 .ok true ∧ (tileAt s1 t).swatch.on = false ∧
      (∀ k : Nat, k ≠ t → tileAt s1 k = tileAt b k) ∧ SameMemory b s1)

/-- MOVE within the own module (R202): onto itself it changes nothing; onto a region that partly meets its source it is refused
with ST_LAYOUT_OVERLAP; otherwise, once its lines can be read and written, it writes the bytes it read, each at its place in
the destination. -/
def Obligations.MoveCopiesItsSource : Prop :=
  ∀ (q : Nat) (b : Block) (c : CmdSlot),
    let n := (cmdBits c.word 100 28 + 1) * 64
    let src := cmdBits c.word 16 42 * 64
    let dst := cmdBits c.word 58 42 * 64
    cmdBits c.word 8 2 ≠ 3 → cmdBits c.word 10 2 ≠ 3 → seqMem b q src n = true → seqMem b q dst n = true →
    (src = dst → beginMove q b c = .go b .ok false) ∧
    (src ≠ dst → meets (spanAt src n) (spanAt dst n) = true → beginMove q b c = .stop b ⟨.layoutOverlap, 0⟩) ∧
    (src ≠ dst → meets (spanAt src n) (spanAt dst n) = false →
      operandWait b q (cmdBits c.word 8 2) c [(src, n)] [(dst, n)] = none →
      beginMove q b c = finishWrites q c (cmdBits c.word 10 2) (touchPieces b (cmdBits c.word 8 2) [(src, n)])
        ((moveBytes b q 0 (linePieces src n)).1.map (fun x => { x with addr := dst + (x.addr - src) }))
        (moveBytes b q 0 (linePieces src n)).2)

/-! ### Number formats -/

/-- R49: a B8 code with fields E and M has the value 2^E · (1 + M/16), held as a significand and a power of two; every one of
the 256 codes is a value from 1 to 63,488, and none is zero or negative. -/
def Obligations.B8CodesHaveTheirValues : Prop :=
  ∀ code : BitVec 8,
    let e := bits code.toNat 4 4
    let m := bits code.toNat 0 4
    (b8Sig code.toNat : Int) * 2 ^ e = (16 + m) * 2 ^ (b8Exp code.toNat + 4).toNat ∧
    16 ≤ b8Sig code.toNat * 2 ^ e ∧ b8Sig code.toNat * 2 ^ e ≤ 16 * 63488

/-- R61: the B8 value of a block is the smallest that is at least A / (|T| · Q), and the largest of all, 63,488, when none is; it is
1 when the quotient is at most 1. Codes beyond ±Q saturate, and with a value that is large enough no quotient exceeds Q. -/
def Obligations.BlocksTakeTheSmallestScale : Prop :=
  (∀ (na nt : Bool) (ma mt : Nat) (ea et : Int) (fmt : Nat), 0 < mt →
    let Q : ℚ := largestCode fmt
    let A : ℚ := ma * (2 : ℚ) ^ ea
    let T : ℚ := mt * (2 : ℚ) ^ et
    let value := fun (code : Nat) => (b8Sig code : ℚ) * (2 : ℚ) ^ b8Exp code
    let b := b8For (.fin na ma ea) (.fin nt mt et) (largestCode fmt)
    b < 256 ∧ (∀ c : Nat, c < 256 → A / (T * Q) ≤ value c → A / (T * Q) ≤ value b ∧ value b ≤ value c) ∧
      ((∀ c : Nat, c < 256 → value c < A / (T * Q)) → value b = 63488) ∧ (A / (T * Q) ≤ 1 → value b = 1) ∧
      (A / (T * Q) ≤ value b → A / (T * value b) ≤ Q)) ∧
  (∀ (fmt : Nat) (z : Int), let q : Int := largestCode fmt
    (q < z → saturate fmt z = (q, 1)) ∧ (z < -q → (saturate fmt z).1 = (if isUnsignedFmt fmt then 0 else -q)) ∧
    (-q ≤ (saturate fmt z).1 ∧ (saturate fmt z).1 ≤ q))

/-! ### Plumb (chapter 9) -/

/-- A problem in flight ends with its factorisation or solution, at its own event, once the lines it reads and writes are free and its
home refuses none of them; a QP takes its first iterate, and each later one, at its commits, and ends with ST_NONFINITE when its data or
a pivot is not finite; a deadline ends what is in flight, also what would commit after it (R243, R245). When the last problem of a SOLVE
has ended well the SOLVE is done, and a problem's status that stops the stream is the stream's (R226). Completes: problemEnded,
qpCommit, plumbDeadline. -/
def Obligations.PlumbProblemsEnd : Prop :=
  ((∀ (b : Block) (g : Fin 16) (i : Nat) (x : SolveSt), solveAt b g = some x → x.desc.cls ≠ 7 → inFlight x i = true →
    (deadlineDue b x.desc = true → Answers (.problemEnded g i) b (ledgerFlush (missDeadline b g x))) ∧
    (deadlineDue b x.desc = false → replayEnding b g i = none → probFree b x.desc i = true → probRefusal b x.desc i = none →
      Answers (.problemEnded g i) b (ledgerFlush (solveSettle (finishProblem b g i x) g none)))) ∧
  (∀ (b : Block) (g : Fin 16) (i : Nat) (x : SolveSt), solveAt b g = some x → x.desc.cls = 7 → inFlight x i = true →
    (deadlinePast b x.desc = true → Answers (.qpCommit g i) b (ledgerFlush (solveSettle (qpDeadline b g i) g none))) ∧
    (deadlinePast b x.desc = false → probFree b x.desc i = true → probRefusal b x.desc i = none →
      accessStatus b none .read (rackLocal (workAt b g x.desc i)) (footprint x.desc) = none →
      let data := qpData b x.desc i
      ((probAt x i).begun = true →
        let r := qpIterateOnce b g i x (probAt x i) data
        (r.2.2 = true → Answers (.qpCommit g i) b (ledgerFlush (qpAfter r.1 g i x r.2.1 data))) ∧
        (r.2.2 = false → Answers (.qpCommit g i) b (ledgerFlush (solveSettle (endQp r.1 g i x r.2.1 .nonfinite 3) g none)))) ∧
      ((probAt x i).begun = false → qpBadData x.desc data = false →
        let r := qpStart b g i x data
        Answers (.qpCommit g i) b (ledgerFlush (qpAfter r.1 g i x r.2 data))) ∧
      ((probAt x i).begun = false → qpBadData x.desc data = true →
        Answers (.qpCommit g i) b (ledgerFlush (solveSettle
          (endQp b g i x { probAt x i with begun := true, hash := BitVec.ofNat 64 (qpHash x.desc data) } .nonfinite 3) g none))))) ∧
  (∀ (b : Block) (g : Fin 16) (x : SolveSt), solveAt b g = some x → deadlineDue b x.desc = true →
    (x.desc.cls = 7 → Answers (.plumbDeadline g) b (ledgerFlush (qpDeadlines g (x.desc.count + 1) b))) ∧
    (x.desc.cls ≠ 7 → Answers (.plumbDeadline g) b (ledgerFlush (missDeadline b g x))))) ∧
  (∀ (b : Block) (g : Nat) (x : SolveSt) (st : StreamSt) (c : CmdSlot), solveAt b g = some x →
    (∀ i : Nat, i < x.desc.count → (probAt x i).ended.isSome = true) →
    (seqAt b (512 + g)).stream = some st → st.win.find? (fun y => y.idx == x.idx) = some c →
    ((endings x).find? (fun e => !goesOn x.desc e.2) = none →
      solveSettle b g none = completeSlot (warnStream (solvePut b g none) (512 + g)
        ((((endings x).find? (fun e => e.2 != .ok)).map (·.2)).getD .ok)) (512 + g) x.idx) ∧
    (∀ i : Nat, ∀ e : Status, (endings x).find? (fun e => !goesOn x.desc e.2) = some (i, e) →
      solveSettle b g none = stopSlot (solvePut b g none) (512 + g) c ⟨e, i⟩))

/-! ### Control cores (chapter 10) -/

/-- An instruction that retires with a result writes rd and goes on at pc + 4; a write of x0 is discarded. It changes no other
register, CSR, vector register or mode of its hart, no byte of memory, and no other hart, tile, sequencer or sync object. -/
def Obligations.RetiringWritesRdAlone : Prop :=
  ∀ (b : Block) (h : Nat) (rd : RegId) (v : Word),
    let t := retireRd b h rd v
    xget (hartAt t h) rd = (if rd = 0 then 0 else v) ∧ (hartAt t h).pc = (hartAt b h).pc + 4 ∧
    (∀ r : RegId, r ≠ rd → xget (hartAt t h) r = xget (hartAt b h) r) ∧
    (hartAt t h).csr = (hartAt b h).csr ∧ (hartAt t h).v = (hartAt b h).v ∧ (hartAt t h).priv = (hartAt b h).priv ∧
    (hartAt t h).vl = (hartAt b h).vl ∧ (hartAt t h).vtype = (hartAt b h).vtype ∧ (hartAt t h).vstart = 0 ∧
    (hartAt t h).otnhint = (hartAt b h).otnhint ∧ (hartAt t h).otnmtcmp = (hartAt b h).otnmtcmp ∧
    (hartAt t h).blocked = none ∧ (∀ k : Nat, k ≠ h → hartAt t k = hartAt b k) ∧
    (hartAt t h).f = (hartAt b h).f ∧ t.mem = b.mem ∧
    t.sync = b.sync ∧ t.tiles = b.tiles ∧ t.seqs = b.seqs ∧ t.coh = b.coh ∧ t.own = b.own

/-- Taking an exception in machine mode, or one that is not delegated: mepc, mcause and mtval take the pc, the cause and the
value, MIE moves to MPIE and clears, MPP takes the mode, and the hart goes on in machine mode at the base of mtvec. No x
register and no other hart changes (the layout is PRESUMED from the privileged architecture, log 27). -/
def Obligations.ExceptionsEnterMachineMode : Prop :=
  ∀ (b : Block) (h cause : Nat) (tval : Word),
    ((hartAt b h).priv = .machine ∨ bit (csrGet (hartAt b h) 0x302).toNat cause = false) →
    let k := hartAt b h
    let t := takeTrap b h cause tval
    csrGet (hartAt t h) 0x341 = k.pc ∧ csrGet (hartAt t h) 0x342 = BitVec.ofNat 64 cause ∧ csrGet (hartAt t h) 0x343 = tval ∧
    bit (csrGet (hartAt t h) 0x300).toNat 3 = false ∧
    bit (csrGet (hartAt t h) 0x300).toNat 7 = bit (csrGet k 0x300).toNat 3 ∧
    bits (csrGet (hartAt t h) 0x300).toNat 11 2 = privNum k.priv ∧
    (hartAt t h).priv = .machine ∧ (hartAt t h).pc = csrGet k 0x305 &&& ~~~3#64 ∧
    (∀ r : RegId, xget (hartAt t h) r = xget k r) ∧ (∀ j : Nat, j ≠ h → hartAt t j = hartAt b j) ∧
    t = { b with harts := t.harts }

/-- SYNC.READ returns the count. SYNC.WAIT ends at once with ABORTED on a set flag, whatever the count, and with 0 on a count that reaches
rs2; otherwise the hart is blocked. SYNC.ABORT sets the flag of a local object. SYNC.ADD and SYNC.SET act on a local object once no
earlier store is outstanding and none has failed. rd receives the status. A reserved bit of the object word, and RMT = 1 for ABORT and
WAIT, give ST_MALFORMED and apply nothing (R266). Completes: syncRead, syncAbort, syncWait, syncAdd, syncSet. -/
def Obligations.SyncInstructionsAct : Prop :=
  (∀ (b b1 : Block) (h : HartId) (rd rs1 rs2 : RegId), Issues b h ⟨0x0B, 0⟩ b1 →
    let w := xget (hartAt b1 h) rs1
    let v := xget (hartAt b1 h) rs2
    let o := syncAt b1 (objOf w).toNat
    objReserved w = false → objRmt w = false →
    Answers (.syncRead h rd rs1) b (ledgerFlush (retireRd b1 h rd o.count)) ∧
    Answers (.syncAbort h rd rs1) b (ledgerFlush (retireRd (abortObj (scribeSync b1 h 2 w 0) (objOf w).toNat) h rd 0)) ∧
    (o.aborted = true → Answers (.syncWait h rd rs1 rs2) b (ledgerFlush (retireRd (scribeSync b1 h 3 w v) h rd 3))) ∧
    (o.aborted = false → v.toNat ≤ o.count.toNat →
      Answers (.syncWait h rd rs1 rs2) b (ledgerFlush (retireRd (countEvent (scribeSync b1 h 3 w v) unitSync 2 1) h rd 0))) ∧
    (o.aborted = false → o.count.toNat < v.toNat →
      Answers (.syncWait h rd rs1 rs2) b (ledgerFlush (hartWait (scribeSync b1 h 3 w v) h (some (.syncWait rd (objOf w) v (hallNow b1)))))) ∧
    (storesPending b1 h = false → (hartAt b1 h).failed = none →
      Answers (.syncAdd h rd rs1 rs2) b (ledgerFlush (retireRd (signalAdd (scribeSync b1 h 0 w v) (objOf w).toNat v) h rd 0)) ∧
      Answers (.syncSet h rd rs1 rs2) b (ledgerFlush (retireRd (signalSet (scribeSync b1 h 1 w v) (objOf w).toNat v) h rd 0)))) ∧
  (∀ (b b1 : Block) (h : HartId) (rd rs1 rs2 : RegId), Issues b h ⟨0x0B, 0⟩ b1 →
    let w := xget (hartAt b1 h) rs1
    ((objReserved w = true ∨ objRmt w = true) →
      Answers (.syncAbort h rd rs1) b (ledgerFlush (retireRd b1 h rd 1)) ∧
      Answers (.syncWait h rd rs1 rs2) b (ledgerFlush (retireRd b1 h rd 1))) ∧
    (objReserved w = true → storesPending b1 h = false → (hartAt b1 h).failed = none →
      Answers (.syncAdd h rd rs1 rs2) b (ledgerFlush (retireRd b1 h rd 1)) ∧
      Answers (.syncSet h rd rs1 rs2) b (ledgerFlush (retireRd b1 h rd 1))))

/-- FENCE retires, and goes on at pc + 4, unless it is an ordering point: that waits for the hart's earlier stores, then reports the
first that failed as cause 24 with its status in mtval, at its own pc and without taking effect; otherwise it takes effect (R263).
Completes: coreFence. -/
def Obligations.OrderingPointsReportFailedStores : Prop :=
  ∀ (b b1 : Block) (h : HartId) (succ : BitVec 4) (pred : BitVec 4), Issues b h ⟨0x0F, 0⟩ b1 →
    (bit pred.toNat 0 = false → Answers (.coreFence h pred succ) b (ledgerFlush (retire b1 h (hartAt b1 h)))) ∧
    (bit pred.toNat 0 = true → storesPending b1 h = true → Answers (.coreFence h pred succ) b (ledgerFlush b1)) ∧
    (bit pred.toNat 0 = true → storesPending b1 h = false → (hartAt b1 h).failed = none →
      Answers (.coreFence h pred succ) b (ledgerFlush (retire b1 h (hartAt b1 h)))) ∧
    (∀ st : Status, bit pred.toNat 0 = true → storesPending b1 h = false → (hartAt b1 h).failed = some st →
      Answers (.coreFence h pred succ) b (ledgerFlush (trapFabric (hartPut b1 h { hartAt b1 h with failed := none }) h st)))

/-- Blocked instructions end: a SYNC.WAIT whose object meets it retires with 0 in rd, an HTWAIT whose time has come with hall
time; HTWAIT itself returns hall time when its time has come, and else blocks (R266, R268). Completes: syncWaitRelease, htwaitRelease,
htwait. -/
def Obligations.BlockedInstructionsEnd : Prop :=
  (∀ (b : Block) (h : HartId) (rd : RegId) (obj : ObjId) (v since : Word),
    (hartAt b h).blocked = some (.syncWait rd obj v since) → waitMet b obj v = true →
    Answers (.syncWaitRelease h) b (retireRd (countEvent b unitSync 2 1) h rd 0)) ∧
  (∀ (b : Block) (h : HartId) (rd : RegId) (v : Word), (hartAt b h).blocked = some (.htWait rd v) → v.toNat ≤ hallNat b →
    Answers (.htwaitRelease h) b (retireRd b h rd (hallNow b))) ∧
  (∀ (b b1 : Block) (h : HartId) (rd rs1 : RegId), Issues b h ⟨0x0B, 0⟩ b1 →
    ((xget (hartAt b1 h) rs1).toNat ≤ hallNat b1 → Answers (.htwait h rd rs1) b (ledgerFlush (retireRd b1 h rd (hallNow b1)))) ∧
    (hallNat b1 < (xget (hartAt b1 h) rs1).toNat → Answers (.htwait h rd rs1) b
      (ledgerFlush (hartWait b1 h (some (.htWait rd (xget (hartAt b1 h) rs1)))))))

/-- HTIME returns a value within 10 ns of the time unit's count, whichever it is, once every earlier store has completed
(R268). Completes: htime. -/
def Obligations.HtimeReadsWithinTenNanoseconds : Prop :=
  ∀ (b b1 : Block) (h : HartId) (rd : RegId), Issues b h ⟨0x0B, 0⟩ b1 → storesPending b1 h = false →
    ∃ d : Nat, d ≤ 20 ∧
      Answers (.htime h rd) b (ledgerFlush (retireRd { b1 with free := b1.free + 1 } h rd (hallNow b1 + BitVec.ofNat 64 d - 10)))

/-- A write of otnhint with a hint that R279 lists takes effect, and one with a reserved bit or hint raises an illegal-instruction
exception; otnmtcmp is written in machine mode alone, and MTIP follows it; rd receives the old value of either; MTIP sets when hall
time reaches otnmtcmp, and with the timer interrupt enabled a hart that can be interrupted takes it (R253, R267, R268). Completes:
otnhint, otnmtcmp, mtip. -/
def Obligations.CustomCsrsAreWritten : Prop :=
  (∀ (b b1 : Block) (h : HartId) (rd rs1 : RegId), Issues b h ⟨0x73, 0⟩ b1 →
    let v := xget (hartAt b1 h) rs1
    (v.toNat < 3 → Answers (.otnhint h ⟨rd, rs1⟩) b
      (ledgerFlush (retireRd (hartPut b1 h { hartAt b1 h with otnhint := v }) h rd (hartAt b1 h).otnhint))) ∧
    (3 ≤ v.toNat → Answers (.otnhint h ⟨rd, rs1⟩) b (ledgerFlush (takeTrap b1 h 2 0))) ∧
    ((hartAt b1 h).priv = .machine → Answers (.otnmtcmp h ⟨rd, rs1⟩) b
      (ledgerFlush (retireRd (hartPut b1 h { hartAt b1 h with otnmtcmp := v, mtip := decide (v.toNat ≤ hallNat b1) }) h rd
        (hartAt b1 h).otnmtcmp))) ∧
    ((hartAt b1 h).priv ≠ .machine → Answers (.otnmtcmp h ⟨rd, rs1⟩) b (ledgerFlush (takeTrap b1 h 2 0)))) ∧
  (∀ (b : Block) (h : HartId), (hartAt b h).otnmtcmp.toNat ≤ hallNat b →
    let k1 := { hartAt b h with mtip := true }
    ((interruptible k1 && timerTaken k1) = false → Answers (.mtip h) b (hartPut b h k1)) ∧
    ((interruptible k1 && timerTaken k1) = true → Answers (.mtip h) b (takeTimer (hartPut b h k1) h)))

/-- VSETVL (R257): AVL up to VLMAX gives vl = AVL, AVL below 2 · VLMAX gives ⌈AVL / 2⌉, and more gives VLMAX; rd receives vl. A vtype that
is not supported sets vill and vl = 0. A vector access that V 1.0 does not define raises an illegal-instruction exception (PRESUMED,
log 28); one with no segment left retires at once; otherwise its segments are carried out from vstart to vl, inactive ones undisturbed
(R255, R256). Completes: vsetvl, vectorAccess. -/
def Obligations.VectorInstructionsAct : Prop :=
  ((∀ (b b1 : Block) (h : HartId) (rd rs1 : RegId) (u : BitVec 5) (vtype : Word), Issues b h ⟨0x57, 0⟩ b1 → vtypeOk vtype = true →
    (rs1 ≠ 0 → let v : Word := BitVec.ofNat 64 (vlFor (xget (hartAt b1 h) rs1).toNat (vlmax vtype));
      Answers (.vsetvl h rd (.reg rs1) vtype) b (ledgerFlush (retire b1 h (xset { hartAt b1 h with vtype := vtype, vl := v } rd v)))) ∧
    (let v : Word := BitVec.ofNat 64 (vlFor u.toNat (vlmax vtype));
      Answers (.vsetvl h rd (.imm u) vtype) b (ledgerFlush (retire b1 h (xset { hartAt b1 h with vtype := vtype, vl := v } rd v))))) ∧
  (∀ (b b1 : Block) (h : HartId) (rd : RegId) (avl : AvlSrc) (vtype : Word), Issues b h ⟨0x57, 0⟩ b1 → vtypeOk vtype = false →
    Answers (.vsetvl h rd avl vtype) b
      (ledgerFlush (retire b1 h (xset { hartAt b1 h with vtype := 0x8000000000000000, vl := 0 } rd 0)))) ∧
  (∀ avl m : Nat, 0 < m → (avl ≤ m → vlFor avl m = avl) ∧ (m < avl → avl < 2 * m → 2 * vlFor avl m = avl + avl % 2) ∧
    (2 * m ≤ avl → vlFor avl m = m))) ∧
  ((∀ (b b1 : Block) (v : VAccess), Issues b v.hart ⟨if v.isStore then 0x27 else 0x07, 0⟩ b1 →
    (vaccessOk (hartAt b1 v.hart) v = false → Answers (.vectorAccess v) b (ledgerFlush (takeTrap b1 v.hart 2 0))) ∧
    (vaccessOk (hartAt b1 v.hart) v = true → (hartAt b1 v.hart).vl.toNat ≤ (hartAt b1 v.hart).vstart.toNat →
      Answers (.vectorAccess v) b (ledgerFlush (retire b1 v.hart (hartAt b1 v.hart)))) ∧
    (vaccessOk (hartAt b1 v.hart) v = true → Answers (.vectorAccess v) b (ledgerFlush (segments v.hart v
      (min 128 (hartAt b1 v.hart).vl.toNat - (hartAt b1 v.hart).vstart.toNat) (hartAt b1 v.hart).vstart.toNat b1)))) ∧
  (∀ (b b2 : Block) (h : HartId) (v : VAccess) (n i : Nat),
    (v.masked = true → bit (vget (hartAt b h) 0).toNat i = false → segments h v (n + 1) i b = segments h v n (i + 1) b) ∧
    ((v.masked && !bit (vget (hartAt b h) 0).toNat i) = false → v.isStore = false → loadSegment h v i b = .done b2 →
      segments h v (n + 1) i b = segments h v n (i + 1) b2) ∧
    ((v.masked && !bit (vget (hartAt b h) 0).toNat i) = false → v.isStore = true → storeSegment h v i b = .done b2 →
      segments h v (n + 1) i b = segments h v n (i + 1) b2)))

/-- A scalar load retires with the value its parts read, sign-extended where it says so; an aligned load of another module leaves
as one read and blocks the hart; a read that is refused raises the exception it names (R251, R252, R260). Completes: coreLoad. -/
def Obligations.LoadsReturnWhatTheyRead : Prop :=
  ∀ (b b1 : Block) (h : HartId) (size : Fin 4) (signed : Bool) (rd rs1 : RegId) (imm : BitVec 12) (e : Ecc), Issues b h ⟨0x03, 0⟩ b1 →
    let n := 2 ^ size.val
    let va := scalarAddr (hartAt b1 h) rs1 imm
    (∀ (b2 : Block) (a : Nat), va % n = 0 → translate b1 h va .load = .found b2 a → routeOf b2 h a = .remote →
      Answers (.coreLoad h size signed rd rs1 imm e) b (ledgerFlush (remoteScalar b2 h rd va a size.val signed))) ∧
    (∀ (b2 b3 : Block) (a : Nat) (bs : List Byte), va % n = 0 → translate b1 h va .load = .found b2 a → routeOf b2 h a ≠ .remote →
      readParts h e (alignedParts 8 va n) b2 [] = .bytes b3 bs →
      Answers (.coreLoad h size signed rd rs1 imm e) b (ledgerFlush (retireRd b3 h rd (loadValue n signed bs)))) ∧
    (∀ (b3 : Block) (bs : List Byte), va % n ≠ 0 → readParts h e (alignedParts 8 va n) b1 [] = .bytes b3 bs →
      Answers (.coreLoad h size signed rd rs1 imm e) b (ledgerFlush (retireRd b3 h rd (loadValue n signed bs)))) ∧
    (∀ (b3 : Block) (cause v : Nat), va % n ≠ 0 → readParts h e (alignedParts 8 va n) b1 [] = .trap b3 cause v →
      Answers (.coreLoad h size signed rd rs1 imm e) b (ledgerFlush (takeTrap b3 h cause (BitVec.ofNat 64 v))))

/-- A scalar store makes its parts once every one of them may be made, and retires; when one may not, the exception is taken
and none has been made (R252). An aligned store to a place of this module that no cluster caches is written there, and the hart goes on
at pc + 4. Completes: coreStore. -/
def Obligations.StoresAreMadeWhole : Prop :=
  ∀ (b b1 b2 : Block) (h : HartId) (size : Fin 4) (rs2 rs1 : RegId) (imm : BitVec 12), Issues b h ⟨0x23, 0⟩ b1 →
    let n := 2 ^ size.val
    let va := scalarAddr (hartAt b1 h) rs1 imm
    let parts := prepareParts h (natLe n (xget (hartAt b1 h) rs2).toNat) va (alignedParts 8 va n) b1 []
    (∀ l : List StoreAt, parts = .ready b2 l →
      Answers (.coreStore h size rs2 rs1 imm) b (ledgerFlush (retire (makeStores h b2 l) h (hartAt (makeStores h b2 l) h)))) ∧
    (∀ cause v : Nat, parts = .trap b2 cause v →
      Answers (.coreStore h size rs2 rs1 imm) b (ledgerFlush (takeTrap b2 h cause (BitVec.ofNat 64 v)))) ∧
    (∀ a : Nat, va % n = 0 → translate b1 h va .store = .found b2 a → plainRoute b2 h a = .direct →
      lineStatus b2 (hartOwner b2 h) .write (rackLocal a) n = none →
      let data := natLe n (xget (hartAt b1 h) rs2).toNat
      let s0 := scribeNote b2 h (Config.scribeOpcode 0 0) n a data
      let s := homeWrite s0 (rackLocal a) (hartHint s0 h) data
      Answers (.coreStore h size rs2 rs1 imm) b (ledgerFlush (retire s h (hartAt s h))))

/-- LR reserves the line its cluster holds and returns the value; SC stores and returns 0 while the hart's reservation of the line
stands, and returns 1 without a store otherwise; an AMO goes to the home of its line, and when that is this module's and the line is free
it writes its result there and the hart retires with the old value (R32, R282). With rl the instruction waits for the hart's earlier
stores. Outside the bay, LR raises a load access fault and SC and the AMOs a store access fault, and nothing is applied (R254).
Completes: coreAmo. -/
def Obligations.AtomicsOfTheBay : Prop :=
  (∀ (b b1 b2 : Block) (h : HartId) (wid : Wid) (aq rl : Bool) (rd rs1 rs2 : RegId) (a : Nat), Issues b h ⟨0x2F, 0⟩ b1 →
    let n := widBytes wid
    let va := (xget (hartAt b1 h) rs1).toNat
    va % n = 0 → (rl && storesPending b1 h) = false →
    (∀ b3 : Block, translate b1 h va .load = .found b2 a → routeOf b2 h a = .cached → sameBay b2 (rackSlot a) = true →
      ownDeny b2 h a false = none → ensureLine b2 h (a / 128) false .clean = .here b3 →
      Answers (.coreAmo h .lr wid aq rl rd rs1 rs2) b (ledgerFlush (retireRd
        (hartPut b3 h { hartAt b3 h with resv := some (a / 128), resvAt := none }) h rd
        (signExt n (leNat (slice (heldAt b3 (a / 128) (h.val / 8)).data (a % 128) n)))))) ∧
    (translate b1 h va .store = .found b2 a → routeOf b2 h a = .cached → sameBay b2 (rackSlot a) = true →
      ownDeny b2 h a true = none →
      ((hartAt b2 h).resv ≠ some (a / 128) →
        Answers (.coreAmo h .sc wid aq rl rd rs1 rs2) b
          (ledgerFlush (retireRd (hartPut b2 h { hartAt b2 h with resv := none, resvAt := none }) h rd 1))) ∧
      (∀ b3 : Block, (hartAt b2 h).resv = some (a / 128) → ensureLine b2 h (a / 128) true .clean = .here b3 →
        let x := (xget (hartAt b2 h) rs2).toNat
        let s := storeCached (scribeAtomic b3 h 3 n a x) h a (natLe n x)
        Answers (.coreAmo h .sc wid aq rl rd rs1 rs2) b
          (ledgerFlush (retireRd (hartPut s h { hartAt s h with resv := none, resvAt := none }) h rd 0)))) ∧
    (∀ op : AmoOp, op ≠ .lr → op ≠ .sc → translate b1 h va .store = .found b2 a → routeOf b2 h a ≠ .bad → routeOf b2 h a ≠ .window →
      sameBay b2 (rackSlot a) = true → ownDeny b2 h a true = none →
      Answers (.coreAmo h op wid aq rl rd rs1 rs2) b (ledgerFlush
        (atomSend b2 h (.amo rd wid) wid (amoCode op) a ((xget (hartAt b2 h) rs2).toNat % 2 ^ (8 * n)) 0))) ∧
    (sameBay b2 (rackSlot a) = false →
      (translate b1 h va .load = .found b2 a →
        Answers (.coreAmo h .lr wid aq rl rd rs1 rs2) b (ledgerFlush (takeTrap b2 h 5 (BitVec.ofNat 64 va)))) ∧
      (∀ op : AmoOp, op ≠ .lr → translate b1 h va .store = .found b2 a →
        Answers (.coreAmo h op wid aq rl rd rs1 rs2) b (ledgerFlush (takeTrap b2 h 7 (BitVec.ofNat 64 va)))))) ∧
  (∀ (b b1 : Block) (h : HartId) (op : AmoOp) (wid : Wid) (aq : Bool) (rd rs1 rs2 : RegId), Issues b h ⟨0x2F, 0⟩ b1 → storesPending b1 h = true →
    Answers (.coreAmo h op wid aq true rd rs1 rs2) b (ledgerFlush b1)) ∧
  (∀ (b b3 : Block) (line : Nat) (h : HartId) (who : Requester) (hint op a n x cmp m : Nat) (rd : RegId) (wid : Wid),
    combineAt b who (strictTag (ownSlot b) h) hint a n op x cmp = (b3, .ok, m) → (hartAt b3 h).blocked = some (.amo rd wid) →
    homeApply b line (.amo h who hint op a n x cmp) =
      retireRd b3 h rd (match wid with | .w32 => signExt 4 m | .w64 => BitVec.ofNat 64 m))

/-- A TAMO, whichever of the eleven operations it is, goes to the home of its line with its operand and compare value (R269); when the
line is this module's and free, it takes its effect there and the hart retires with the old value, and a refusal is taken as cause 24
(R270). With rl it is an ordering point. Completes: tamoAdd, tamoSwap, tamoXor, tamoCas, tamoFadd, tamoOr, tamoAnd, tamoMin, tamoMax,
tamoMinu, tamoMaxu. -/
def Obligations.TaggedAtomicsOfTheOwnHome : Prop :=
  (∀ (b b1 b2 : Block) (t : TamoArgs) (a : Nat), Issues b t.hart ⟨0x2B, 0⟩ b1 →
    (t.rl = true → storesPending b1 t.hart = false ∧ (hartAt b1 t.hart).failed = none) →
    let n := widBytes t.wid
    let va := (xget (hartAt b1 t.hart) t.rs1).toNat
    let x := (xget (hartAt b2 t.hart) t.rs2).toNat % 2 ^ (8 * n)
    let cmp := (xget (hartAt b2 t.hart) t.rd).toNat % 2 ^ (8 * n)
    va % n = 0 → translate b1 t.hart va .store = .found b2 a → routeOf b2 t.hart a ≠ .bad → routeOf b2 t.hart a ≠ .window →
    ownDeny b2 t.hart a true = none →
    ∀ (i : Instr) (op : Nat), (i, op) ∈ [(Instr.tamoAdd t, 0), (.tamoSwap t, 1), (.tamoXor t, 4), (.tamoCas t, 5), (.tamoFadd t, 6),
      (.tamoOr t, 8), (.tamoAnd t, 12), (.tamoMin t, 16), (.tamoMax t, 20), (.tamoMinu t, 24), (.tamoMaxu t, 28)] →
      Answers i b (ledgerFlush (atomSend b2 t.hart (.tagged t.rd t.wid) t.wid op a x cmp))) ∧
  (∀ (b : Block) (h : HartId) (w : Blocked) (wid : Wid) (op a x cmp : Nat), isOwn b a = true → flushOwned b h a = b →
    atomSend b h w wid op a x cmp = (let s := hartWait b h (some w);
      homeAdmit (scribeAtomic s h op (widBytes wid) a x) (lineOf (rackLocal a))
        (.amo h (hartOwner s h) (hartHint s h) op (rackLocal a) (widBytes wid) x cmp))) ∧
  (∀ (b b3 : Block) (line : Nat) (h : HartId) (who : Requester) (hint op a n x cmp m : Nat) (st : Status) (rd : RegId) (wid : Wid),
    combineAt b who (strictTag (ownSlot b) h) hint a n op x cmp = (b3, st, m) → (hartAt b3 h).blocked = some (.tagged rd wid) →
    (st = .ok → homeApply b line (.amo h who hint op a n x cmp) =
      retireRd b3 h rd (match wid with | .w32 => signExt 4 m | .w64 => BitVec.ofNat 64 m)) ∧
    (st ≠ .ok → homeApply b line (.amo h who hint op a n x cmp) = trapFabric b3 h st))

/-- R269's table: the result of each operation of a tagged atomic on an old value m of n bytes (4 or 8), with operand x and compare
value c, all of n bytes. FADD apart, whose sum is that of the FP32 or FP64 adder. -/
def Obligations.AtomicOperationsGiveTheirResults : Prop :=
  ∀ n m x c : Nat, (n = 4 ∨ n = 8) → m < 2 ^ (8 * n) → x < 2 ^ (8 * n) → c < 2 ^ (8 * n) →
    aopResult n 0 m x c = some ((m + x) % 2 ^ (8 * n)) ∧ aopResult n 1 m x c = some x ∧
    aopResult n 4 m x c = some (m ^^^ x) ∧ aopResult n 5 m x c = some (if m = c then x else m) ∧
    aopResult n 8 m x c = some (m ||| x) ∧ aopResult n 12 m x c = some (m &&& x) ∧
    aopResult n 24 m x c = some (min m x) ∧ aopResult n 28 m x c = some (max m x) ∧
    (∃ v : Nat, aopResult n 16 m x c = some v ∧ (v = m ∨ v = x) ∧ sx (8 * n) v = min (sx (8 * n) m) (sx (8 * n) x)) ∧
    (∃ v : Nat, aopResult n 20 m x c = some v ∧ (v = m ∨ v = x) ∧ sx (8 * n) v = max (sx (8 * n) m) (sx (8 * n) x))

/-! ### The block port and OWN_CMD -/

/-- The block port and OWN_CMD as instructions (R354, R484): CURSOR takes its value, discards what is staged and latches
COUNTER_VALUES; a write of DATA stages eight bytes at the cursor and moves it on; COMMIT writes the entry from the staged bytes;
a read of DATA returns eight bytes; and OWN_CMD writes the command. A write that is refused is kept for the hart's next ordering
point (R485). Completes: cursor, dataWrite, commit, dataRead, acquireExcl, acquireRead, ownRelease. -/
def Obligations.BlockPortInstructionsAct : Prop :=
  ∀ (b b1 : Block) (h : HartId) (w : Issued), Issues b h w b1 → jobAssigned b1 = true →
    let k := hartAt b1 h
    let index := cursorIndex k.cursor
    let sub := cursorSub k.cursor
    let port := fun (opcode sub : Nat) => w = ⟨opcode, windowAddr b 0x1030 sub⟩
    let go := fun (s : Block) => ledgerFlush (retire s h (hartAt s h))
    (∀ v : Word, port 0x23 1 → bits v.toNat 56 8 = 0 → cursorOff v % 8 = 0 → Answers (.cursor h v) b (go (hartPut b1 h { k with
      cursor := v, staged := [], latch := if cursorIndex v = 0xB010 ∧ cursorSub v = 1 then some (leNat (counterBytes b1)) else none }))) ∧
    (∀ v : Word, port 0x23 2 → Answers (.dataWrite h v) b (go (hartPut b1 h { k with
      staged := k.staged ++ [(cursorOff k.cursor, natLe 8 v.toNat)], cursor := cursorNext k.cursor }))) ∧
    (∀ d : List Byte, port 0x23 3 → ¬ (index = 0x6110 ∧ sub = 1) → stagedValue k.staged (roundUp 8 (odLen index sub)) = some d →
      let b2 := hartPut b1 h { k with staged := [] }
      let data := d.take (odLen index sub)
      (odCheck b2 (hartOrigin h) index sub none data = none →
        Answers (.commit h 1) b (go (odAccept b2 (hartOrigin h) index sub data))) ∧
      (∀ st : Status, odCheck b2 (hartOrigin h) index sub none data = some st →
        Answers (.commit h 1) b (go (noteFailed b2 h st)))) ∧
    (∀ rd : RegId, port 0x03 2 → modeDenied b1 h index sub = false →
      (odReadCheck b1 (hartOrigin h) index sub = none → Answers (.dataRead h rd) b
        (ledgerFlush (retireRd (hartPut b1 h { k with cursor := cursorNext k.cursor }) h rd
          (BitVec.ofNat 64 (leNat (slice (portBytes b1 k index sub) (cursorOff k.cursor) 8)))))) ∧
      (∀ st : Status, odReadCheck b1 (hartOrigin h) index sub = some st →
        Answers (.dataRead h rd) b (ledgerFlush (takeTrap b1 h 5 (statusWord st))))) ∧
    (∀ (i : Instr) (op : Nat) (slot : BitVec 7) (region : BitVec 18), w = ⟨0x23, windowAddr b 0x6110 1⟩ →
      (i, op) ∈ [(Instr.acquireExcl h slot region, 1), (.acquireRead h slot region, 2), (.ownRelease h slot region, 3)] →
      let data := natLe 8 (op + slot.toNat * 2 ^ 2 + region.toNat * 2 ^ 9)
      (k.priv = .machine → odCheck b1 (hartOrigin h) 0x6110 1 none data = none →
        Answers i b (go (odAccept b1 (hartOrigin h) 0x6110 1 data))) ∧
      (k.priv ≠ .machine → odCheck b1 (hartOrigin h) 0x6110 1 none data = none →
        Answers i b (go (noteFailed (hartPut b1 h { k with ownResult := .ownDenied }) h .odAccess))))

/-! ### The object dictionary (chapter 17) -/

/-- Each row that writes an entry of the dictionary writes it, where its path is open and permits its role: a value that passes the checks
of R479 is accepted, and one that does not is refused with the status of the first that fails and changes nothing. OD_WRITE carries its
type code; QUOTE and COUNTER_VALUES answer type, length and bytes. Completes: groups, groupMode, interleaveMap, clearLost, jobManifest,
exportedTo, flow, counterConfig, snapTime, alarmAck, oldestUnexported, powerUp, standby, powerDown, releaseJob, reset,
maintenanceReset, fwImage, svnCommit, identityCert, funcDisable, odWrite, counterValues, quote. -/
def Obligations.DictionaryRequestsAct : Prop :=
  (∀ o : Origin,
    (∀ v : BitVec 16, WritesEntry (.groups o v) o 0x5100 1 (natLe 2 v.toNat)) ∧
    (∀ (g : Fin 16) (v : BitVec 16), WritesEntry (.groupMode o g v) o 0x5101 (g.val + 1) (natLe 2 v.toNat)) ∧
    (∀ m : List Byte, WritesEntry (.interleaveMap o m) o 0x3000 1 m) ∧
    (∀ r : BitVec 32, WritesEntry (.clearLost o r) o 0x6110 3 (natLe 4 r.toNat)) ∧
    (∀ m : List Byte, m.length ≤ 8388608 → WritesEntry (.jobManifest o m) o 0xA100 1 (padTo 8388608 m)) ∧
    (∀ q : Word, WritesEntry (.exportedTo o q) o 0x1020 4 (natLe 8 q.toNat)) ∧
    (∀ (f : Fin 256) (v : List Byte), WritesEntry (.flow o f v) o 0x7100 f v) ∧
    (∀ v : List Byte, WritesEntry (.counterConfig o v) o 0xB000 1 v) ∧
    (∀ t : Word, WritesEntry (.snapTime o t) o 0xB020 1 (natLe 8 t.toNat)) ∧
    (∀ c : BitVec 16, WritesEntry (.alarmAck o c) o 0xB050 4 (natLe 2 c.toNat)) ∧
    (∀ q : BitVec 32, WritesEntry (.oldestUnexported o q) o 0x9300 5 (natLe 4 q.toNat)) ∧
    WritesEntry (.powerUp o) o 0x2000 2 (natLe 2 1) ∧ WritesEntry (.standby o) o 0x2000 2 (natLe 2 2) ∧
    WritesEntry (.powerDown o) o 0x2000 2 (natLe 2 3) ∧ WritesEntry (.releaseJob o) o 0x2000 2 (natLe 2 4) ∧
    WritesEntry (.reset o) o 0x2000 2 (natLe 2 5) ∧ WritesEntry (.maintenanceReset o) o 0x2000 2 (natLe 2 6) ∧
    (∀ m : List Byte, WritesEntry (.fwImage o m) o 0x2020 1 (padTo 33554432 m)) ∧
    (∀ v : BitVec 32, WritesEntry (.svnCommit o v) o 0x2020 3 (natLe 4 v.toNat)) ∧
    (∀ m : List Byte, WritesEntry (.identityCert o m) o 0xC000 1 (padTo 4096 m)) ∧
    (∀ (cls : BitVec 4) (inst : BitVec 10), WritesEntry (.funcDisable o cls inst) o 0x2100 1 (natLe 4 (cls.toNat + inst.toNat * 2 ^ 16))) ∧
    (∀ (b : Block) (index sub : Nat) (typ : Option Nat) (data : List Byte),
      (odCheck b o index sub typ data = none → odWrite b o index sub typ data = (odAccept b o index sub data, .ok)) ∧
      (∀ st : Status, odCheck b o index sub typ data = some st → odWrite b o index sub typ data = (b, st)))) ∧
  (∀ (b : Block) (o : Origin), pathOpen b o.path = true → o.path ≠ .window → pathAllows o.path o.role = true →
    (∀ (index : BitVec 16) (sub typ : BitVec 8) (data : List Byte),
      (odCheck b o index.toNat sub.toNat (some typ.toNat) data = none → Answers (.odWrite o index sub typ data) b
        (emit (odAccept b o index.toNat sub.toNat data) (.dict 0 0x91 0 .ok []))) ∧
      (∀ st : Status, odCheck b o index.toNat sub.toNat (some typ.toNat) data = some st →
        Answers (.odWrite o index sub typ data) b (emit b (.dict 0 0x91 0 st [])))) ∧
    (odReadCheck b o 0xB010 1 = none → Answers (.counterValues o) b (emit b (.dict 0 0x90 0 .ok
      (natLe 1 (odType 0xB010 1) ++ natLe 3 0 ++ natLe 4 (counterBytes b).length ++ counterBytes b)))) ∧
    (odReadCheck b o 0xC030 2 = none → Answers (.quote o) b (emit b (.dict 0 0x90 0 .ok
      (natLe 1 (odType 0xC030 2) ++ natLe 3 0 ++ natLe 4 (quoteBytes b (odNat b 0xC030 1)).length ++ quoteBytes b (odNat b 0xC030 1))))))

/-- An accepted write of an entry without an effect of its own stores its value; where the entry's changes are logged, the log grows by
one record, which holds the entry and the request's source; memory, sync objects, harts and tiles stay as they were (R480, R502). The
ledger entries that wait are written after it. -/
def Obligations.AcceptedWritesStoreTheirValue : Prop :=
  ∀ (b : Block) (o : Origin) (index sub : Nat) (data : List Byte), index ∈ [0x3010, 0x4330, 0x5101, 0x6000, 0x9000] →
    odCheck b o index sub none data = none →
    ∃ s : Block, odAccept b o index sub data = ledgerFlush s ∧ odNat s index sub = leNat data ∧
      s.chlog.nextSeq = (if odLogged index sub then b.chlog.nextSeq + 1 else b.chlog.nextSeq) ∧
      (odLogged index sub = true → ∃ r ∈ s.chlog.recs, r.seq = b.chlog.nextSeq ∧ r.index = index ∧ r.sub = sub ∧ r.source = o.source) ∧
      s.mem = b.mem ∧ s.sync = b.sync ∧ s.harts = b.harts ∧ s.tiles = b.tiles

/-! ### Functions and units (chapters 13 and 17) -/

/-- FUNC_ENABLE writes FUNC_CONTROL, and its self-test's result ends the enable (R507, R510); a disable whose DRAIN_TIMEOUT has
passed is completed (R508); and UNIT_RESET clears its unit during a job, raises alarm 0x0A and makes its self-test due (R369).
Completes: funcEnable, disableDrainTimeout, unitReset. -/
def Obligations.FunctionsAreEnabledDrainedAndReset : Prop :=
  (∀ (b : Block) (o : Origin) (cls : BitVec 4) (inst : BitVec 10) (r : TestResult),
    let k := funcKey cls.toNat inst.toNat
    let data := natLe 4 (cls.toNat + 2 ^ 4 + inst.toNat * 2 ^ 16)
    let starting := fun (s : Block) => s.power.drains.any (fun d => d.1 == enablingKey k)
    (starting b = true → Answers (.funcEnable o cls inst r) b (ledgerFlush (endEnable b k r))) ∧
    (starting b = false → pathOpen b o.path = true → o.path ≠ .window → pathAllows o.path o.role = true →
      odCheck b o 0x2100 1 none data = none →
      let b1 := emit (odAccept b o 0x2100 1 data) (.dict 0 0x91 0 .ok [])
      Answers (.funcEnable o cls inst r) b (if starting b1 then ledgerFlush (endEnable b1 k r) else b1))) ∧
  (∀ (b : Block) (d : Nat × Word), b.power.drains.find? (fun d => decide (d.1 < 65536) &&
      decide (1000 * odNat b 0x2100 2 ≤ hallNat b - d.2.toNat)) = some d →
    Answers .disableDrainTimeout b (ledgerFlush (settleDrain b d.1))) ∧
  (∀ (b : Block) (cls : BitVec 4) (inst : BitVec 10) (orderly : Bool), jobAssigned b = true → cls.toNat ≤ 5 →
    inst.toNat < funcCount b cls.toNat →
    Answers (.unitReset cls inst orderly) b (resetUnit b cls.toNat inst.toNat orderly)) ∧
  (∀ (b : Block) (t : Nat) (orderly : Bool), t < 512 →
    (tileAt (clearUnit b 1 t orderly) t).shadow.valid = false ∧ (seqAt (clearUnit b 1 t orderly) t).n = 0 ∧
    (seqAt (clearUnit b 1 t orderly) t).running = true ∧ (seqAt (clearUnit b 1 t orderly) t).stream = none)

/-! ### Memory (chapter 11) -/

/-- Zeroing leaves memory zero, its marks clear and its cache empty (R273). A scrub read
takes the next line of its stack, and a pass ends at the last (R294). A row repair is recorded and counted, and the accesses that waited
for its bank group go on; until then none to a line outside the cache is served (R296, R297). Completes: scrubRead, rowRepairDone. -/
def Obligations.MemoryEventsAct : Prop :=
  (∀ (b : Block) (stack : Fin 16) (ecc : Ecc) (l : Nat), 2 ≤ powerState b →
    nextScrub b stack (scrubFuel b) (stackAt b stack).scrub = some l →
    Answers (.scrubRead stack ecc) b (ledgerFlush (eccRead (stackPut (stackEvent b (l * 128) 1) stack
      { stackAt b stack with scrub := l + 1 }) (l * 128) ecc))) ∧
  (∀ (b : Block) (stack : Nat) (k l m : Nat), nextScrub b stack k l = some m →
    l ≤ m ∧ m < hbmLines ∧ stackOf b (m * 128) = stack ∧ retiredAt b (m * 128) = false) ∧
  (∀ (b : Block) (stack : Fin 16) (k key : Nat), b.ecc.repairing.find? (fun r => r.1 == stack.val) = some (k, key) →
    let s := { b with ecc := { b.ecc with repairing := b.ecc.repairing.filter (fun r => !(r.1 == k && r.2 == key)) } }
    (s.ecc.rows.find? (fun r => r.row == key) = none →
      let s := { s with ecc := { s.ecc with rows := s.ecc.rows ++ [⟨k, key, 0, false⟩] } }
      Answers (.rowRepairDone stack) b (ledgerFlush (drainAll (report (odBump (odBump s 0x3030 3 1) 0x3030 4 1) (unitHbm k) 5 1 .ok 0)))) ∧
    (∀ r : RowRec, s.ecc.rows.find? (fun r => r.row == key) = some r → r.hard = false →
      let s := { s with ecc := { s.ecc with rows := s.ecc.rows.map (fun y => if y.row = key then { y with remaps := r.remaps + 1, hard := false } else y) } }
      Answers (.rowRepairDone stack) b (ledgerFlush (drainAll (report (odBump s 0x3030 5 1) (unitHbm k) 5 1 .ok 0))))) ∧
  (∀ (b : Block) (line : Nat) (r : HomeReq), bankBusy b line = true → blockerOf b line r ≠ .free) ∧
  (∀ (b : Block) (a : Nat), memByte (zeroAll b) a = 0 ∧ (zeroAll b).ecc.badWords = [] ∧ (zeroAll b).cache = [])

/-- The third sample in a row that fails puts the stack at step 4 with doubled refresh, raises alarm 0x05, and OD 0x3010.07 reads
0xFF for the stack until a reading succeeds (R287); a reading sets step, refresh and OD 0x3010.07 (R285, R286). No other stack
changes, and no byte of memory. The trip latch is watched and the ledger entries that wait are written after it; a reading of 105 °C or
more trips the module, and is left to the power statements. Completes: stackTempSample. -/
def Obligations.StacksThatCannotBeReadTakeStepFour : Prop :=
  ∀ (b : Block) (stack : Fin 16), 2 ≤ powerState b →
    ((stackAt b stack).missed = 2 →
      ∃ s : Block, Answers (.stackTempSample stack none) b (tripWatch (ledgerFlush s)) ∧ (stackAt s stack).step = 4 ∧
        (stackAt s stack).doubled = true ∧ odByte s 0x3010 7 stack = 0xFF ∧ (tget alarm0 s.logs.alarms 5).active = true ∧
        (∀ k : Nat, k ≠ stack.val → stackAt s k = stackAt b k) ∧ SameMemory b s) ∧
    ((stackAt b stack).missed ≠ 2 → Answers (.stackTempSample stack none) b
      (tripWatch (stackPut b stack { stackAt b stack with missed := (stackAt b stack).missed + 1 }))) ∧
    (∀ t : BitVec 8, t.toNat < 105 → ∃ s : Block, Answers (.stackTempSample stack (some t)) b (tripWatch (ledgerFlush s)) ∧
      (stackAt s stack).missed = 0 ∧ (stackAt s stack).step = throttleStep b (stackAt b stack).step t.toNat ∧
      odByte s 0x3010 7 stack = t.toNat ∧ (85 < t.toNat → (stackAt s stack).doubled = true) ∧
      (t.toNat ≤ 82 → (stackAt s stack).doubled = false) ∧
      (82 < t.toNat → t.toNat ≤ 85 → (stackAt s stack).doubled = (stackAt b stack).doubled) ∧
      (∀ k : Nat, k ≠ stack.val → stackAt s k = stackAt b k) ∧ SameMemory b s)

/-! ### The Tenon fabric (chapter 12) -/

/-- Ports (R304 to R308, R317, R318): a good flit in sequence is accepted, its credits are tallied, it acknowledges, the port sends what
it now may and returns the credit of the slots it took; a bad one is refused once with a NAK; a NAK replays; a lane fault retrains the port, a stalled replay after
eight tries, and the training's end sets the
width the lanes allow, publishes it and, when no width is left, moves its plane's requests on. A packet that goes out takes its slots from
its virtual channel's credit and, on a weighted channel with more packets, from its deficit. A round of an arbiter (R335) grants an
urgent requester before the others, the one granted longest ago first, and every N-th grant the longest wait. Completes: flitReceived,
nak, laneFault, retrainDone, downPortRetrain. -/
def Obligations.PortEventsAct : Prop :=
  (∀ (b : Block) (port : Fin 18),
    let p := portAt b port
    (∀ f : Flit, f.slots.length = 15 → portUp b port = true → f.good = true → f.fseq = p.rxSeq →
      let r := takeSlots { p with
        rxSeq := p.rxSeq + 1, nakked := false, accepted := p.accepted + 1, credits := tset 0 p.credits f.cvc.toNat (tget 0 p.credits f.cvc.toNat + f.cred.toNat) } f
      let s1 := portPut (wakeUnit (if f.fixed then odBump b 0x6030 2 1 else b) (unitPort port)) port r.1
      let s2 := { s1 with fab := { s1.fab with discards := s1.fab.discards + r.2 } }
      Answers (.flitReceived port f) b
        (returnCredits (runPort (if f.kind = .nak then replayFrom s2 port f.fack else takeFack s2 port f.fack) port) port)) ∧
    (∀ f : Flit, portUp b port = true → (f.good = false ∨ f.slots.length ≠ 15) →
      Answers (.flitReceived port f) b (emit (portPut (if f.fixed then odBump b 0x6030 2 1 else b) port { p with nakked := true })
        (.flits port (some (p.rxSeq - 1)) []))) ∧
    (∀ fack : BitVec 12, portUp b port = true → Answers (.nak port fack) b (replayFrom b port fack)) ∧
    (∀ c : LaneCause, portUp b port = true → (c = .replayStalled → 8 ≤ p.stalls) → Answers (.laneFault port c) b
      (odSetByte (portPut b port { p with before := portState b port, stalls := 0 }) 0x6000 1 port 1)) ∧
    (∀ (lanes : BitVec 8) (n : Nat), portState b port = 1 → trainedCode (lanesPassed lanes) = n + 1 → p.before = 0 → p.unacked = [] →
      let s1 := report (portPut (odSetByte b 0x6000 1 port (n + 1)) port { p with before := 0 }) (unitPort port) 4 1 .ok (n + 1)
      let s2 := if 3 ≤ n + 1 then raiseAlarm (odBump s1 0x6030 3 1) 0x03 (unitPort port) .ok (n + 1) else s1
      Answers (.retrainDone port lanes) b (ledgerFlush (runPort (planesBack s2) port))) ∧
    (∀ lanes : BitVec 8, portState b port = 1 → lanesPassed lanes < 4 →
      let s1 := report (portPut (odSetByte b 0x6000 1 port 0) port { p with before := 0 }) (unitPort port) 4 1 .ok 0
      let s2 := if p.before = 0 then s1 else raiseAlarm s1 0x03 (unitPort port) .ok 0
      Answers (.retrainDone port lanes) b (ledgerFlush (failPlane b s2 port (planeSlots b port)))) ∧
    (2 ≤ powerState b → portState b port = 0 → p.disabled = false →
      Answers (.downPortRetrain port) b (odSetByte (portPut b port { p with before := 0 }) 0x6000 1 port 1))) ∧
  (∀ (b : Block) (k : Nat), portUp b k = true → (portAt b k).unacked.length + 8 ≤ 512 →
    ∀ v : Nat, v < 8 → tget 0 (portAt (returnCredits b k) k).owed v = 0) ∧
  (∀ (b : Block) (k v : Nat) (x : Packet) (t : List Packet), vcQueue (portAt b k) v = x :: t →
    let p := portAt b k
    let p1 := portAt (sendHead b k v) k
    vcQueue p1 v = t ∧ tget 0 p1.credits v = tget 0 p.credits v - slotCount x ∧
    tget 0 p1.deficit v = (if t = [] ∨ vcUrgent v = true then 0 else tget 0 p.deficit v - slotCount x) ∧
    p1.unacked = p.unacked ++ flitsOf (p.rxSeq - 1) (slotCount x + 1) p.txSeq (headerSlot b x :: x.payload)) ∧
  (∀ (a a1 : Arb) (starve w : Nat) (any elig : List Nat) (urgent : Nat → Bool), arbRound a starve any elig urgent = some (w, a1) →
    a1.last = a.last.filter (fun v => v != w) ++ [w] ∧
    (starve ≤ a.grants + 1 → w ∈ any ∧ a1.grants = 0 ∧ ∀ v ∈ any, tget 0 a.since w ≤ tget 0 a.since v) ∧
    (a.grants + 1 < starve → w ∈ elig ∧ a1.grants = a.grants + 1 ∧ ((∃ v ∈ elig, urgent v = true) → urgent w = true) ∧
      (w ∈ a.last → ∀ v ∈ elig, urgent v = urgent w → v ∈ a.last)))

/-- Planes (R320, R321, R323, R324): a request leaves on the first usable plane from its nominal one, and is refused when none is;
a plane's map is taken when it is later; a lost plane's requests move on; a stream returns to its best plane. Completes: reach,
reachLost, planeReturn. -/
def Obligations.RequestsTakeTheFirstUsablePlane : Prop :=
  (∀ (b : Block) (a d : Nat), let v := a / 2 ^ 7 % 2 ^ 34
    nominalPlane a d = (v ^^^ v / 2 ^ 11 ^^^ v / 2 ^ 22 ^^^ d) % 18 ∧
    (∀ k : Nat, planeFor b a d = some k → planeUsable b k d = true ∧ ∃ i : Nat, i < 18 ∧ k = (nominalPlane a d + i) % 18 ∧
      ∀ j : Nat, j < i → planeUsable b ((nominalPlane a d + j) % 18) d = false) ∧
    (planeFor b a d = none ↔ ∀ k : Nat, k < 18 → planeUsable b k d = false)) ∧
  (∀ (b : Block) (k : Fin 18) (mapSeq : BitVec 16) (map : BitVec 72), portUp b k = true →
    ((planeAt b k).mapSeq = none ∨ ∃ m : BitVec 16, (planeAt b k).mapSeq = some m ∧ 1 ≤ (mapSeq - m).toNat ∧ (mapSeq - m).toNat ≤ 32767) →
    let s1 := planePut b k { planeAt b k with mapSeq := some mapSeq, reachable := map, lost := false }
    let gone := (planeSlots b k).filter (fun d => !planeAlive s1 k d)
    Answers (.reach k mapSeq map) b (ledgerFlush (planesBack (if gone.isEmpty then s1 else failPlane b s1 k gone)))) ∧
  (∀ (b : Block) (k : Fin 18), (planeAt b k).lost = false →
    Answers (.reachLost k) b (ledgerFlush (failPlane b (planePut b k { planeAt b k with lost := true }) k (planeSlots b k)))) ∧
  (∀ (b : Block) (req : BitVec 10) (slot : SlotId) (line : BitVec 34) (k : Nat),
    let key := streamKey req.toNat slot (128 * line.toNat)
    b.fab.outst.any (fun o => streamKey o.pkt.req o.pkt.dslot o.pkt.addr == key) = false → tget 0 b.fab.streams key ≠ 0 →
    planeFor b (128 * line.toNat) slot = some k → Answers (.planeReturn req slot line) b (setStreamPlane b key k))

/-- Requests at their home (R325, R326, R329, R330): a read, write or bulk write of one line is admitted to its line; a tagged
request that is new is admitted, acts on its sync object, or sets an abort flag, and its outcome is kept until ATOMACK; and a line
that is free serves its request at once, with the answer each kind has. Completes: rd, wr, bulk, atom, red, abort, atomack. -/
def Obligations.RequestsAreServedAtTheirHome : Prop :=
  (∀ (b b1 : Block) (p : PktHdr) (size : BitVec 8) (e : Ecc), Arrives b p b1 → oneLine p (size.toNat + 1) = true →
    Answers (.rd p size e) b (ledgerFlush (homeAdmit (if populated b1 p.addr.toNat then eccRead b1 p.addr.toNat e else b1)
      (lineOf p.addr.toNat) (.rd p (size.toNat + 1))))) ∧
  (∀ (b b1 : Block) (p : PktHdr) (d : List Byte), Arrives b p b1 → someData d = true → oneLine p d.length = true →
    Answers (.wr p d) b (ledgerFlush (homeAdmit b1 (lineOf p.addr.toNat) (.wr p d)))) ∧
  (∀ (b b1 : Block) (p : PktHdr) (d : List Byte), Arrives b p b1 → someData d = true → p.hint.toNat ≠ 3 →
    p.addr.toNat % 128 + d.length ≤ 128 → accessStatus b1 (requesterOf p.sslot p.req.toNat) .write p.addr.toNat d.length = none →
    Answers (.bulk p d) b (ledgerFlush (homeAdmit b1 (lineOf p.addr.toNat) (.bulk p d)))) ∧
  (∀ (b b1 : Block) (p : PktHdr) (x : TagExt) (v c : Word), ArrivesNew b p x b1 →
    (x.aop.toNat = 30 → p.addr.toNat < 16384 → Answers (.atom p x v c) b
      (ledgerFlush (answerTagged (signalAdd b1 p.addr.toNat v) p x 0x06 .ok (syncAt b1 p.addr.toNat).count.toNat))) ∧
    (x.aop.toNat = 31 → p.addr.toNat < 16384 → Answers (.atom p x v c) b
      (ledgerFlush (answerTagged (signalSet b1 p.addr.toNat v) p x 0x06 .ok (syncAt b1 p.addr.toNat).count.toNat))) ∧
    (x.aop.toNat ∈ atomAops → p.addr.toNat % (if x.w64 then 8 else 4) = 0 → p.hint.toNat ≠ 3 →
      Answers (.atom p x v c) b (ledgerFlush (homeAdmit b1 (lineOf p.addr.toNat) (.atom p x v c))))) ∧
  (∀ (b b1 : Block) (p : PktHdr) (x : TagExt) (d : List Byte), ArrivesNew b p x b1 → someData d = true → x.aop.toNat ∈ redAops →
    p.addr.toNat % (if x.w64 then 8 else 4) = 0 → d.length % (if x.w64 then 8 else 4) = 0 → oneLine p d.length = true →
    Answers (.red p x d) b (ledgerFlush (homeAdmit b1 (lineOf p.addr.toNat) (.red p x d)))) ∧
  (∀ (b b1 : Block) (p : PktHdr) (x : TagExt), ArrivesNew b p x b1 → p.addr.toNat < 16384 → x.aop = 0 → x.w64 = false →
    Answers (.abort p x) b (ledgerFlush (answerTagged (abortObj b1 p.addr.toNat) p x 0x09 .ok 0))) ∧
  (∀ (b b0 : Block) (p : PktHdr) (x : TagExt) (v c : Word) (e : RepEnt), Arrives b p b0 →
    (noteEpoch b0 p x).fab.replay.find? (fun e => e.slot == p.sslot.val && e.req == p.req.toNat && e.seq == x.seq.toNat) = some e →
    Answers (.atom p x v c) b (ledgerFlush (respond (odBump (noteEpoch b0 p x) 0x6030 5 1) p 0x06 x.seq.toNat e.status
      [rspSlot (noteEpoch b0 p x) e.old.toNat]))) ∧
  (∀ (b : Block) (sslot : SlotId) (req : BitVec 10) (seq : BitVec 16), peerOk b sslot = true →
    Answers (.atomack sslot req seq) b { b with fab := { b.fab with replay := b.fab.replay.filter (fun e => !(e.slot == sslot.val && e.req == req.toNat && e.seq == seq.toNat)) } }) ∧
  (∀ (b : Block) (line : Nat) (r : HomeReq), waitingAt b line = [] → blockerOf b line r = .free → (dirAt b line).st ≠ .b →
    b.launch.zeroing = false → ∃ s1 : Block, s1 = { b with coh := { b.coh with waiting := s1.coh.waiting }, arbs := s1.arbs } ∧
      (let t := drainLine line 1 (homeApply s1 line r);
        homeAdmit b line r = if waitingAt t line = [] then t else arbRaise t (pointChannel (channelOf t (128 * line))) (reqSource t r))) ∧
  (∀ (b : Block) (line : Nat) (p : PktHdr) (n : Nat), accessStatus b (requesterOf p.sslot p.req.toNat) .read p.addr.toNat n = none →
    homeApply b line (.rd p n) = respond (homeRead b p.addr.toNat p.hint.toNat n).1 p 0x02 0 .ok (payloadSlots (memRead b p.addr.toNat n))) ∧
  (∀ (b : Block) (line : Nat) (p : PktHdr) (d : List Byte),
    accessStatus b (requesterOf p.sslot p.req.toNat) .write p.addr.toNat d.length = none →
    (∀ a : Nat, memByte (homeApply b line (.wr p d)) a =
      (if p.addr.toNat ≤ a ∧ a < p.addr.toNat + d.length then d.getD (a - p.addr.toNat) 0 else memByte b a)))

/-- Responses (R330, R333): a read's data and a write's status end the request they answer, and what it was sent for goes on; the
outcome of a tagged request is delivered and answered with ATOMACK, and the home's epoch is noted; a request whose limit has passed
ends with ST_FABRIC_TIMEOUT. A response that answers nothing is discarded, and one from a slot
outside the peer map applies nothing and is counted (R316). Completes: rdrsp, wrack, bulkack, fabricTimeout, atomrsp, redrsp. -/
def Obligations.ResponsesEndTheirRequests : Prop :=
  (∀ (b : Block) (r : RspHdr) (st : Status) (data : List Byte) (o : Outst), peerOk b r.sslot = true →
    let done := ledgerFlush (sendReleases (releaseHeld (deliverTo (dropOutst b o) o.forWhom o.pkt.dslot o.pkt.addr st data 0)))
    (packetData data = true → answered b r [0x01] = some o → Answers (.rdrsp r st data) b done) ∧
    (data = [] → answered b r [0x03] = some o → Answers (.wrack r st) b done) ∧
    (data = [] → answered b r [0x30] = some o → Answers (.bulkack r st) b done)) ∧
  (∀ (b : Block) (r : RspHdr) (st : Status) (data : List Byte), peerOk b r.sslot = false → packetData data = true →
    Answers (.rdrsp r st data) b (odBump b 0x6030 7 1) ∧ Answers (.wrack r st) b (odBump b 0x6030 7 1)) ∧
  (∀ (b : Block) (r : RspHdr) (st : Status), peerOk b r.sslot = true →
    (answered b r [0x01] = none → Answers (.rdrsp r st []) b (discardPkt b)) ∧
    (answered b r [0x03] = none → Answers (.wrack r st) b (discardPkt b)) ∧
    (answered b r [0x30] = none → Answers (.bulkack r st) b (discardPkt b))) ∧
  (∀ (b : Block) (r : RspHdr) (st : Status) (old : Word) (e : BitVec 32) (i : Instr) (types : List Nat) (v : Nat),
    (i, types, v) ∈ [(Instr.atomrsp r st old e, [0x05], old.toNat), (.redrsp r st e, [0x08, 0x3E], 0)] → peerOk b r.sslot = true →
    let b1 := { b with fab := { b.fab with hepoch := tset 0 b.fab.hepoch r.sslot e.toNat } }
    ∀ o : Outst, answered b1 r types = some o → o.timedOut = false →
      let s := sendAtomAck (dropOutst b1 o) o.pkt.dslot o.pkt.req o.pkt.seq o.pkt.addr
      let s := lateOutcome (if st = .outcomeUnknown then odBump s 0x6030 6 1 else s) o st
      Answers i b (ledgerFlush (releaseHeld (deliverTo s o.forWhom o.pkt.dslot o.pkt.addr st [] v)))) ∧
  (∀ (b : Block) (r : RspHdr) (o : Outst), answered b r [0x01, 0x03, 0x30, 0x05, 0x08, 0x3E] = some o → o.timedOut = false →
    o.since.toNat + reqLimit b o.pkt.dslot ≤ hallNat b →
    let s := if isTagged o.pkt.ptype then { b with fab := { b.fab with outst := b.fab.outst.map (fun y => if y = o then { o with timedOut := true } else y) } } else dropOutst b o
    Answers (.fabricTimeout r) b (ledgerFlush (sendReleases (planesBack (deliverTo s o.forWhom o.pkt.dslot o.pkt.addr .fabricTimeout [] 0)))))

/-! ### Time (chapters 12 and 15) -/

/-- The time unit (R312, R432 to R434, R574, R577): a SYNC gives a plane's offset and the median of the planes corrects hall time;
DELAY_REQs leave on every UP port and an answer sets the plane's delay; HTREF is taken from its third good frame, PTP when neither
serves; and a lost source hands over or begins HOLDOVER, which ends in FREE_RUN. A correction below 1 µs, and every one backward, is
slewed; a larger one forward is a step; either of the last two raises alarm 0x0D. Completes: timeSync, delayReqDue, delayRsp,
planeSourceLost, htrefFrame, htrefEdge, htrefFramesMissing, ieee1588Message, holdoverExpiry. -/
def Obligations.TimeSourcesSetHallTime : Prop :=
  ((∀ (b : Block) (k : Fin 18) (t1 : Word) (tseq : BitVec 16) (src : BitVec 2), portUp b k = true → src ≠ 3 →
    let p := planeAt b k
    let s := planePut b k { p with t1 := t1, t2 := hallNow b, src := src, heard := true, offset := (hallNat b : Int) - t1.toNat - p.delay }
    (planesHere s = true → Answers (.timeSync k t1 tseq src) b (ledgerFlush (setTimeState (timeCorrect s (-(median (planeOffsets s)))) 1))) ∧
    (planesHere s = false → timeState b ≠ 1 → Answers (.timeSync k t1 tseq src) b s)) ∧
  (∀ b : Block, (∀ k : Nat, k < 18 → portUp b k = false) → Answers .delayReqDue b b) ∧
  (∀ (b : Block) (k : Nat), (List.range 18).filter (portUp b) = [k] → Answers .delayReqDue b
    (emit { planePut b k { planeAt b k with t3 := hallNow b, tseq := b.fab.delaySeq } with
      fab := { (planePut b k { planeAt b k with t3 := hallNow b, tseq := b.fab.delaySeq }).fab with delaySeq := b.fab.delaySeq + 1 } } (.delayReq k b.fab.delaySeq))) ∧
  (∀ (b : Block) (k : Fin 18) (t4 : Word) (tseq : BitVec 16), portUp b k = true → (planeAt b k).heard = true → (planeAt b k).tseq = tseq →
    let p := planeAt b k
    let d : Int := (((p.t2.toNat : Int) - p.t1.toNat) + ((t4.toNat : Int) - p.t3.toNat)) / 2
    Answers (.delayRsp k t4 tseq) b (planePut b k { p with delay := d, offset := p.offset + p.delay - d, synced := true })) ∧
  (∀ b : Block, timeState b = 1 → Answers .planeSourceLost b
    (ledgerFlush (nextSource { b with fab := { b.fab with planes := b.fab.planes.map (fun e => (e.1, { e.2 with heard := false })) } }))) ∧
  (∀ (b : Block) (t : Word), powerState b ≠ 0 → b.time.htTime = some (t - 1000000) → 2 ≤ b.time.htGood →
    Answers (.htrefFrame t true) b { b with time := { b.time with htTime := some t, htGood := 3, htBad := 0, htLost := false, htPend := some t, htAt := hallNow b } }) ∧
  (∀ (b : Block) (t : Word), powerState b ≠ 0 → b.time.htBad = 2 → Answers (.htrefFrame t false) b
    (ledgerFlush (htrefLost { b with time := { b.time with htPend := none, htBad := 3 } }))) ∧
  (∀ (b : Block) (t : Word), b.time.htPend = some t → planesHere b = false → htrefHere b = true → hallNat b ≤ b.time.htAt.toNat + 1000000 →
    Answers .htrefEdge b
    (ledgerFlush (setTimeState (timeCorrect { b with time := { b.time with htPend := none } } ((t.toNat : Int) - hallNat b)) 2))) ∧
  (∀ b : Block, b.time.htLost = false → powerState b ≠ 0 → Answers .htrefFramesMissing b (ledgerFlush (htrefLost b))) ∧
  (∀ (b : Block) (off : Int), 2 ≤ powerState b → sourceAllowed b 3 = true → planesHere b = false → htrefHere b = false →
    Answers (.ieee1588Message off) b (ledgerFlush (setTimeState (timeCorrect b (-off)) 3))) ∧
  (∀ (b : Block) (t : Word), b.time.holdSince = some t → timeState b = 4 → t.toNat + 10000000000 ≤ hallNat b →
    Answers .holdoverExpiry b (ledgerFlush (setTimeState b 5)))) ∧
  (∀ (b : Block) (c : Int),
    (-1000 < c → c < 1000 → timeCorrect b c = { b with clk := { b.clk with slew := c } }) ∧
    (1000 ≤ c → (timeCorrect b c).clk.hall = b.clk.hall + BitVec.ofInt 64 c ∧ (timeCorrect b c).clk.slew = 0 ∧
      (tget alarm0 (timeCorrect b c).logs.alarms 13).active = true) ∧
    (c ≤ -1000 → (timeCorrect b c).clk.hall = b.clk.hall ∧ (timeCorrect b c).clk.slew = c ∧
      (tget alarm0 (timeCorrect b c).logs.alarms 13).active = true))

/-! ### Coherence and ownership (chapter 13) -/

/-- Coherence of the bay (R344, R345, R348): a request of a caching agent is admitted to its line; a line put back is written and its
holder leaves; a recalled cluster gives up or shares its line and keeps its answer, or gives none for a line that its reset has lost (R369); the line a home sends is taken by the cluster
that asked; and an answered recall leaves its sharer out. Completes: cgets, cgetm, cput, crecallInv, crecallFwd, cdata, cack,
recallTimeout. -/
def Obligations.CoherenceMessagesAct : Prop :=
  (∀ (b : Block) (a : Agent) (line : BitVec 34) (tid : BitVec 16), 2 ≤ powerState b → cgetAgain b a line.toNat tid = none →
    peerOk b a.slot = true → line.toNat < hbmLines → (sameBay b a.slot = true ∨ agentOwns b a line.toNat = true) →
    ∀ hint : BitVec 2, (hint ≠ 3 →
      Answers (.cgets a line ⟨tid, hint⟩) b (ledgerFlush (homeAdmit b line.toNat (.cget a false tid hint.toNat))) ∧
      Answers (.cgetm a line ⟨tid, hint⟩) b (ledgerFlush (homeAdmit b line.toNat (.cget a true tid hint.toNat)))) ∧
    (hint = 3 → Answers (.cgets a line ⟨tid, hint⟩) b (refuseCget b a line.toNat tid .malformed) ∧
      Answers (.cgetm a line ⟨tid, hint⟩) b (refuseCget b a line.toNat tid .malformed))) ∧
  (∀ (b : Block) (a : Agent) (line : BitVec 34) (tid : BitVec 16) (d : List Byte), d.length = 128 → 2 ≤ powerState b →
    peerOk b a.slot = true → sameBay b a.slot = true → (dirAt b line.toNat).st = .m →
    (dirAt b line.toNat).sharers = BitVec.ofNat 96 (2 ^ sharerBit a) →
    let s := putBack b line.toNat d
    let s := dirPut s line.toNat { dirAt b line.toNat with sharers := 0, st := .u, wasM := false }
    Answers (.cput a line tid (some d)) b (ledgerFlush (drainLine line.toNat ((waitingAt s line.toNat).length + 1)
      (sendCoh s 0x15 a.slot line.toNat (cohExt b tid.toNat a.cluster 0 0 0 false) .ok [])))) ∧
  (∀ (b : Block) (home : SlotId) (c : ClusterId) (line : BitVec 34) (tid : BitVec 16), 2 ≤ powerState b → peerOk b home = true →
    b.coh.answered.find? (fun x => x.home == home.val && x.c == c.val && x.line == line.toNat && x.tid == tid) = none →
    let rackLine := rackAddr home (line.toNat * 128) / 128
    let h := heldAt b rackLine c
    let keep := b.coh.answered.filter (fun x => !(x.home == home.val && x.c == c.val && x.line == line.toNat))
    let reply := fun (s : Block) (data : Option (List Byte)) => sendCoh { s with coh := { s.coh with answered := keep ++ [⟨home, c, line.toNat, tid, data⟩] } }
      0x15 home line.toNat (cohExt b tid.toNat c 0 0 0 data.isSome) .ok (data.getD [])
    (h.data ≠ [] → h.dirty = true → Answers (.crecallInv home c line tid) b
      (reply (dropResv (heldPut b rackLine c held0) c rackLine) (some h.data))) ∧
    (h.dirty = false → (h.data ≠ [] ∨ h.excl = false) → Answers (.crecallInv home c line tid) b (reply (dropResv (heldPut b rackLine c held0) c rackLine) none)) ∧
    (h.data ≠ [] → h.excl = true → Answers (.crecallFwd home c line tid) b
      (reply (heldPut b rackLine c { h with excl := false, dirty := false }) (some h.data))) ∧
    (h.data = [] → h.excl = true → Answers (.crecallInv home c line tid) b b)) ∧
  (∀ (b : Block) (home : SlotId) (c : ClusterId) (line : BitVec 34) (tid : BitVec 16) (excl : Bool) (d : List Byte),
    let rackLine := rackAddr home (line.toNat * 128) / 128
    d.length = 128 → peerOk b home = true → b.coh.asked.any (fun q => q.line == rackLine && q.c == c.val && q.tid == tid) = true →
    Answers (.cdata home c line tid excl .ok d) b (deliverLine
      (sendCoh b 0x15 home line.toNat (cohExt b tid.toNat c 0 0 0 false) .ok []) rackLine c excl d)) ∧
  (∀ (b : Block) (a : Agent) (line : BitVec 34) (tid : BitVec 16),
    let mine := fun (o : CohOpen) => o.slot == a.slot.val && o.c == a.cluster.val && o.line == line.toNat && o.tid == tid
    peerOk b a.slot = true → b.coh.opened.any mine = true → Answers (.cack a line tid none) b
      { b with coh := { b.coh with opened := b.coh.opened.filter (fun o => !mine o) } }) ∧
  (∀ (b : Block) (a : Agent) (line : BitVec 34) (tid : BitVec 16) (d : List Byte), d.length = 128 → (dirAt b line.toNat).st = .b →
    peerOk b a.slot = true → (dirAt b line.toNat).tid = tid → sameBay b a.slot = true → bit (dirAt b line.toNat).acks.toNat (sharerBit a) = true →
    Answers (.cack a line tid (some d)) b (ledgerFlush (ownProgress (recallAnswer b line.toNat (sharerBit a) (some d))))) ∧
  (∀ (b : Block) (line : BitVec 34), (dirAt b line.toNat).st = .b →
    let l := line.toNat
    let d := dirAt b l
    (d.resent = false → Answers (.recallTimeout line) b (resendRecall (dirPut b l { d with resent := true }) l (fun _ => true))) ∧
    (d.resent = true →
      let s := raiseAlarm (odBump (if d.wasM then markLost b l else b) 0x6120 1 1) 0x09 (unitSlice (dieOf (if d.wasM then markLost b l else b) (l * 128))) .ok (l * 128)
      Answers (.recallTimeout line) b (ledgerFlush (ownProgress (recallDone s l { d with acks := 0, sharers := 0 })))))

/-- Ownership of regions (R351, R352, R355): an acquisition that meets no entry waits for its recalls and is answered when they have
ended; a release frees the entry it names; a ping is answered, sent to every owner, and counted; and the answer to a request of this
module's own unit ends it, and gives a hart its OWN_RESULT. Completes: cownRelease, cownPing, cownPingDue, cownrsp, cownAcqExcl,
cownAcqRead. -/
def Obligations.OwnershipMessagesAct : Prop :=
  (∀ (b : Block) (o : OwnerId) (region : BitVec 18) (tid : BitVec 16) (i : Instr) (read : Bool), 2 ≤ powerState b →
    peerOk b o.slot = true → region.toNat < 196608 → ownerUnit o.unit.toNat = true →
    (i, read) ∈ [(Instr.cownAcqExcl o region tid, false), (.cownAcqRead o region tid, true)] →
    let r : OwnReq := ⟨tid.toNat + 65536 * o.epoch.toNat, o.unit.toNat, o.slot, region.toNat, read, false, false, none⟩
    b.own.reqs.any (fun y => y == r) = false →
    (acqStatus b r o.epoch.toNat = none → Answers i b (ledgerFlush (ownProgress { b with own := { b.own with reqs := b.own.reqs ++ [r] } }))) ∧
    (∀ st : Status, acqStatus b r o.epoch.toNat = some st →
      Answers i b (sendCownrsp b o.slot tid.toNat o.unit.toNat region.toNat st))) ∧
  (∀ (b : Block) (o : OwnerId) (region : BitVec 18) (tid : BitVec 16), 2 ≤ powerState b → peerOk b o.slot = true →
    let hit := fun (e : OwnEnt) => e.region == region.toNat && e.oslot == o.slot.val && e.ounit == o.unit.toNat && e.oepoch == o.epoch.toNat && !e.lost
    (b.own.table.any (fun e => hit e.2) = true → Answers (.cownRelease o region tid) b
      (sendCownrsp (ownTable b (b.own.table.filter (fun e => !hit e.2))) o.slot tid.toNat o.unit.toNat region.toNat .ok)) ∧
    (b.own.table.any (fun e => hit e.2) = false → Answers (.cownRelease o region tid) b b)) ∧
  (∀ (b : Block) (home : SlotId) (tid : BitVec 16), 2 ≤ powerState b → peerOk b home = true →
    Answers (.cownPing home tid) b (sendCownrsp b home tid.toNat 0 0 .ok)) ∧
  (∀ b : Block, 2 ≤ powerState b → Answers .cownPingDue b (ledgerFlush ((ownerSlots b).foldl pingSlot b))) ∧
  (∀ (b : Block) (home : SlotId) (tid : BitVec 16) (epoch : BitVec 32), peerOk b home = true → tget 0 b.own.pinged tid.toNat = home.val + 1 →
    Answers (.cownrsp home tid .ok epoch) b (ledgerFlush (forceRelease
      { b with own := { b.own with pings := tset 0 b.own.pings home 0, pinged := tset 0 b.own.pinged tid.toNat 0 } }
      (fun e => e.oslot == home.val && e.oepoch != epoch.toNat)))) ∧
  (∀ (b : Block) (home : SlotId) (tid : BitVec 16) (epoch : BitVec 32) (r : OwnReq) (h : HartId),
    peerOk b home = true → tget 0 b.own.pinged tid.toNat ≠ home.val + 1 → b.own.mine.find? (fun r => r.tid == tid.toNat && r.slot == home.val && !r.held) = some r →
    r.release = false → r.hart = some h →
    let s := { b with own := { b.own with mine := b.own.mine.filter (fun y => y != r) ++ [{ r with held := true }] } }
    Answers (.cownrsp home tid .ok epoch) b (hartPut s h { hartAt b h with
      ownResult := .ok, blocked := if (hartAt b h).blocked = some .owning then none else (hartAt b h).blocked })) ∧
  (∀ (b : Block) (region : Nat), ∀ e ∈ (clearLost b region).own.table, e.2.region = region → e.2.lost = false)

/-! ### Truss collectives (chapter 14) -/

/-- Truss messages. Formation (R377, R408, R409): FORM_UP of a child is noted and the wave goes on, FORM_DOWN ends it; a PROBE is answered,
an answer that names another epoch than before loses the member, and a silent member is probed, then lost. A collective (R396 to R406):
READY and COUNT grant, CHUNK packets are laid into their piece, its header verifies it or asks for it again, a RESEND sends it again,
FAIL ends the member, and DONE goes up and down the tree. Completes: formUp, formDown, probe, probeAnswer, memberTimeout, ready, count,
chunkData, chunkHeader, pieceTimeout, resend, doneUp, doneDown, trussAck, fail, failAckTimeout, chunkStart. -/
def Obligations.TrussMessagesAct : Prop :=
  ((∀ (b : Block) (gid : BitVec 32) (rank : Nat) (lsig : Word) (e : BitVec 32) (k : Nat) (g : Group), 2 ≤ powerState b →
    groupByGid b gid.toNat = some (k, g) → g.state = 1 → (treeChildren g.m g.rank).contains rank = true →
    knownMember b g rank = true →
    Answers (.formUp gid rank lsig e) b (ledgerFlush (formAdvance (groupPut b k { g with
      ups := g.ups.filter (fun u => u.1 != rank) ++ [(rank, lsig)], epochs := tset 0 g.epochs rank (e.toNat + 1) }) k))) ∧
  (∀ (b : Block) (gid : BitVec 32) (st : Status) (k : Nat) (g : Group), groupByGid b gid.toNat = some (k, g) → g.state = 1 →
    g.rank ≠ 0 → Answers (.formDown gid st) b (ledgerFlush (formEnd b k st))) ∧
  (∀ (b : Block) (h : TrussHdr) (k : Nat) (g : Group), 2 ≤ powerState b → groupByGid b h.gid.toNat = some (k, g) →
    knownMember b g h.rank = true →
    Answers (.probe h) b (sendCtl b g h.rank h.collSeq.toNat (reqFor b h.gid.toNat h.collSeq.toNat) ctlProbeAnswer (ctlPid g h.rank) .ok 0 (homeEpoch b)) ∧
    (∀ e : BitVec 32, (tget 0 g.epochs h.rank = 0 ∨ tget 0 g.epochs h.rank = e.toNat + 1) → Answers (.probeAnswer h e) b
      (groupPut b k { g with epochs := tset 0 g.epochs h.rank (e.toNat + 1), probes := tset 0 g.probes h.rank 0 })) ∧
    (∀ e : BitVec 32, tget 0 g.epochs h.rank ≠ 0 → tget 0 g.epochs h.rank ≠ e.toNat + 1 →
      Answers (.probeAnswer h e) b (ledgerFlush (loseMember b k h.rank)))) ∧
  (∀ (b : Block) (h : TrussHdr) (k : Nat) (g : Group), 2 ≤ powerState b → groupByGid b h.gid.toNat = some (k, g) → g.state = 1 →
    h.rank ≠ g.rank → ((treeChildren g.m g.rank).contains h.rank = true ∨ (g.rank ≠ 0 ∧ h.rank = treeParent g.rank)) →
    ((memberPlane b (memberAt g h.rank) 0 = none ∨ 3 ≤ tget 0 g.probes h.rank) →
      Answers (.memberTimeout h) b (ledgerFlush (loseMember b k h.rank))) ∧
    (memberPlane b (memberAt g h.rank) 0 ≠ none → tget 0 g.probes h.rank < 3 → Answers (.memberTimeout h) b
      (sendCtl (groupPut b k { g with probes := tset 0 g.probes h.rank (tget 0 g.probes h.rank + 1) }) g h.rank h.collSeq.toNat
        (reqFor b h.gid.toNat h.collSeq.toNat) ctlProbe (ctlPid g h.rank) .ok 0 0)))) ∧
  ((∀ (b : Block) (h : TrussHdr) (g : Group) (c : Coll), Reaches b h g c →
    (∀ (pc : PieceId) (sig : BitVec 32) (allow : Nat), (g.istus = true ∨ sig = collOpsig c) →
      Answers (.ready h pc sig allow) b (ledgerFlush (advanceColl (collPut b { c with
        ready := if c.ready.contains (h.rank, pc.hall, pc.down) then c.ready else c.ready ++ [(h.rank, pc.hall, pc.down)], allow := tset 0 c.allow h.rank (allow + 1) }) c.gid c.seq))) ∧
    (∀ n : Nat, (collD c).op = 6 → c.grants = [] → Answers (.count h n) b (ledgerFlush (advanceColl
      (grantAll (collPut b { c with counts := tset 0 c.counts h.rank (n + 1) }) c.gid c.seq) c.gid c.seq))) ∧
    (∀ (pc : PieceId) (off : Nat) (d : List Byte) (f : PieceForm), packetData d = true → expectForm g c h.rank pc = some f →
      verifiedAt c h.rank pc = none → 16 * off + d.length ≤ roundUp 16 (formLen g.istus (pieceFmt c pc) f) →
      let p := (pieceAt c h.rank pc).getD ⟨pc, h.rank, [], none, false, 0⟩
      Answers (.chunkData h pc off d) b (ledgerFlush (collPut b (piecePut c { p with bytes := layBytes p.bytes (16 * off) d })))) ∧
    (∀ (pc : PieceId) (hd : ChunkHeader) (f : PieceForm), hd.epoch.toNat = (if g.istus then g.epoch % 65536 else g.epoch) →
      verifiedAt c h.rank pc = none → (g.istus = true ∨ hd.opsig = collOpsig c) → expectForm g c h.rank pc = some f →
      let p := (pieceAt c h.rank pc).getD ⟨pc, h.rank, [], none, false, 0⟩
      let data := padTo hd.bytes (p.bytes.take hd.bytes)
      (pieceGood g c pc f hd p.bytes = false → Answers (.chunkHeader h pc hd) b (ledgerFlush (askResend b g c h.rank pc))) ∧
      (pieceGood g c pc f hd p.bytes = true → g.istus = false → Answers (.chunkHeader h pc hd) b (ledgerFlush (advanceColl (trussEvent
        (collPut b (piecePut c { p with bytes := data, header := some hd, verified := true })) c 1 1) c.gid c.seq)))) ∧
    (∀ pc : PieceId, (expectForm g c h.rank pc).isSome = true → verifiedAt c h.rank pc = none →
      Answers (.pieceTimeout h pc) b (ledgerFlush (askResend b g c h.rank pc))) ∧
    (∀ (pc : PieceId) (p : SentPiece) (bs : List Byte), c.sent.find? (fun p => p.dst == h.rank && p.pid == pc && p.gone) = some p →
      copyOf b g c p = .ok bs →
      (crc64 bs = p.header.crc.toNat → Answers (.resend h pc) b (ledgerFlush (sendPiece
        (trussEvent (odBump (collPut b { c with resends := c.resends + 1 }) 0x8030 4 1) c 2 1) g { c with resends := c.resends + 1 } { p with bytes := bs }))) ∧
      (crc64 bs ≠ p.header.crc.toNat → Answers (.resend h pc) b (ledgerFlush (failColl b c.gid c.seq .corruptSource g.rank)))) ∧
    Answers (.doneUp h) b (ledgerFlush (takeDoneUp h b).1) ∧
    ((treeChildren (groupAt b c.gidx).m (groupAt b c.gidx).rank).contains h.rank = true → c.doneUps.contains h.rank = false →
      Answers (.doneUp h) b (ledgerFlush (checkUp (collPut b { c with doneUps := c.doneUps ++ [h.rank] }) c.gid c.seq).1)) ∧
    (c.upSent = true → (groupAt b c.gidx).rank ≠ 0 → Answers (.doneDown h) b (ledgerFlush (finishColl b c)))) ∧
  (∀ (b : Block) (h : TrussHdr) (g : Group) (c : Coll) (k : Nat), 2 ≤ powerState b → groupByGid b h.gid.toNat = some (k, g) →
    knownMember b g h.rank = true → collAt b h.gid.toNat h.collSeq.toNat = some c →
    Answers (.trussAck h) b (ledgerFlush (dropFailed (collPut b { c with acks := c.acks.filter (fun r => r != h.rank) }) c.gid c.seq)) ∧
    (∀ (st : Status) (subject : Nat) (x : Coll), c.failed = none →
      let s := endFailed (ackFail b g h) c st subject
      collAt (ackFail b g h) h.gid.toNat h.collSeq.toNat = some c → collAt s h.gid.toNat h.collSeq.toNat = some x →
      Answers (.fail h st subject) b (ledgerFlush (dropFailed (if x.fwd then s
        else sendFails (collPut s { x with fwd := true }) g { x with fwd := true } st subject (treeChildren g.m g.rank)) h.gid.toNat h.collSeq.toNat)))) ∧
  (∀ (b : Block) (gid seq : BitVec 32) (child : Nat) (c : Coll) (st : Status) (sub : Nat), collAt b gid.toNat seq.toNat = some c →
    c.failed = some (st, sub) → c.acks.contains child = true →
    let c1 := { c with acks := c.acks.filter (fun r => r != child), fwd := c.fwd || child == 0 }
    Answers (.failAckTimeout gid seq child) b (dropFailed (sendFails (collPut b c1) (groupAt b c.gidx) c1 st sub
      (treeChildren (groupAt b c.gidx).m child)) c.gid c.seq)) ∧
  (∀ (b : Block) (gid seq : BitVec 32) (pc : PieceId) (c : Coll), collAt b gid.toNat seq.toNat = some c → 2 ≤ powerState b →
    c.active = true → c.failed = none →
    let g := groupAt b c.gidx
    (pc.down = true → Answers (.chunkStart gid seq pc) b (ledgerFlush (advanceColl b c.gid c.seq))) ∧
    (pc.down = false → (collD c).reduces = true → pc.hall = true → pc.chunk = c.hallNext → hallMay g c = true →
      let e := ((rackSums g c c.hallNext).map (·.2)).getD ev0
      Answers (.chunkStart gid seq pc) b (ledgerFlush (advanceColl
        (collPut (countOther b (unitTruss c.engine) e) { c with hallNext := c.hallNext + 1 }) c.gid c.seq))) ∧
    (pc.down = false → pc.hall = false → pc.chunk = c.next → moduleMay g c = true →
      Answers (.chunkStart gid seq pc) b (ledgerFlush (startModule b g c pc.chunk)))))

/-! ### Barriers, the step scribe and arming (chapters 15 and 16) -/

/-- Barriers (R426 to R431): an arrival of a child is kept and goes up once all have come; a release sets TREL, and a late one is
counted and released at once; a barrier releases at TREL, and one that has not released within its limit aborts its object. The step
scribe (R435 to R438): an exchange sends the newest entries; a partner's entries are compared; and a partner silent for four exchanges
is LOST, with alarm 0x0F. Completes: barrierArrive, barrierRelease, barrierTrelReached, barrierTimeout, scribeExchangeDue, scribe,
scribeLost. -/
def Obligations.BarrierAndScribeMessagesAct : Prop :=
  ((∀ (b : Block) (gid : BitVec 32) (rank : Nat) (gen : BitVec 10) (k : Nat) (x : BarrierSt), barrierByGid b gid.toNat = some (k, x) →
    let g := groupAt b (barrierGidx x)
    (treeChildren g.m g.rank).contains rank = true → x.children.contains (arrivalKey gen rank) = false → knownMember b g rank = true →
    Answers (.barrierArrive gid rank gen) b (ledgerFlush (barrierUp (barrierPut b k { x with children := x.children ++ [arrivalKey gen rank] }) k))) ∧
  (∀ (b : Block) (gid : BitVec 32) (gen : BitVec 10) (trel : Word) (k : Nat) (x : BarrierSt), barrierByGid b gid.toNat = some (k, x) →
    x.arrived ≠ none → x.release = none → gen = barrierGen10 x →
    let s := barrierReleaseSet b k trel
    (hallNat s ≤ trel.toNat → Answers (.barrierRelease gid gen trel) b (ledgerFlush s)) ∧
    (trel.toNat < hallNat s → releaseMay (countEvent (odBump s 0x9000 7 1) unitTime 2 1) k = true →
      Answers (.barrierRelease gid gen trel) b (ledgerFlush (barrierRelease (countEvent (odBump s 0x9000 7 1) unitTime 2 1) k)))) ∧
  (∀ (b : Block) (k : Fin 256), releaseMay b k = true → Answers (.barrierTrelReached k) b (ledgerFlush (barrierRelease b k))) ∧
  (∀ (b : Block) (k : Fin 256) (t : Word), (barrierAt b k).arrived = some t → barrierEn (barrierAt b k) = true →
    1000 * odNat b 0x6020 3 ≤ hallNat b - t.toNat →
    let x := barrierAt b k
    let s := barrierPut b k { x with arrived := none, release := none, children := x.children.filter (fun y => y / 2 ^ 20 != (barrierGen10 x).toNat) }
    Answers (.barrierTimeout k) b (ledgerFlush (abortObj (if barrierStep x then dropArming s else s) (barrierReleaseObj x))))) ∧
  ((∀ b : Block, b.scribe.on = true → b.scribe.mismatch = false → Answers .scribeExchangeDue b
    (emit { b with scribe := { b.scribe with exch := b.scribe.exch + 1, silent := b.scribe.silent + 1 } }
      (.scribe (odNat b 0x9200 1) b.scribe.exch (scribeNewest b) false))) ∧
  (∀ (b : Block) (n : BitVec 32) (es : List (Nat × BitVec 32 × Word)) (m : Bool), es.length ≤ 112 → b.scribe.on = true →
    let r := es.foldl scribeCompare ({ b with scribe := { b.scribe with silent := 0, mismatch := b.scribe.mismatch || m } }, false)
    (r.2 = true → Answers (.scribe n es m) b (ledgerFlush (raiseAlarm (odPut r.1 0x9200 5 2) 0x0F unitNone .ok n.toNat))) ∧
    (r.2 = false → odNat r.1 0x9200 5 ≠ 3 → Answers (.scribe n es m) b (ledgerFlush r.1))) ∧
  (∀ b : Block, b.scribe.on = true → 4 ≤ b.scribe.silent → odNat b 0x9200 5 ≠ 3 →
    Answers .scribeLost b (ledgerFlush (raiseAlarm (odPut b 0x9200 5 3) 0x0F unitNone .ok 0))))

/-- Sketch (R453 to R461): an arming ends when no line of the shard is dirty in a copy; a sweep and a priority copy each copy one
granule; the copy ends when none is left; and a drain whose limit has passed is sent again, or given up. Completes: armingComplete,
sketchSweepGranule, priorityCopyDone, sketchCopyEnd, sketchDrainTimeout. -/
def Obligations.SketchEventsAct : Prop :=
  (∀ (b : Block) (a : ArmSt) (g : GenSt), b.sketch.armed = some a → b.sketch.gen = some g →
    (g.phase = .arming → armingDone b a = true → lateBarrier b = none → Answers .armingComplete b (genPut b { g with phase := .armed })) ∧
    (∀ k : Nat, g.phase = .arming → armingDone b a = true → lateBarrier b = some k →
      releaseMay (genPut b { g with phase := .armed }) k = true → Answers .armingComplete b (ledgerFlush
        (barrierRelease (countEvent (odBump (genPut b { g with phase := .armed }) 0x9000 7 1) unitTime 2 1) k))) ∧
    (∀ (j : Nat) (t : List Nat), g.phase = .copying → g.protect = j :: t →
      Answers .sketchSweepGranule b (ledgerFlush (copyGranule b a g j))) ∧
    (∀ (j : Nat) (t : List Nat), g.phase = .copying → g.queue = j :: t →
      Answers .priorityCopyDone b (ledgerFlush (copyGranule (countEvent (odBump b 0xA020 3 1) unitSketch 2 1) a g j))) ∧
    (g.phase = .copying → g.protect = [] → Answers .sketchCopyEnd b
      (odPut (genPut b { g with phase := .exchanging, tcopy := if g.state = 0 then hallNow b else 0 }) 0xA000 2 4)) ∧
    (∀ (r : DrainRec) (b1 : Block), flowOn (odNat b 0x7101 1) = true → g.drains.find? (drainLate b) = some r →
      (∀ n : DrainRec, resendDrain b a g.step g.manifest r = (b1, some n) → Answers .sketchDrainTimeout b
        (genPut b1 { g with drains := g.drains.map (fun x => if x = r then n else x) })) ∧
      (resendDrain b a g.step g.manifest r = (b1, none) → Answers .sketchDrainTimeout b (failDrain b1 .sketchAbandoned))))

/-! ### Loading and starting a job (chapter 16) -/

/-- The messages of a launch (R470 to R475) at a module that the job is assigned to; the end of zeroing, after which memory is zero and the
chunks that came meanwhile are taken (R273); and the start of the harts at TREL, those of a disabled cluster staying held (R473).
Completes: lChunk, lGot, lChunkResendDue, launchTimeout, lJoin, lAck, lReport, lReplace, lStart, lAbort, jobZeroingDone, hartsStart. -/
def Obligations.LaunchMessagesAct : Prop :=
  (∀ (b : Block) (src : LaunchFrom), launchHere b src = true →
    let l := b.launch
    (∀ (chunk off : Nat) (d : List Byte), chunk < l.table.length → l.have_.contains chunk = false →
      let have0 := tget [] l.partials chunk
      let now := (have0 ++ d.drop (have0.length - off)).take (imgLen b chunk)
      off ≤ have0.length → have0.length < off + d.length → l.asked = l.upper → l.asked ≠ 3 →
      (now.length < imgLen b chunk → l.segs + 1 ≠ 64 → Answers (.lChunk src chunk off d) b
        { b with launch := { l with partials := tset [] l.partials chunk now, segs := l.segs + 1 } }) ∧
      (imgLen b chunk ≤ now.length → Answers (.lChunk src chunk off d) b (ledgerFlush (imgDone
        (emit { b with launch := { l with partials := tset [] l.partials chunk now, segs := 0 } } (.launchMsg (some src.rank) 0x31 [chunk, now.length] []))
        (some src.rank) chunk)))) ∧
    (∀ chunk got : Nat, l.children.contains src.rank = true → (tget (0, 0) l.progress src.rank).1 = chunk →
      (imgLen b chunk ≤ got → Answers (.lGot src chunk got) b (serveChild (childAt b src.rank (chunk + 1) 0) src.rank)) ∧
      (got < imgLen b chunk → 0 < got → Answers (.lGot src chunk got) b
        (childAt b src.rank chunk (max got (tget (0, 0) l.progress src.rank).2)))) ∧
    (l.children.contains src.rank = true → Answers (.lChunkResendDue src.rank) b (serveChild b src.rank)) ∧
    (l.rank < l.m → Answers .launchTimeout b (joinNext b)) ∧
    (∀ lowest : Nat, src.rank < l.m → l.rank < l.m → isAncestor l.rank src.rank = true → l.children.contains src.rank = true →
      Answers (.lJoin src lowest) b (serveChild (childAt b src.rank lowest 0) src.rank)) ∧
    (∀ lowest : Nat, src.rank < l.m → l.rank < l.m → isAncestor l.rank src.rank = true → l.children.contains src.rank = false →
      Answers (.lJoin src lowest) b (serveChild (childAt (emit (odBump { b with launch := { l with children := l.children ++ [src.rank] } } 0xA100 4 1)
        (.launchMsg none 0x34 [l.rank, (src.rank - 1) / 8] [])) src.rank lowest 0) src.rank)) ∧
    (l.children.contains src.rank = true → l.acked.contains src.rank = false → Answers (.lAck src (imageDigest b)) b
      (ackUp { b with launch := { l with acked := l.acked ++ [src.rank] } })) ∧
    (∀ silent : Nat, Answers (.lReport src silent) b b) ∧
    (∀ (rank : Nat) (m : Member) (sig : List Byte), rank < l.m →
      let members := l.members.set rank m
      let s := { b with launch := { l with members := members, rank := ownRankIn b members, acked := l.acked.filter (· != rank) } }
      let s := launchDown (odModule s 0x6000 2 (peersOf s members)) 0x35 [rank, memberWord m] sig
      Answers (.lReplace src rank m sig) b
        (if launcherSigned b (natLe 8 src.jobId.toNat ++ natLe 4 rank ++ natLe 4 0 ++ natLe 8 (memberWord m)) sig then
          (if s.launch.children.contains rank then serveChild (childAt s rank 0 0) rank else s)
        else launchRefuse b 0x35)) ∧
    (∀ (trel : Word) (sig : List Byte), odNat b 0xA100 2 = 2 →
      let s := odModule (odModule (launchDown b 0x36 [trel.toNat] sig) 0x9000 3 (launchDown b 0x36 [trel.toNat] sig).launch.step0.toNat) 0x9000 2
        (odModule (launchDown b 0x36 [trel.toNat] sig) 0x9000 3 (launchDown b 0x36 [trel.toNat] sig).launch.step0.toNat).launch.seed.toNat
      Answers (.lStart src trel sig) b (if launcherSigned b (natLe 8 src.jobId.toNat ++ natLe 8 trel.toNat) sig then
          ledgerFlush { odPut s 0xA100 2 3 with launch := { (odPut s 0xA100 2 3).launch with trel := some trel } }
        else launchRefuse b 0x36)) ∧
    (∀ sig : List Byte, Answers (.lAbort src sig) b (if launcherSigned b (natLe 8 src.jobId.toNat ++ natLe 8 0) sig then
        ledgerFlush (beginEndJob (odPut (launchDown b 0x37 [0] sig) 0xA100 2 4) true)
      else launchRefuse b 0x37))) ∧
  ((∀ b : Block, b.launch.zeroing = true →
    let s := drainAll (zeroAll { b with launch := { b.launch with zeroing := false } })
    Answers .jobZeroingDone b (ledgerFlush ((s.launch.partials.map (·.1)).foldl
      (fun s c => imgDone s (ancestor (s.launch.upper + 1) s.launch.rank) c) s))) ∧
  (∀ (b : Block) (t : Word), b.launch.trel = some t → b.launch.started = false → t.toNat ≤ hallNat b →
    ∃ s : Block, Answers .hartsStart b s ∧ s.launch.started = true ∧
      (∀ h : Nat, h < 96 → funcOff b 5 (h / 8) = false → (hartAt s h).held = false) ∧
      (∀ h : Nat, h < 96 → funcOff b 5 (h / 8) = true → hartAt s h = hartAt b h) ∧ s.mem = b.mem ∧ s.sync = b.sync))

/-! ### Transport and sessions (chapters 16 and 17) -/

/-- The transport (R496 to R499): a record is sent as its message's segments, a segment is kept, placed and acknowledged, an
acknowledgement frees segments and signals what it completes, and a segment past its limit is sent again or ends its flow. Completes:
transportSendRecord, transportData, transportAck, transportRto, ackDelay. -/
def Obligations.TransportMessagesAct : Prop :=
  (∀ (b : Block) (f : Fin 256),
    let e := flowEntry b f
    let x := flowAt b f
    let n := leNat (ringRead b e x.txPtr 4)
    f ≠ 0 → 2 ≤ powerState b → flowOn e = true → flowOut e = true → x.txMsg < (syncAt b (flowMsgObj e)).count.toNat → x.backlog = [] →
    1 ≤ n → n ≤ 2 ^ 24 → 64 + n ≤ flowRingSize e →
    (∀ r ∈ ringRuns e x.txPtr (64 + n), accessStatus b none .read r.1 r.2 = none ∧ unitFree b r.1 r.2 false = true) →
    Answers (.transportSendRecord f) b
      (flowMessage (flowPut b f { x with txPtr := x.txPtr + 64 + roundUp 64 n }) f ((ringRead b e x.txPtr (64 + n)).drop 64))) ∧
  (∀ (b : Block) (g : Segment),
    let e := flowEntry b g.flow
    let b1 := countEvent b (unitEth g.port) 2 1
    let x := flowAt b1 g.flow
    ethUp b g.port = true → g.data.length ≤ 9000 → 2 ≤ powerState b → g.flow < 256 → flowOn e = true → flowOut e = false → fromPeer e g = true →
    g.data.length ≤ segMax b1 → g.data ≠ [] → 1 ≤ g.total.toNat → g.total.toNat ≤ 2 ^ 24 → g.total.toNat ≤ flowRingSize e - 64 →
    g.offset.toNat + g.data.length ≤ g.total.toNat →
    (segAbs x.rxNext g.seg.toNat < x.rxNext ∨ x.rxSack.contains (segAbs x.rxNext g.seg.toNat) = true) →
    let s := flowReceive (flowPut b1 g.flow { x with unackedRx := x.unackedRx + 1 }) g.flow
    Answers (.transportData g) b (ledgerFlush (if 16 ≤ (flowAt s g.flow).unackedRx then flowAck s g.flow else s))) ∧
  (∀ (b b1 : Block) (g : Segment) (n : Nat), ethUp b g.port = true → takeAck b g = some (b1, n) →
    (g.flow = 0 → Answers (.transportAck g) b (ackDrains b1)) ∧
    (g.flow ≠ 0 → n = 0 → Answers (.transportAck g) b b1) ∧
    (g.flow ≠ 0 → n ≠ 0 → Answers (.transportAck g) b
      (ledgerFlush ((List.range n).foldl (fun s _ => signalAdd s (flowDoneObj (flowEntry s g.flow)) 1) b1)))) ∧
  (∀ (b : Block) (f : Fin 256) (seg : BitVec 32) (g : SentSeg),
    let x := flowAt b f
    x.unacked.find? (fun g => g.seg % 2 ^ 32 == seg.toNat) = some g → flowOn (flowEntry b f) = true →
    (g.resends < odNat b 0x7010 2 → Answers (.transportRto f seg) b (segOut
      (flowPut b f { x with unacked := x.unacked.map (fun y => if y = g then { g with resends := g.resends + 1 } else y) }) f { g with resends := g.resends + 1 })) ∧
    (odNat b 0x7010 2 ≤ g.resends → f ≠ 0 → Answers (.transportRto f seg) b (ledgerFlush (flowFail b f)))) ∧
  (∀ (b : Block) (f : Fin 256), flowOn (flowEntry b f) = true → flowOut (flowEntry b f) = false → (flowAt b f).unackedRx ≠ 0 →
    2 ≤ powerState b → Answers (.ackDelay f) b (flowAck b f))

/-- Sessions (R488 to R495): a HELLO and an OPEN are answered, CLOSE and IDLE_TIMEOUT end a session; each kind of request that is new, on a
path that is open, is carried out once and answered with its status and payload; notifications carry the entry's latest value; and a
request that has not begun in time is refused. Completes: hello, openSession, close, idleTimeout, read, write, blockRead, blockWrite,
subscribe, unsubscribe, requestTimeout, notifyPeriod, notifyCoalesceEnd. -/
def Obligations.SessionRequestsAct : Prop :=
  ((∀ (b : Block) (path : Path) (source : BitVec 128) (role : BitVec 8) (nonce : BitVec 256), pathOpen b path = true → path ≠ .window →
    sourceBlocked b source = false → b.sess.table.length < 32 →
    Answers (.hello path source role nonce) b (helloAnswer b path source role nonce)) ∧
  (∀ (b : Block) (path : Path) (source : BitVec 128) (payload : List Byte) (h : Hello), pathOpen b path = true → path ≠ .window →
    b.sess.hellos.find? (fun x => x.path == path && x.source == source) = some h →
    Answers (.openSession path source payload) b (openNow { b with
      sess := { b.sess with hellos := b.sess.hellos.filter (fun x => !(x.path == path && x.source == source)) } } h payload)) ∧
  (∀ (b : Block) (path : Path) (source : BitVec 128) (payload : List Byte), pathOpen b path = true → path ≠ .window →
    b.sess.hellos.find? (fun x => x.path == path && x.source == source) = none →
    Answers (.openSession path source payload) b (setupFails b source)) ∧
  (∀ (b : Block) (r : SessReq) (x : Session), sessAt b r.session = some x → pathOpen b x.path = true → r.tagOk = true →
    x.kept.find? (fun k => k.1 == r.seq.toNat) = none → awaitsReply b r = false → x.highSeq < r.seq.toNat + 64 →
    Answers (.close r) b (sessClose (emit b (.dict r.session 0x85 r.seq.toNat .ok [])) r.session)) ∧
  (∀ (b : Block) (n : Nat) (x : Session), sessAt b n = some x → odNat b 0x1010 3 * 1000000000 ≤ hallNat b - x.lastReq.toNat →
    Answers (.idleTimeout n) b (sessClose b n) ∧ sessAt (sessClose b n) n = none)) ∧
  (∀ (b : Block) (r : SessReq) (x : Session), sessAt b r.session = some x →
    (pathOpen b x.path = true → r.tagOk = true → x.kept.find? (fun k => k.1 == r.seq.toNat) = none → x.highSeq < r.seq.toNat + 64 →
      awaitsReply b r = false → x.launchOnly = false →
      let o := sessOrigin x
      let answer := fun (s : Block) (typ : Nat) (st : Status) (p : List Byte) => respondReq s r.session r.seq.toNat typ st p
      (∀ (i : BitVec 16) (sub : BitVec 8) (off len : Nat),
        (odReadCheck b o i.toNat sub.toNat = none → let bs := odRead b x.nonce.toNat i.toNat sub.toNat;
          Answers (.read r i sub off len) b (answer b 0x90 .ok
            (natLe 1 (odType i.toNat sub.toNat) ++ natLe 3 0 ++ natLe 4 bs.length ++ (bs.drop off).take len))) ∧
        (∀ st : Status, odReadCheck b o i.toNat sub.toNat = some st → Answers (.read r i sub off len) b (answer b 0x90 st []))) ∧
      (∀ (i : BitVec 16) (sub typ : BitVec 8) (off : Nat) (d : List Byte), Answers (.write r i sub typ off false d) b
        (answer (sessPut b r.session { x with
          stagedEnt := some (i.toNat, sub.toNat), staged := (if x.stagedEnt = some (i.toNat, sub.toNat) then x.staged else []) ++ [(off, d)] }) 0x91 .ok [])) ∧
      (∀ (i : BitVec 16) (sub typ : BitVec 8) (d : List Byte), x.stagedEnt = none → d.length = odLen i.toNat sub.toNat → i ≠ 0xC030 →
        let s := sessPut b r.session { x with stagedEnt := none, staged := [] }
        odCheck s o i.toNat sub.toNat (some typ.toNat) d = none →
        Answers (.write r i sub typ 0 true d) b (answer (odAccept s o i.toNat sub.toNat d) 0x91 .ok [])) ∧
      (∀ items : List BlockItem, items ≠ [] → items.length ≤ 64 →
        Answers (.blockRead r items) b (answer b 0x92 .ok (items.flatMap (blockItem b x)))) ∧
      (∀ items : List BlockItem, items ≠ [] → items.length ≤ 64 → items.findSome? (blockCheck b x) = none →
        let a := blockApply r.session x items 0 b
        Answers (.blockWrite r items) b (answer a.1 0x93 a.2.1 (natLe 2 a.2.2 ++ natLe 2 0))) ∧
      (∀ (items : List BlockItem) (st : Status), items ≠ [] → items.length ≤ 64 → items.findSome? (blockCheck b x) = some st →
        Answers (.blockWrite r items) b (answer b 0x93 st (natLe 4 0))) ∧
      (∀ (i : BitVec 16) (sub mode : BitVec 8) (period : BitVec 32), odReadCheck b o i.toNat sub.toNat = none →
        (mode = 0 ∨ (mode = 1 ∧ 1000 ≤ period.toNat)) → x.subs.length < 256 → Answers (.subscribe r i sub mode period) b
          (answer (sessPut b r.session { x with
            subs := x.subs ++ [⟨x.nextSub, i.toNat, sub.toNat, mode == 1, period.toNat, false⟩], nextSub := x.nextSub + 1 }) 0x94 .ok (natLe 4 x.nextSub))) ∧
      (∀ n : Nat, x.subs.any (fun q => q.id == n) = true → Answers (.unsubscribe r n) b
        (answer (sessPut b r.session { x with subs := x.subs.filter (fun q => q.id != n) }) 0x95 .ok []))) ∧
    (r.tagOk = true → awaitsReply b r = false → x.kept.any (fun k => k.1 == r.seq.toNat) = false → x.highSeq < r.seq.toNat + 64 →
      Answers (.requestTimeout r) b (respondReq b r.session r.seq.toNat 0x80 .odTimeout [])) ∧
    (∀ (n : Nat) (q : Sub), x.subs.find? (fun q => q.id == n && q.periodic) = some q →
      x.subs.filter (fun q => alarmSub q && q.pending) = [] → Answers (.notifyPeriod r.session n) b (notify b r.session x q)) ∧
    (∀ (n : Nat) (q : Sub), x.subs.find? (fun q => q.id == n && !q.periodic && q.pending) = some q → alarmSub q = true →
      Answers (.notifyCoalesceEnd r.session n) b (notifyPending b r.session q)))

/-! ### Counters and logs (chapter 18), power, start-up and security (chapters 19 and 20) -/

/-- A snapshot is latched once its time has come, counters thaw at theirs, and each refill gives a log class a token back; the
certificate check raises alarm 0x4F, and hall time is saved while it is set (R519 to R526, R561, R434). Completes: snapshotLatch, thaw,
logTokenRefill, identityCertCheck, hallTimeSave. -/
def Obligations.CounterAndLogEventsAct : Prop :=
  (∀ (b : Block) (t : Word) (late : Bool), b.counters.sched = some (t, late) → t.toNat ≤ hallNat b →
    Answers .snapshotLatch b (ledgerFlush (snapWrite { b with counters := { b.counters with
      latched := some (snapRecord b t late), sched := none, frozen := odNat b 0xB020 3 == 1 } }))) ∧
  (∀ b : Block, b.counters.frozen = true → odNat b 0xB020 4 ≤ hallNat b →
    Answers .thaw b { b with counters := { b.counters with frozen := false } }) ∧
  (∀ (b : Block) (c : Fin 14), Answers (.logTokenRefill c) b
    { b with logs := { b.logs with spent := tset 0 b.logs.spent c.val (tget 0 b.logs.spent c.val - 1) } }) ∧
  (∀ b : Block, b.power.inputHeld = true → (tget alarm0 b.logs.alarms 0x4F).active = false →
    Answers .identityCertCheck b (if Config.certValid (identityCert b) (certTime b) then b else ledgerFlush (raiseAlarm b 0x4F unitNone .ok 0))) ∧
  (∀ b : Block, odNat b 0x9400 2 ≠ 0 → Answers .hallTimeSave b { b with time := { b.time with savedHall := b.clk.hall } }) ∧
  (∀ (b : Block) (u code n : Nat), countEvent b u code n = { b with counters := (countEvent b u code n).counters })

/-- Start-up, resets and pins (R533 to R545, R572): each event of the start-up sequence, the module-level resets, the reference and
the pins. Completes: inputApplied, inputHeldInRange, strapRead, standbyReached, readyReached, watchdogExpiry, pllLockLoss,
ridgeLinkFailure, referenceLoss, referenceRestored, modEnFall. -/
def Obligations.PowerEventsAct : Prop :=
  ∀ b : Block,
    (b.power.inputHeld = false → Answers .inputApplied b { b with power := { b.power with inputOn := true, modEn := true } }) ∧
    (b.power.inputOn = true → b.power.inputHeld = false →
      let r := bootIsland (measPut (measPut (odPut { b with power := { b.power with inputHeld := true } } 0x2000 4 0) 4 0) 6 0)
      Answers .inputHeldInRange b (if r.2 then emit (odPut r.1 0x2000 3 2) (.announce (announceBytes (odPut r.1 0x2000 3 2))) else r.1)) ∧
    (∀ (ga : BitVec 7) (ra : BitVec 10) (parity : Bool), b.power.inputOn = true → b.power.straps = none →
      strapOnes ga.toNat ra.toNat parity % 2 = 1 → ga.toNat ≤ 71 →
      let s := odPut (odPut { b with power := { b.power with straps := some (ga, ra, parity), strapBad := false } } 0x1000 6 ga.toNat) 0x1000 5 ra.toNat
      Answers (.strapRead ga ra parity) b (if odNat s 0x6000 2 = 0 then odPut s 0x6000 2 (2 ^ ga.toNat) else s)) ∧
    (∀ f : List Nat, powerState b = 0 → b.power.goal ≠ 0 → Answers (.standbyReached f) b (reachStandby (markImages b f))) ∧
    (∀ t u p k : List Nat, powerState b = 1 → b.power.goal = 2 → Answers (.readyReached t u p k) b (readyNow b t u p k)) ∧
    (2 ≤ powerState b → Answers .watchdogExpiry b (moduleReset b 9) ∧
      Answers .pllLockLoss b (moduleReset (raiseAlarm b 0x4E unitNone .ok 4) 4) ∧
      ∀ l : Fin 15, Answers (.ridgeLinkFailure l) b (moduleReset (raiseAlarm b 0x01 unitNone .ok l) 3)) ∧
    (b.power.inputHeld = true → b.power.refOk = true →
      Answers .referenceLoss b (tripNow { b with power := { b.power with refOk := false } } [(.clockLoss, 0x4E)])) ∧
    Answers .referenceRestored b (tripWatch { b with power := { b.power with refOk := true } }) ∧
    Answers .modEnFall b { powerLost b with power := { (powerLost b).power with modEn := false } } ∧
    (∀ a : Nat, memByte (powerLost b) a = 0) ∧ powerState (powerLost b) = 0

/-- Sensors and protection (R546 to R552): what the input, die and coolant sensors give, the leak pin, the power loop, the units' gates
and the trip latch; and a trip turns the module off, latches, and says why. Completes: inputSample, dieTempSample, coolantSample,
flowPulseLoss, leakAsserted, leakDeasserted, powerLoopEvaluation, tripLatchCleared, gateDelayExpiry. -/
def Obligations.ProtectionEventsAct : Prop :=
  (∀ b : Block, b.power.inputHeld = true →
    (∀ mv ma : Nat, Answers (.inputSample mv ma) b (inputNow b mv ma)) ∧
    (∀ t : Vector Nat 10, Answers (.dieTempSample t) b (dieTempsNow b t.toList)) ∧
    (∀ (i o : Vector Nat 5) (pulses : Nat),
      let s := { b with free := b.free + 2 }
      let ti := thermReading b i
      let tOut := thermReading { b with free := b.free + 1 } o
      Answers (.coolantSample i o pulses) b (coolantTaken s ti tOut (600 * pulses))) ∧
    (∀ (i o : Int) (f : Nat), coolantTaken b (some i) (some o) f = coolantNow b i o f true) ∧
    (∀ (rs : Vector Nat 5) (m : Int), thermTemp (1000 * (median5 rs.toList : Int)) = some m → 10000 ≤ m → m ≤ 60000 →
      ∃ t : Int, thermReading b rs = some t ∧ m - 500 ≤ t ∧ t ≤ m + 500) ∧
    Answers .flowPulseLoss b (coolantNow (inputState b 15 true) b.power.inlet b.power.outlet 0 false) ∧
    (b.power.leak = false → Answers .leakAsserted b
      (tripWatch (tripNow (odPut { b with power := { b.power with leak := true } } 0x2040 4 1) [(.coolant, 0x47)])))) ∧
  (∀ b : Block, b.power.leak = true → Answers .leakDeasserted b (tripWatch (odPut { b with power := { b.power with leak := false } } 0x2040 4 0))) ∧
  (∀ b : Block, 2 ≤ powerState b → b.power.mv ≠ [] → Answers .powerLoopEvaluation b (powerLoop b)) ∧
  (∀ (b : Block) (t : Word), b.power.absentAt = some t → b.power.trip ≠ [] → t.toNat + tripHold ≤ b.clk.cycle →
    Answers .tripLatchCleared b (odPut { b with power := { b.power with trip := [], absentAt := none } } 0x2000 5 0)) ∧
  (∀ (b : Block) (u : Fin 737), 2 ≤ powerState b → unitWorks b u = false →
    Answers (.gateDelayExpiry u) b { b with power := { b.power with unitOff := tset 0 b.power.unitOff u 1 } }) ∧
  (∀ (b : Block) (c : TripCause) (code : Nat), powerState (tripNow b [(c, code)]) = 0 ∧
    c ∈ (tripNow b [(c, code)]).power.trip ∧ odNat (tripNow b [(c, code)]) 0x2000 5 = 1 ∧
    odNat (tripNow b [(c, code)]) 0x2000 4 = tripCode c ∧ faultLow (tripNow b [(c, code)]) = true)
end

