-- ==== Sys2Proof/Laws/Commands.lean ====
section
/-! SUPPORT. What each shared operation of the commands does when it is reached: a stream's next command, an instruction of a hart, a
packet at its home, a message of a collective, a request of a session, a write of the dictionary. -/

namespace Sys2Proof.Laws

open Sys2Proof Sys2Proof.Machine

/-- A meaning that is a total effect on the module answers that effect. -/
theorem answers_of {i : Instr} {f : Block → Block} (h : ∀ s : State, exec i s = onBlock s fun s => .next (f s)) (b : Block) :
    Answers i b (f b) := by
  intro q; rw [h]; rfl

/-- A command that its stream starts next is carried out by its own effect. -/
theorem runsAs {i : Instr} {q : Nat} {plain : Option Bool} {p : BitVec 128 → Bool} {body : Block → CmdSlot → Began}
    (h : ∀ s : State, exec i s = onBlock s fun s => .next (startNext s q plain p body)) : RunsAs i q plain p body := by
  intro b s1 c w quick ⟨h1, h2, h3, h4⟩ hb qs
  rw [h]; simp only [onBlock, startNext, h1, beginSlot, h2, h3, h4, Option.getD, hb]
  rfl

/-- A command that its own effect stops ends its stream. -/
theorem stopsAs {i : Instr} {q : Nat} {plain : Option Bool} {p : BitVec 128 → Bool} {body : Block → CmdSlot → Began}
    (h : ∀ s : State, exec i s = onBlock s fun s => .next (startNext s q plain p body)) : StopsAs i q plain p body := by
  intro b s1 c stop ⟨h1, h2, h3, h4⟩ hb qs
  rw [h]; simp only [onBlock, startNext, h1, beginSlot, h2, h3, h4, Option.getD, hb]
  rfl

/-- An instruction that its hart issues takes its own effect. -/
theorem issue_of {b b1 : Block} {h : HartId} {w : Issued} (hi : Issues b h w b1) (body : Block → Block) :
    issue b h w body = ledgerFlush (body b1) := by
  obtain ⟨h1, h2, b0, a, h3, h4, rfl⟩ := hi
  simp [issue, h1, h2, h3, h4]

/-- A packet that reaches its home is served. -/
theorem serve_of {b b1 : Block} {p : PktHdr} (h : Arrives b p b1) (ptype seq : Nat) (pl : List (BitVec 128)) (body : Block → Block) :
    serve b p ptype seq pl true body = ledgerFlush (body b1) := by
  obtain ⟨h1, h2, h3⟩ := h
  simp [serve, h1, h2, h3]

/-- A tagged request that is new is served. -/
theorem tagged_of {b b1 : Block} {p : PktHdr} {x : TagExt} (h : ArrivesNew b p x b1) (ptype : Nat) (body : Block → Block) :
    tagged b p x ptype body = ledgerFlush (body b1) := by
  obtain ⟨b0, h1, rfl, h3, h4, h5⟩ := h
  rw [tagged, serve_of h1]
  simp only [h3, h5]
  rcases h4 with h4 | h4 <;> simp [h4]

/-- A tagged request whose outcome is kept gets that outcome again. -/
theorem tagged_again {b b0 : Block} {p : PktHdr} {x : TagExt} {e : RepEnt} (h : Arrives b p b0)
    (hk : (noteEpoch b0 p x).fab.replay.find? (fun e => e.slot == p.sslot.val && e.req == p.req.toNat && e.seq == x.seq.toNat) = some e)
    (ptype : Nat) (body : Block → Block) :
    tagged b p x ptype body = ledgerFlush (respond (odBump (noteEpoch b0 p x) 0x6030 5 1) p ptype x.seq.toNat e.status
      [rspSlot (noteEpoch b0 p x) e.old.toNat]) := by
  rw [tagged, serve_of h]
  simp only [hk]

/-- A message that reaches its collective takes its own effect there. -/
theorem onColl_of {b : Block} {h : TrussHdr} {g : Group} {c : Coll} (hr : Reaches b h g c) (early : Option EarlyMsg)
    (body : Group → Coll → Block) : onColl b h early body = ledgerFlush (body g c) := by
  obtain ⟨h1, ⟨k, h2⟩, h3, h4, h5, h6⟩ := hr
  simp [onColl, Nat.not_lt.mpr h1, h2, h3, h4, h5]

/-- A request that is new is answered once, with what its own effect gives. -/
theorem request_of {b : Block} {r : SessReq} {x : Session} (h1 : sessAt b r.session = some x) (h2 : pathOpen b x.path = true)
    (h3 : r.tagOk = true) (h4 : x.kept.find? (fun k => k.1 == r.seq.toNat) = none) (h5 : x.highSeq < r.seq.toNat + 64)
    (h6 : x.launchOnly = false) (h7 : awaitsReply b r = false) (typ : Nat) (body : Block → Session → Block × Status × List Byte) :
    request b r typ body = respondReq (body b x).1 r.session r.seq.toNat (typ + 0x80) (body b x).2.1 (body b x).2.2 := by
  simp [request, h1, h2, h3, h4, Nat.not_le.mpr h5, h6, h7]

/-- A write that passes its checks is accepted. -/
theorem odWrite_ok {b : Block} {o : Origin} {index sub : Nat} {typ : Option Nat} {data : List Byte}
    (h : odCheck b o index sub typ data = none) : odWrite b o index sub typ data = (odAccept b o index sub data, .ok) := by
  simp [odWrite, h]

/-- A write that fails a check is refused with its status and changes nothing. -/
theorem odWrite_refused {b : Block} {o : Origin} {index sub : Nat} {typ : Option Nat} {data : List Byte} {st : Status}
    (h : odCheck b o index sub typ data = some st) : odWrite b o index sub typ data = (b, st) := by
  simp [odWrite, h]

/-- A row that writes an entry writes it wherever its path is open and permits its role. -/
theorem writesEntry {i : Instr} {o : Origin} {index sub : Nat} {data : List Byte}
    (h : ∀ s : State, exec i s = onBlock s fun s => .next (rowWrite s o index sub data)) : WritesEntry i o index sub data := by
  intro b h1 h2 q
  rw [h]
  simp only [onBlock, rowWrite, h1]
  rcases h2 with h2 | h2 <;> simp [h2]

end Sys2Proof.Laws
end

