-- ==== Sys2Proof/Laws/Tables.lean ====
section
/-! SUPPORT. Sparse tables and memory: a read after a write, and that every operation keeps the canonical form. -/

namespace Sys2Proof.Machine

open Sys2Proof

/-! ### Reads of tables -/

theorem tget_tdel {α : Type} (d : α) (t : List (Nat × α)) (i j : Nat) :
    tget d (tdel t i) j = if i = j then d else tget d t j := by
  induction t with
  | nil => simp [tdel, tget]
  | cons e t ih =>
    obtain ⟨k, v⟩ := e
    by_cases h : k = i
    · subst h; simp only [tdel, if_true, ih, tget]; split <;> simp_all
    · simp only [tdel, h, if_false, tget, ih]
      by_cases h2 : k = j
      · subst h2; simp [Ne.symm h]
      · simp [h2]

theorem tget_tins {α : Type} (d : α) (t : List (Nat × α)) (i j : Nat) (v : α) (h : tget d t i = d) (hi : ∀ e ∈ t, e.1 ≠ i) :
    tget d (tins t i v) j = if i = j then v else tget d t j := by
  induction t with
  | nil => simp [tins, tget]
  | cons e t ih =>
    obtain ⟨k, w⟩ := e
    have hk : k ≠ i := hi _ List.mem_cons_self
    have ht : tget d t i = d := by simpa [tget, hk] using h
    have := ih ht fun e he => hi e (List.mem_cons_of_mem _ he)
    simp only [tins]
    split
    · simp only [tget, this]
      by_cases h2 : k = j
      · subst h2; simp [Ne.symm hk]
      · simp [h2]
    · simp [tget]

theorem tdel_keys {α : Type} (t : List (Nat × α)) (i : Nat) : ∀ e ∈ tdel t i, e.1 ≠ i := by
  induction t with
  | nil => simp [tdel]
  | cons e t ih =>
    obtain ⟨k, v⟩ := e
    by_cases h : k = i
    · simpa [tdel, h] using ih
    · intro e he
      simp only [tdel, h, if_false, List.mem_cons] at he
      rcases he with rfl | he
      · exact h
      · exact ih e he

/-- What a table reads after a write. -/
theorem tget_tset {α : Type} [DecidableEq α] (d : α) (t : List (Nat × α)) (i j : Nat) (v : α) :
    tget d (tset d t i v) j = if i = j then v else tget d t j := by
  unfold tset
  split
  · subst v; exact tget_tdel d t i j
  · rw [tget_tins d _ i j v (by simp [tget_tdel]) (tdel_keys t i), tget_tdel]; split <;> rfl

@[simp] theorem tget_tset_self {α : Type} [DecidableEq α] (d : α) (t : List (Nat × α)) (i : Nat) (v : α) :
    tget d (tset d t i v) i = v := by simp [tget_tset]

theorem tget_tset_ne {α : Type} [DecidableEq α] (d : α) (t : List (Nat × α)) {i j : Nat} (v : α) (h : i ≠ j) :
    tget d (tset d t i v) j = tget d t j := by simp [tget_tset, h]

/-! ### The canonical form -/

theorem tabOk_mono {α : Type} [DecidableEq α] (d : α) {lo hi : Nat} (h : lo ≤ hi) :
    ∀ t : List (Nat × α), tabOk d hi t = true → tabOk d lo t = true
  | [], _ => rfl
  | (k, v) :: t, ht => by
    simp only [tabOk, Bool.and_eq_true, decide_eq_true_eq] at ht ⊢
    exact ⟨⟨by omega, ht.1.2⟩, ht.2⟩

theorem tabOk_keys {α : Type} [DecidableEq α] (d : α) : ∀ (t : List (Nat × α)) (lo : Nat), tabOk d lo t = true → ∀ e ∈ t, lo ≤ e.1
  | [], _, _ => by simp
  | (k, v) :: t, lo, ht => by
    simp only [tabOk, Bool.and_eq_true, decide_eq_true_eq] at ht
    intro e he
    simp only [List.mem_cons] at he
    rcases he with rfl | he
    · exact ht.1.1
    · have := tabOk_keys d t (k + 1) ht.2 e he; omega

/-- A table in its canonical form stays so without one key. -/
theorem tabOk_tdel {α : Type} [DecidableEq α] (d : α) (i : Nat) :
    ∀ (t : List (Nat × α)) (lo : Nat), tabOk d lo t = true → tabOk d lo (tdel t i) = true
  | [], _, _ => rfl
  | (k, v) :: t, lo, ht => by
    simp only [tabOk, Bool.and_eq_true, decide_eq_true_eq] at ht
    have := tabOk_tdel d i t (k + 1) ht.2
    simp only [tdel]
    split
    · exact tabOk_mono d (by omega) _ this
    · simpa [tabOk, ht.1.1, ht.1.2] using this

theorem tabOk_tins {α : Type} [DecidableEq α] (d : α) (i : Nat) (v : α) (hv : v ≠ d) :
    ∀ (t : List (Nat × α)) (lo : Nat), lo ≤ i → (∀ e ∈ t, e.1 ≠ i) → tabOk d lo t = true → tabOk d lo (tins t i v) = true
  | [], lo, hl, _, _ => by simp [tins, tabOk, hl, hv]
  | (k, w) :: t, lo, hl, hk, ht => by
    simp only [tabOk, Bool.and_eq_true, decide_eq_true_eq] at ht
    have hne : k ≠ i := hk _ List.mem_cons_self
    simp only [tins]
    split
    · rename_i h
      have := tabOk_tins d i v hv t (k + 1) (by omega) (fun e he => hk e (List.mem_cons_of_mem _ he)) ht.2
      simpa [tabOk, ht.1.1, ht.1.2] using this
    · simp only [tabOk, Bool.and_eq_true, decide_eq_true_eq]
      exact ⟨⟨hl, hv⟩, ⟨by omega, ht.1.2⟩, ht.2⟩

/-- Every write keeps a table's canonical form. -/
theorem tabOk_tset {α : Type} [DecidableEq α] (d : α) (t : List (Nat × α)) (i : Nat) (v : α) (h : tabOk d 0 t = true) :
    tabOk d 0 (tset d t i v) = true := by
  unfold tset
  split
  · exact tabOk_tdel d i t 0 h
  · exact tabOk_tins d i v ‹_› _ 0 (Nat.zero_le _) (tdel_keys t i) (tabOk_tdel d i t 0 h)

theorem tabOk_filter {α : Type} [DecidableEq α] (d : α) (p : Nat × α → Bool) :
    ∀ (t : List (Nat × α)) (lo : Nat), tabOk d lo t = true → tabOk d lo (t.filter p) = true
  | [], _, _ => rfl
  | (k, v) :: t, lo, ht => by
    simp only [tabOk, Bool.and_eq_true, decide_eq_true_eq] at ht
    have := tabOk_filter d p t (k + 1) ht.2
    simp only [List.filter_cons]
    split
    · simpa [tabOk, ht.1.1, ht.1.2] using this
    · exact tabOk_mono d (by omega) _ this

/-! ### Memory -/

/-- What a byte of memory reads after one byte is written. -/
theorem byte_set (m : List Host.Cell) (a x : Nat) (b : Byte) : Memory.byte (Memory.set m a b) x = if a = x then b else Memory.byte m x :=
  tget_tset memDefault m a x b

/-- What a byte of memory reads after a byte string is written. -/
theorem byte_write (l : List Byte) : ∀ (m : List Host.Cell) (a x : Nat),
    Memory.byte (Memory.write m a l) x = if a ≤ x ∧ x < a + l.length then l.getD (x - a) 0 else Memory.byte m x := by
  induction l with
  | nil =>
    intro m a x
    have h : ¬ (a ≤ x ∧ x < a + ([] : List Byte).length) := by rw [List.length_nil]; omega
    rw [if_neg h]; rfl
  | cons b t ih =>
    intro m a x
    simp only [Memory.write, ih, byte_set, List.length_cons]
    by_cases h1 : a + 1 ≤ x ∧ x < a + 1 + t.length
    · have h2 : a ≤ x ∧ x < a + (t.length + 1) := by omega
      have h3 : x - a = (x - (a + 1)) + 1 := by omega
      rw [if_pos h1, if_pos h2, h3]; rfl
    · rw [if_neg h1]
      by_cases h4 : a = x
      · subst h4
        have h2 : a ≤ a ∧ a < a + (t.length + 1) := by omega
        rw [if_pos rfl, if_pos h2, Nat.sub_self]; rfl
      · have h2 : ¬ (a ≤ x ∧ x < a + (t.length + 1)) := by omega
        rw [if_neg h4, if_neg h2]

/-- A byte written keeps memory's canonical form. -/
theorem wf_set (m : List Host.Cell) (a : Nat) (b : Byte) (h : Memory.wf m = true) : Memory.wf (Memory.set m a b) = true :=
  tabOk_tset memDefault m a b h

/-- A byte string written keeps memory's canonical form. -/
theorem wf_write (l : List Byte) : ∀ (m : List Host.Cell) (a : Nat), Memory.wf m = true → Memory.wf (Memory.write m a l) = true := by
  induction l with
  | nil => intro m a h; exact h
  | cons b t ih => intro m a h; exact ih _ _ (wf_set m a b h)

/-- A cleared range keeps memory's canonical form. -/
theorem wf_zero (m : List Host.Cell) (lo hi : Nat) (h : Memory.wf m = true) : Memory.wf (Memory.zero m lo hi) = true :=
  tabOk_filter memDefault _ m 0 h

theorem tget_tclear {α : Type} (d : α) (lo hi x : Nat) :
    ∀ t : List (Nat × α), tget d (tclear t lo hi) x = if lo ≤ x ∧ x < hi then d else tget d t x
  | [] => by simp [tclear, tget]
  | (k, v) :: t => by
    have ih := tget_tclear d lo hi x t
    simp only [tclear] at ih
    simp only [tclear, List.filter_cons]
    split
    · rename_i hk
      simp only [Bool.or_eq_true, decide_eq_true_eq] at hk
      simp only [tget, ih]
      by_cases h : k = x
      · subst h
        have h2 : ¬ (lo ≤ k ∧ k < hi) := by omega
        simp only [if_true, if_neg h2]
      · simp only [h, if_false]
    · rename_i hk
      simp only [Bool.or_eq_true, decide_eq_true_eq] at hk
      simp only [ih, tget]
      by_cases h : k = x
      · subst h
        have h2 : lo ≤ k ∧ k < hi := by omega
        simp only [if_pos h2]
      · simp only [h, if_false]

/-- What a byte reads after a range is cleared. -/
theorem byte_zero (m : List Host.Cell) (lo hi x : Nat) :
    Memory.byte (Memory.zero m lo hi) x = if lo ≤ x ∧ x < hi then 0 else Memory.byte m x := tget_tclear memDefault lo hi x m

/-- What a byte of the module reads after a write. -/
theorem memByte_memWrite (s : Block) (a x : Nat) (l : List Byte) :
    memByte (memWrite s a l) x = if a ≤ x ∧ x < a + l.length then l.getD (x - a) 0 else memByte s x := byte_write l s.mem a x

end Sys2Proof.Machine
end

