-- ==== Sys2Proof/Laws/Ports.lean ====
section
/-! SUPPORT. What the arbiter and the output ports can do: whom a round can choose, and which parts of the module a packet that leaves
touches. -/

namespace Sys2Proof.Laws

open Sys2Proof Sys2Proof.Machine

/-! ### The arbiter (R335) -/

/-- The least of a list is one of its members, and only the empty list has none. -/
theorem leastOf_spec (l : List Nat) : (leastOf l = none ∧ l = []) ∨ ∃ w, leastOf l = some w ∧ w ∈ l := by
  suffices h : ∀ (l : List Nat) (b : Option Nat),
      l.foldl (fun b w => match b with
        | none => some w
        | some v => some (min v w)) b = none ∧ l = [] ∧ b = none ∨
      ∃ w, l.foldl (fun b w => match b with
        | none => some w
        | some v => some (min v w)) b = some w ∧ (w ∈ l ∨ b = some w) by
    rcases h l none with ⟨h1, h2, _⟩ | ⟨w, h1, h2⟩
    · exact .inl ⟨h1, h2⟩
    · exact .inr ⟨w, h1, by simpa using h2⟩
  intro l
  induction l with
  | nil => intro b; cases b <;> simp
  | cons a l ih =>
    intro b
    right
    rcases ih (match b with
      | none => some a
      | some v => some (min v a)) with ⟨_, _, h2⟩ | ⟨w, h, h2⟩
    · cases b <;> simp at h2
    · refine ⟨w, h, ?_⟩
      rcases h2 with h2 | h2
      · exact .inl (List.mem_cons_of_mem _ h2)
      · cases b with
        | none => simp at h2; simp [h2]
        | some v => simp at h2; rcases min_choice v a with hm | hm <;> rw [hm] at h2 <;> simp [h2]

/-- The highest-ranked of a list is one of its members; it has been granted before only where all of them have. -/
theorem arbFirst_spec (a : Arb) (l : List Nat) :
    (arbFirst a l = none ∧ l = []) ∨ ∃ w, arbFirst a l = some w ∧ w ∈ l ∧ (w ∈ a.last → ∀ v ∈ l, v ∈ a.last) := by
  rcases leastOf_spec (l.filter (fun w => !a.last.contains w)) with ⟨h1, h2⟩ | ⟨w, h1, h2⟩
  · have hall : ∀ v ∈ l, v ∈ a.last := fun v hv => by
      rw [List.filter_eq_nil_iff] at h2; simpa using h2 v hv
    cases hf : a.last.find? (fun w => l.contains w) with
    | none =>
      refine .inl ⟨by simp only [arbFirst, h1, hf], ?_⟩
      rw [List.find?_eq_none] at hf
      cases l with
      | nil => rfl
      | cons v l => exact absurd (by simp) (hf v (hall v (by simp)))
    | some w => exact .inr ⟨w, by simp only [arbFirst, h1, hf], by simpa using List.find?_some hf, fun _ => hall⟩
  · simp at h2
    exact .inr ⟨w, by simp only [arbFirst, h1], h2.1, fun h => absurd h h2.2⟩

/-! ### What a packet that leaves can touch -/

/-- From `s` to `t` nothing has changed but the fabric, the arbiters, the counters, the power of units and what has been sent. -/
def PortFrame (s t : Block) : Prop :=
  t = { s with counters := t.counters, fab := t.fab, arbs := t.arbs, tx := t.tx, power := t.power }

theorem PortFrame.refl (s : Block) : PortFrame s s := rfl

theorem PortFrame.trans {r s t : Block} (h1 : PortFrame r s) (h2 : PortFrame s t) : PortFrame r t := by
  unfold PortFrame at *; rw [h2, h1]

theorem PortFrame.mem {s t : Block} (h : PortFrame s t) : t.mem = s.mem := by rw [h]
theorem PortFrame.od {s t : Block} (h : PortFrame s t) : t.od = s.od := by rw [h]
theorem PortFrame.coh {s t : Block} (h : PortFrame s t) : t.coh = s.coh := by rw [h]
theorem PortFrame.harts {s t : Block} (h : PortFrame s t) : t.harts = s.harts := by rw [h]
theorem PortFrame.cache {s t : Block} (h : PortFrame s t) : t.cache = s.cache := by rw [h]

/-- A change of the module that a fold makes step by step. -/
theorem portFrame_foldl {α : Type} (f : Block → α → Block) (h : ∀ s x, PortFrame s (f s x)) :
    ∀ (l : List α) (s : Block), PortFrame s (l.foldl f s)
  | [], s => .refl s
  | x :: l, s => (h s x).trans (portFrame_foldl f h l (f s x))

theorem counterEvent_frame (s : Block) (u code n k : Nat) : PortFrame s (counterEvent s u code n k) := by
  unfold counterEvent
  dsimp only
  split
  · split
    · rfl
    · split <;> rfl
  · rfl

theorem countEvent_frame (s : Block) (u code n : Nat) : PortFrame s (countEvent s u code n) := by
  unfold countEvent
  split
  · exact .refl s
  · exact portFrame_foldl _ (fun s k => counterEvent_frame s u code n k) _ s

theorem addQuanta_frame (s : Block) (k : Nat) (vs : List Nat) : PortFrame s (addQuanta s k vs) := rfl

theorem arbGrant_frame {s s1 : Block} {p burst starve w : Nat} {any elig : List Nat} {urgent : Nat → Bool}
    (h : arbGrant s p burst starve any elig urgent = some (w, s1)) : PortFrame s s1 := by
  unfold arbGrant at h
  dsimp only at h
  have hround : ∀ r : Option (Nat × Arb), (r.map (fun r => if burst - 1 = 0 then
      (r.1, arbPut s p { r.2 with hold := none, since := tset 0 r.2.since r.1 (s.clk.cycle + 1) })
      else (r.1, arbPut s p { r.2 with hold := some (r.1, burst - 1) }))) = some (w, s1) → PortFrame s s1 := by
    intro r hr
    cases r with
    | none => simp at hr
    | some r => simp only [Option.map_some, Option.some.injEq] at hr; split at hr <;> (cases hr; rfl)
  split at h
  · split at h
    · simp only [Option.some.injEq] at h; split at h <;> (cases h; rfl)
    · exact hround _ h
  · exact hround _ h

theorem sendHead_frame (s : Block) (k v : Nat) : PortFrame s (sendHead s k v) := by
  unfold sendHead
  dsimp only
  split
  · exact .refl s
  · refine PortFrame.trans ?_ (show PortFrame _ (emit _ _) from rfl)
    refine PortFrame.trans ?_ (countEvent_frame _ _ _ _)
    split <;> rfl

theorem pumpPort_frame (k : Nat) : ∀ (fuel : Nat) (s : Block), PortFrame s (pumpPort k fuel s)
  | 0, s => .refl s
  | fuel + 1, s => by
    unfold pumpPort
    dsimp only
    split
    · exact .refl s
    · have hq : ∀ c : Bool, PortFrame s (if c = true then s else addQuanta s k ((List.range 8).filter (vcReady (portAt s k)))) := by
        intro c; cases c <;> rfl
      split
      · exact (hq _).trans (pumpPort_frame k fuel _)
      · rename_i h
        exact ((hq _).trans (arbGrant_frame h)).trans ((sendHead_frame _ _ _).trans (pumpPort_frame k fuel _))

theorem runPort_frame (s : Block) (k : Nat) : PortFrame s (runPort s k) := pumpPort_frame k _ s

/-- A packet that leaves changes the fabric, the arbiters, the counters, the power of its port and what has been sent, and nothing
else. -/
theorem sendPkt_frame (s : Block) (p : Packet) : PortFrame s (sendPkt s p) := by
  unfold sendPkt
  dsimp only
  split
  · refine PortFrame.trans (show PortFrame s (emit s (.pkt p)) from rfl) ?_
    unfold portSend
    dsimp only
    refine PortFrame.trans ?_ (runPort_frame _ _)
    unfold arbRaise
    dsimp only
    split <;> rfl
  · rfl

end Sys2Proof.Laws
end

