-- ==== Sys2Proof/Laws/State.lean ====
section
/-! SUPPORT. What each named update of the module leaves as it was: one lemma per field per update. -/

namespace Sys2Proof.Machine

open Sys2Proof

/-! ### syncPut -/

section
variable (s : Block) (i : Nat) (o : SyncObj)
@[simp] theorem syncPut_clk : (syncPut s i o).clk = s.clk := rfl
@[simp] theorem syncPut_wraps : (syncPut s i o).wraps = s.wraps := rfl
@[simp] theorem syncPut_seqs : (syncPut s i o).seqs = s.seqs := rfl
@[simp] theorem syncPut_tiles : (syncPut s i o).tiles = s.tiles := rfl
@[simp] theorem syncPut_dies : (syncPut s i o).dies = s.dies := rfl
@[simp] theorem syncPut_plumb : (syncPut s i o).plumb = s.plumb := rfl
@[simp] theorem syncPut_harts : (syncPut s i o).harts = s.harts := rfl
@[simp] theorem syncPut_mem : (syncPut s i o).mem = s.mem := rfl
@[simp] theorem syncPut_ecc : (syncPut s i o).ecc = s.ecc := rfl
@[simp] theorem syncPut_hbm : (syncPut s i o).hbm = s.hbm := rfl
@[simp] theorem syncPut_cache : (syncPut s i o).cache = s.cache := rfl
@[simp] theorem syncPut_coh : (syncPut s i o).coh = s.coh := rfl
@[simp] theorem syncPut_own : (syncPut s i o).own = s.own := rfl
@[simp] theorem syncPut_fab : (syncPut s i o).fab = s.fab := rfl
@[simp] theorem syncPut_time : (syncPut s i o).time = s.time := rfl
@[simp] theorem syncPut_barriers : (syncPut s i o).barriers = s.barriers := rfl
@[simp] theorem syncPut_scribe : (syncPut s i o).scribe = s.scribe := rfl
@[simp] theorem syncPut_ledger : (syncPut s i o).ledger = s.ledger := rfl
@[simp] theorem syncPut_truss : (syncPut s i o).truss = s.truss := rfl
@[simp] theorem syncPut_sketch : (syncPut s i o).sketch = s.sketch := rfl
@[simp] theorem syncPut_launch : (syncPut s i o).launch = s.launch := rfl
@[simp] theorem syncPut_od : (syncPut s i o).od = s.od := rfl
@[simp] theorem syncPut_chlog : (syncPut s i o).chlog = s.chlog := rfl
@[simp] theorem syncPut_sess : (syncPut s i o).sess = s.sess := rfl
@[simp] theorem syncPut_flows : (syncPut s i o).flows = s.flows := rfl
@[simp] theorem syncPut_counters : (syncPut s i o).counters = s.counters := rfl
@[simp] theorem syncPut_logs : (syncPut s i o).logs = s.logs := rfl
@[simp] theorem syncPut_power : (syncPut s i o).power = s.power := rfl
@[simp] theorem syncPut_sec : (syncPut s i o).sec = s.sec := rfl
@[simp] theorem syncPut_tx : (syncPut s i o).tx = s.tx := rfl
@[simp] theorem syncPut_free : (syncPut s i o).free = s.free := rfl
end

/-! ### seqPut -/

section
variable (s : Block) (q : Nat) (x : Seq)
@[simp] theorem seqPut_clk : (seqPut s q x).clk = s.clk := rfl
@[simp] theorem seqPut_sync : (seqPut s q x).sync = s.sync := rfl
@[simp] theorem seqPut_wraps : (seqPut s q x).wraps = s.wraps := rfl
@[simp] theorem seqPut_tiles : (seqPut s q x).tiles = s.tiles := rfl
@[simp] theorem seqPut_dies : (seqPut s q x).dies = s.dies := rfl
@[simp] theorem seqPut_plumb : (seqPut s q x).plumb = s.plumb := rfl
@[simp] theorem seqPut_harts : (seqPut s q x).harts = s.harts := rfl
@[simp] theorem seqPut_mem : (seqPut s q x).mem = s.mem := rfl
@[simp] theorem seqPut_ecc : (seqPut s q x).ecc = s.ecc := rfl
@[simp] theorem seqPut_hbm : (seqPut s q x).hbm = s.hbm := rfl
@[simp] theorem seqPut_cache : (seqPut s q x).cache = s.cache := rfl
@[simp] theorem seqPut_coh : (seqPut s q x).coh = s.coh := rfl
@[simp] theorem seqPut_own : (seqPut s q x).own = s.own := rfl
@[simp] theorem seqPut_fab : (seqPut s q x).fab = s.fab := rfl
@[simp] theorem seqPut_time : (seqPut s q x).time = s.time := rfl
@[simp] theorem seqPut_barriers : (seqPut s q x).barriers = s.barriers := rfl
@[simp] theorem seqPut_scribe : (seqPut s q x).scribe = s.scribe := rfl
@[simp] theorem seqPut_ledger : (seqPut s q x).ledger = s.ledger := rfl
@[simp] theorem seqPut_truss : (seqPut s q x).truss = s.truss := rfl
@[simp] theorem seqPut_sketch : (seqPut s q x).sketch = s.sketch := rfl
@[simp] theorem seqPut_launch : (seqPut s q x).launch = s.launch := rfl
@[simp] theorem seqPut_od : (seqPut s q x).od = s.od := rfl
@[simp] theorem seqPut_chlog : (seqPut s q x).chlog = s.chlog := rfl
@[simp] theorem seqPut_sess : (seqPut s q x).sess = s.sess := rfl
@[simp] theorem seqPut_flows : (seqPut s q x).flows = s.flows := rfl
@[simp] theorem seqPut_counters : (seqPut s q x).counters = s.counters := rfl
@[simp] theorem seqPut_logs : (seqPut s q x).logs = s.logs := rfl
@[simp] theorem seqPut_power : (seqPut s q x).power = s.power := rfl
@[simp] theorem seqPut_sec : (seqPut s q x).sec = s.sec := rfl
@[simp] theorem seqPut_tx : (seqPut s q x).tx = s.tx := rfl
@[simp] theorem seqPut_free : (seqPut s q x).free = s.free := rfl
end

/-! ### tilePut -/

section
variable (s : Block) (t : Nat) (x : TileSt)
@[simp] theorem tilePut_clk : (tilePut s t x).clk = s.clk := rfl
@[simp] theorem tilePut_sync : (tilePut s t x).sync = s.sync := rfl
@[simp] theorem tilePut_wraps : (tilePut s t x).wraps = s.wraps := rfl
@[simp] theorem tilePut_seqs : (tilePut s t x).seqs = s.seqs := rfl
@[simp] theorem tilePut_dies : (tilePut s t x).dies = s.dies := rfl
@[simp] theorem tilePut_plumb : (tilePut s t x).plumb = s.plumb := rfl
@[simp] theorem tilePut_harts : (tilePut s t x).harts = s.harts := rfl
@[simp] theorem tilePut_mem : (tilePut s t x).mem = s.mem := rfl
@[simp] theorem tilePut_ecc : (tilePut s t x).ecc = s.ecc := rfl
@[simp] theorem tilePut_hbm : (tilePut s t x).hbm = s.hbm := rfl
@[simp] theorem tilePut_cache : (tilePut s t x).cache = s.cache := rfl
@[simp] theorem tilePut_coh : (tilePut s t x).coh = s.coh := rfl
@[simp] theorem tilePut_own : (tilePut s t x).own = s.own := rfl
@[simp] theorem tilePut_fab : (tilePut s t x).fab = s.fab := rfl
@[simp] theorem tilePut_time : (tilePut s t x).time = s.time := rfl
@[simp] theorem tilePut_barriers : (tilePut s t x).barriers = s.barriers := rfl
@[simp] theorem tilePut_scribe : (tilePut s t x).scribe = s.scribe := rfl
@[simp] theorem tilePut_ledger : (tilePut s t x).ledger = s.ledger := rfl
@[simp] theorem tilePut_truss : (tilePut s t x).truss = s.truss := rfl
@[simp] theorem tilePut_sketch : (tilePut s t x).sketch = s.sketch := rfl
@[simp] theorem tilePut_launch : (tilePut s t x).launch = s.launch := rfl
@[simp] theorem tilePut_od : (tilePut s t x).od = s.od := rfl
@[simp] theorem tilePut_chlog : (tilePut s t x).chlog = s.chlog := rfl
@[simp] theorem tilePut_sess : (tilePut s t x).sess = s.sess := rfl
@[simp] theorem tilePut_flows : (tilePut s t x).flows = s.flows := rfl
@[simp] theorem tilePut_counters : (tilePut s t x).counters = s.counters := rfl
@[simp] theorem tilePut_logs : (tilePut s t x).logs = s.logs := rfl
@[simp] theorem tilePut_power : (tilePut s t x).power = s.power := rfl
@[simp] theorem tilePut_sec : (tilePut s t x).sec = s.sec := rfl
@[simp] theorem tilePut_tx : (tilePut s t x).tx = s.tx := rfl
@[simp] theorem tilePut_free : (tilePut s t x).free = s.free := rfl
end

/-! ### diePut -/

section
variable (s : Block) (d : Nat) (x : DieSt)
@[simp] theorem diePut_clk : (diePut s d x).clk = s.clk := rfl
@[simp] theorem diePut_sync : (diePut s d x).sync = s.sync := rfl
@[simp] theorem diePut_wraps : (diePut s d x).wraps = s.wraps := rfl
@[simp] theorem diePut_seqs : (diePut s d x).seqs = s.seqs := rfl
@[simp] theorem diePut_tiles : (diePut s d x).tiles = s.tiles := rfl
@[simp] theorem diePut_plumb : (diePut s d x).plumb = s.plumb := rfl
@[simp] theorem diePut_harts : (diePut s d x).harts = s.harts := rfl
@[simp] theorem diePut_mem : (diePut s d x).mem = s.mem := rfl
@[simp] theorem diePut_ecc : (diePut s d x).ecc = s.ecc := rfl
@[simp] theorem diePut_hbm : (diePut s d x).hbm = s.hbm := rfl
@[simp] theorem diePut_cache : (diePut s d x).cache = s.cache := rfl
@[simp] theorem diePut_coh : (diePut s d x).coh = s.coh := rfl
@[simp] theorem diePut_own : (diePut s d x).own = s.own := rfl
@[simp] theorem diePut_fab : (diePut s d x).fab = s.fab := rfl
@[simp] theorem diePut_time : (diePut s d x).time = s.time := rfl
@[simp] theorem diePut_barriers : (diePut s d x).barriers = s.barriers := rfl
@[simp] theorem diePut_scribe : (diePut s d x).scribe = s.scribe := rfl
@[simp] theorem diePut_ledger : (diePut s d x).ledger = s.ledger := rfl
@[simp] theorem diePut_truss : (diePut s d x).truss = s.truss := rfl
@[simp] theorem diePut_sketch : (diePut s d x).sketch = s.sketch := rfl
@[simp] theorem diePut_launch : (diePut s d x).launch = s.launch := rfl
@[simp] theorem diePut_od : (diePut s d x).od = s.od := rfl
@[simp] theorem diePut_chlog : (diePut s d x).chlog = s.chlog := rfl
@[simp] theorem diePut_sess : (diePut s d x).sess = s.sess := rfl
@[simp] theorem diePut_flows : (diePut s d x).flows = s.flows := rfl
@[simp] theorem diePut_counters : (diePut s d x).counters = s.counters := rfl
@[simp] theorem diePut_logs : (diePut s d x).logs = s.logs := rfl
@[simp] theorem diePut_power : (diePut s d x).power = s.power := rfl
@[simp] theorem diePut_sec : (diePut s d x).sec = s.sec := rfl
@[simp] theorem diePut_tx : (diePut s d x).tx = s.tx := rfl
@[simp] theorem diePut_free : (diePut s d x).free = s.free := rfl
end

/-! ### solvePut -/

section
variable (s : Block) (g : Nat) (v : Option SolveSt)
@[simp] theorem solvePut_clk : (solvePut s g v).clk = s.clk := by cases v <;> rfl
@[simp] theorem solvePut_sync : (solvePut s g v).sync = s.sync := by cases v <;> rfl
@[simp] theorem solvePut_wraps : (solvePut s g v).wraps = s.wraps := by cases v <;> rfl
@[simp] theorem solvePut_seqs : (solvePut s g v).seqs = s.seqs := by cases v <;> rfl
@[simp] theorem solvePut_tiles : (solvePut s g v).tiles = s.tiles := by cases v <;> rfl
@[simp] theorem solvePut_dies : (solvePut s g v).dies = s.dies := by cases v <;> rfl
@[simp] theorem solvePut_harts : (solvePut s g v).harts = s.harts := by cases v <;> rfl
@[simp] theorem solvePut_mem : (solvePut s g v).mem = s.mem := by cases v <;> rfl
@[simp] theorem solvePut_ecc : (solvePut s g v).ecc = s.ecc := by cases v <;> rfl
@[simp] theorem solvePut_hbm : (solvePut s g v).hbm = s.hbm := by cases v <;> rfl
@[simp] theorem solvePut_cache : (solvePut s g v).cache = s.cache := by cases v <;> rfl
@[simp] theorem solvePut_coh : (solvePut s g v).coh = s.coh := by cases v <;> rfl
@[simp] theorem solvePut_own : (solvePut s g v).own = s.own := by cases v <;> rfl
@[simp] theorem solvePut_fab : (solvePut s g v).fab = s.fab := by cases v <;> rfl
@[simp] theorem solvePut_time : (solvePut s g v).time = s.time := by cases v <;> rfl
@[simp] theorem solvePut_barriers : (solvePut s g v).barriers = s.barriers := by cases v <;> rfl
@[simp] theorem solvePut_scribe : (solvePut s g v).scribe = s.scribe := by cases v <;> rfl
@[simp] theorem solvePut_ledger : (solvePut s g v).ledger = s.ledger := by cases v <;> rfl
@[simp] theorem solvePut_truss : (solvePut s g v).truss = s.truss := by cases v <;> rfl
@[simp] theorem solvePut_sketch : (solvePut s g v).sketch = s.sketch := by cases v <;> rfl
@[simp] theorem solvePut_launch : (solvePut s g v).launch = s.launch := by cases v <;> rfl
@[simp] theorem solvePut_od : (solvePut s g v).od = s.od := by cases v <;> rfl
@[simp] theorem solvePut_chlog : (solvePut s g v).chlog = s.chlog := by cases v <;> rfl
@[simp] theorem solvePut_sess : (solvePut s g v).sess = s.sess := by cases v <;> rfl
@[simp] theorem solvePut_flows : (solvePut s g v).flows = s.flows := by cases v <;> rfl
@[simp] theorem solvePut_counters : (solvePut s g v).counters = s.counters := by cases v <;> rfl
@[simp] theorem solvePut_logs : (solvePut s g v).logs = s.logs := by cases v <;> rfl
@[simp] theorem solvePut_power : (solvePut s g v).power = s.power := by cases v <;> rfl
@[simp] theorem solvePut_sec : (solvePut s g v).sec = s.sec := by cases v <;> rfl
@[simp] theorem solvePut_tx : (solvePut s g v).tx = s.tx := by cases v <;> rfl
@[simp] theorem solvePut_free : (solvePut s g v).free = s.free := by cases v <;> rfl
end

/-! ### hartPut -/

section
variable (s : Block) (h : Nat) (x : Hart)
@[simp] theorem hartPut_clk : (hartPut s h x).clk = s.clk := rfl
@[simp] theorem hartPut_sync : (hartPut s h x).sync = s.sync := rfl
@[simp] theorem hartPut_wraps : (hartPut s h x).wraps = s.wraps := rfl
@[simp] theorem hartPut_seqs : (hartPut s h x).seqs = s.seqs := rfl
@[simp] theorem hartPut_tiles : (hartPut s h x).tiles = s.tiles := rfl
@[simp] theorem hartPut_dies : (hartPut s h x).dies = s.dies := rfl
@[simp] theorem hartPut_plumb : (hartPut s h x).plumb = s.plumb := rfl
@[simp] theorem hartPut_mem : (hartPut s h x).mem = s.mem := rfl
@[simp] theorem hartPut_ecc : (hartPut s h x).ecc = s.ecc := rfl
@[simp] theorem hartPut_hbm : (hartPut s h x).hbm = s.hbm := rfl
@[simp] theorem hartPut_cache : (hartPut s h x).cache = s.cache := rfl
@[simp] theorem hartPut_coh : (hartPut s h x).coh = s.coh := rfl
@[simp] theorem hartPut_own : (hartPut s h x).own = s.own := rfl
@[simp] theorem hartPut_fab : (hartPut s h x).fab = s.fab := rfl
@[simp] theorem hartPut_time : (hartPut s h x).time = s.time := rfl
@[simp] theorem hartPut_barriers : (hartPut s h x).barriers = s.barriers := rfl
@[simp] theorem hartPut_scribe : (hartPut s h x).scribe = s.scribe := rfl
@[simp] theorem hartPut_ledger : (hartPut s h x).ledger = s.ledger := rfl
@[simp] theorem hartPut_truss : (hartPut s h x).truss = s.truss := rfl
@[simp] theorem hartPut_sketch : (hartPut s h x).sketch = s.sketch := rfl
@[simp] theorem hartPut_launch : (hartPut s h x).launch = s.launch := rfl
@[simp] theorem hartPut_od : (hartPut s h x).od = s.od := rfl
@[simp] theorem hartPut_chlog : (hartPut s h x).chlog = s.chlog := rfl
@[simp] theorem hartPut_sess : (hartPut s h x).sess = s.sess := rfl
@[simp] theorem hartPut_flows : (hartPut s h x).flows = s.flows := rfl
@[simp] theorem hartPut_counters : (hartPut s h x).counters = s.counters := rfl
@[simp] theorem hartPut_logs : (hartPut s h x).logs = s.logs := rfl
@[simp] theorem hartPut_power : (hartPut s h x).power = s.power := rfl
@[simp] theorem hartPut_sec : (hartPut s h x).sec = s.sec := rfl
@[simp] theorem hartPut_tx : (hartPut s h x).tx = s.tx := rfl
@[simp] theorem hartPut_free : (hartPut s h x).free = s.free := rfl
end

/-! ### memWrite -/

section
variable (s : Block) (a : Nat) (l : List Byte)
@[simp] theorem memWrite_clk : (memWrite s a l).clk = s.clk := rfl
@[simp] theorem memWrite_sync : (memWrite s a l).sync = s.sync := rfl
@[simp] theorem memWrite_wraps : (memWrite s a l).wraps = s.wraps := rfl
@[simp] theorem memWrite_seqs : (memWrite s a l).seqs = s.seqs := rfl
@[simp] theorem memWrite_tiles : (memWrite s a l).tiles = s.tiles := rfl
@[simp] theorem memWrite_dies : (memWrite s a l).dies = s.dies := rfl
@[simp] theorem memWrite_plumb : (memWrite s a l).plumb = s.plumb := rfl
@[simp] theorem memWrite_harts : (memWrite s a l).harts = s.harts := rfl
@[simp] theorem memWrite_ecc : (memWrite s a l).ecc = s.ecc := rfl
@[simp] theorem memWrite_hbm : (memWrite s a l).hbm = s.hbm := rfl
@[simp] theorem memWrite_cache : (memWrite s a l).cache = s.cache := rfl
@[simp] theorem memWrite_coh : (memWrite s a l).coh = s.coh := rfl
@[simp] theorem memWrite_own : (memWrite s a l).own = s.own := rfl
@[simp] theorem memWrite_fab : (memWrite s a l).fab = s.fab := rfl
@[simp] theorem memWrite_time : (memWrite s a l).time = s.time := rfl
@[simp] theorem memWrite_barriers : (memWrite s a l).barriers = s.barriers := rfl
@[simp] theorem memWrite_scribe : (memWrite s a l).scribe = s.scribe := rfl
@[simp] theorem memWrite_ledger : (memWrite s a l).ledger = s.ledger := rfl
@[simp] theorem memWrite_truss : (memWrite s a l).truss = s.truss := rfl
@[simp] theorem memWrite_sketch : (memWrite s a l).sketch = s.sketch := rfl
@[simp] theorem memWrite_launch : (memWrite s a l).launch = s.launch := rfl
@[simp] theorem memWrite_od : (memWrite s a l).od = s.od := rfl
@[simp] theorem memWrite_chlog : (memWrite s a l).chlog = s.chlog := rfl
@[simp] theorem memWrite_sess : (memWrite s a l).sess = s.sess := rfl
@[simp] theorem memWrite_flows : (memWrite s a l).flows = s.flows := rfl
@[simp] theorem memWrite_counters : (memWrite s a l).counters = s.counters := rfl
@[simp] theorem memWrite_logs : (memWrite s a l).logs = s.logs := rfl
@[simp] theorem memWrite_power : (memWrite s a l).power = s.power := rfl
@[simp] theorem memWrite_sec : (memWrite s a l).sec = s.sec := rfl
@[simp] theorem memWrite_tx : (memWrite s a l).tx = s.tx := rfl
@[simp] theorem memWrite_free : (memWrite s a l).free = s.free := rfl
end

/-! ### memZero -/

section
variable (s : Block) (lo hi : Nat)
@[simp] theorem memZero_clk : (memZero s lo hi).clk = s.clk := rfl
@[simp] theorem memZero_sync : (memZero s lo hi).sync = s.sync := rfl
@[simp] theorem memZero_wraps : (memZero s lo hi).wraps = s.wraps := rfl
@[simp] theorem memZero_seqs : (memZero s lo hi).seqs = s.seqs := rfl
@[simp] theorem memZero_tiles : (memZero s lo hi).tiles = s.tiles := rfl
@[simp] theorem memZero_dies : (memZero s lo hi).dies = s.dies := rfl
@[simp] theorem memZero_plumb : (memZero s lo hi).plumb = s.plumb := rfl
@[simp] theorem memZero_harts : (memZero s lo hi).harts = s.harts := rfl
@[simp] theorem memZero_ecc : (memZero s lo hi).ecc = s.ecc := rfl
@[simp] theorem memZero_hbm : (memZero s lo hi).hbm = s.hbm := rfl
@[simp] theorem memZero_cache : (memZero s lo hi).cache = s.cache := rfl
@[simp] theorem memZero_coh : (memZero s lo hi).coh = s.coh := rfl
@[simp] theorem memZero_own : (memZero s lo hi).own = s.own := rfl
@[simp] theorem memZero_fab : (memZero s lo hi).fab = s.fab := rfl
@[simp] theorem memZero_time : (memZero s lo hi).time = s.time := rfl
@[simp] theorem memZero_barriers : (memZero s lo hi).barriers = s.barriers := rfl
@[simp] theorem memZero_scribe : (memZero s lo hi).scribe = s.scribe := rfl
@[simp] theorem memZero_ledger : (memZero s lo hi).ledger = s.ledger := rfl
@[simp] theorem memZero_truss : (memZero s lo hi).truss = s.truss := rfl
@[simp] theorem memZero_sketch : (memZero s lo hi).sketch = s.sketch := rfl
@[simp] theorem memZero_launch : (memZero s lo hi).launch = s.launch := rfl
@[simp] theorem memZero_od : (memZero s lo hi).od = s.od := rfl
@[simp] theorem memZero_chlog : (memZero s lo hi).chlog = s.chlog := rfl
@[simp] theorem memZero_sess : (memZero s lo hi).sess = s.sess := rfl
@[simp] theorem memZero_flows : (memZero s lo hi).flows = s.flows := rfl
@[simp] theorem memZero_counters : (memZero s lo hi).counters = s.counters := rfl
@[simp] theorem memZero_logs : (memZero s lo hi).logs = s.logs := rfl
@[simp] theorem memZero_power : (memZero s lo hi).power = s.power := rfl
@[simp] theorem memZero_sec : (memZero s lo hi).sec = s.sec := rfl
@[simp] theorem memZero_tx : (memZero s lo hi).tx = s.tx := rfl
@[simp] theorem memZero_free : (memZero s lo hi).free = s.free := rfl
end

/-! ### stackPut -/

section
variable (s : Block) (k : Nat) (x : StackSt)
@[simp] theorem stackPut_clk : (stackPut s k x).clk = s.clk := rfl
@[simp] theorem stackPut_sync : (stackPut s k x).sync = s.sync := rfl
@[simp] theorem stackPut_wraps : (stackPut s k x).wraps = s.wraps := rfl
@[simp] theorem stackPut_seqs : (stackPut s k x).seqs = s.seqs := rfl
@[simp] theorem stackPut_tiles : (stackPut s k x).tiles = s.tiles := rfl
@[simp] theorem stackPut_dies : (stackPut s k x).dies = s.dies := rfl
@[simp] theorem stackPut_plumb : (stackPut s k x).plumb = s.plumb := rfl
@[simp] theorem stackPut_harts : (stackPut s k x).harts = s.harts := rfl
@[simp] theorem stackPut_mem : (stackPut s k x).mem = s.mem := rfl
@[simp] theorem stackPut_ecc : (stackPut s k x).ecc = s.ecc := rfl
@[simp] theorem stackPut_cache : (stackPut s k x).cache = s.cache := rfl
@[simp] theorem stackPut_coh : (stackPut s k x).coh = s.coh := rfl
@[simp] theorem stackPut_own : (stackPut s k x).own = s.own := rfl
@[simp] theorem stackPut_fab : (stackPut s k x).fab = s.fab := rfl
@[simp] theorem stackPut_time : (stackPut s k x).time = s.time := rfl
@[simp] theorem stackPut_barriers : (stackPut s k x).barriers = s.barriers := rfl
@[simp] theorem stackPut_scribe : (stackPut s k x).scribe = s.scribe := rfl
@[simp] theorem stackPut_ledger : (stackPut s k x).ledger = s.ledger := rfl
@[simp] theorem stackPut_truss : (stackPut s k x).truss = s.truss := rfl
@[simp] theorem stackPut_sketch : (stackPut s k x).sketch = s.sketch := rfl
@[simp] theorem stackPut_launch : (stackPut s k x).launch = s.launch := rfl
@[simp] theorem stackPut_od : (stackPut s k x).od = s.od := rfl
@[simp] theorem stackPut_chlog : (stackPut s k x).chlog = s.chlog := rfl
@[simp] theorem stackPut_sess : (stackPut s k x).sess = s.sess := rfl
@[simp] theorem stackPut_flows : (stackPut s k x).flows = s.flows := rfl
@[simp] theorem stackPut_counters : (stackPut s k x).counters = s.counters := rfl
@[simp] theorem stackPut_logs : (stackPut s k x).logs = s.logs := rfl
@[simp] theorem stackPut_power : (stackPut s k x).power = s.power := rfl
@[simp] theorem stackPut_sec : (stackPut s k x).sec = s.sec := rfl
@[simp] theorem stackPut_tx : (stackPut s k x).tx = s.tx := rfl
@[simp] theorem stackPut_free : (stackPut s k x).free = s.free := rfl
end

/-! ### dirPut -/

section
variable (s : Block) (l : Nat) (d : DirEnt)
@[simp] theorem dirPut_clk : (dirPut s l d).clk = s.clk := rfl
@[simp] theorem dirPut_sync : (dirPut s l d).sync = s.sync := rfl
@[simp] theorem dirPut_wraps : (dirPut s l d).wraps = s.wraps := rfl
@[simp] theorem dirPut_seqs : (dirPut s l d).seqs = s.seqs := rfl
@[simp] theorem dirPut_tiles : (dirPut s l d).tiles = s.tiles := rfl
@[simp] theorem dirPut_dies : (dirPut s l d).dies = s.dies := rfl
@[simp] theorem dirPut_plumb : (dirPut s l d).plumb = s.plumb := rfl
@[simp] theorem dirPut_harts : (dirPut s l d).harts = s.harts := rfl
@[simp] theorem dirPut_mem : (dirPut s l d).mem = s.mem := rfl
@[simp] theorem dirPut_ecc : (dirPut s l d).ecc = s.ecc := rfl
@[simp] theorem dirPut_hbm : (dirPut s l d).hbm = s.hbm := rfl
@[simp] theorem dirPut_cache : (dirPut s l d).cache = s.cache := rfl
@[simp] theorem dirPut_own : (dirPut s l d).own = s.own := rfl
@[simp] theorem dirPut_fab : (dirPut s l d).fab = s.fab := rfl
@[simp] theorem dirPut_time : (dirPut s l d).time = s.time := rfl
@[simp] theorem dirPut_barriers : (dirPut s l d).barriers = s.barriers := rfl
@[simp] theorem dirPut_scribe : (dirPut s l d).scribe = s.scribe := rfl
@[simp] theorem dirPut_ledger : (dirPut s l d).ledger = s.ledger := rfl
@[simp] theorem dirPut_truss : (dirPut s l d).truss = s.truss := rfl
@[simp] theorem dirPut_sketch : (dirPut s l d).sketch = s.sketch := rfl
@[simp] theorem dirPut_launch : (dirPut s l d).launch = s.launch := rfl
@[simp] theorem dirPut_od : (dirPut s l d).od = s.od := rfl
@[simp] theorem dirPut_chlog : (dirPut s l d).chlog = s.chlog := rfl
@[simp] theorem dirPut_sess : (dirPut s l d).sess = s.sess := rfl
@[simp] theorem dirPut_flows : (dirPut s l d).flows = s.flows := rfl
@[simp] theorem dirPut_counters : (dirPut s l d).counters = s.counters := rfl
@[simp] theorem dirPut_logs : (dirPut s l d).logs = s.logs := rfl
@[simp] theorem dirPut_power : (dirPut s l d).power = s.power := rfl
@[simp] theorem dirPut_sec : (dirPut s l d).sec = s.sec := rfl
@[simp] theorem dirPut_tx : (dirPut s l d).tx = s.tx := rfl
@[simp] theorem dirPut_free : (dirPut s l d).free = s.free := rfl
end

/-! ### heldPut -/

section
variable (s : Block) (l c : Nat) (x : HeldLine)
@[simp] theorem heldPut_clk : (heldPut s l c x).clk = s.clk := rfl
@[simp] theorem heldPut_sync : (heldPut s l c x).sync = s.sync := rfl
@[simp] theorem heldPut_wraps : (heldPut s l c x).wraps = s.wraps := rfl
@[simp] theorem heldPut_seqs : (heldPut s l c x).seqs = s.seqs := rfl
@[simp] theorem heldPut_tiles : (heldPut s l c x).tiles = s.tiles := rfl
@[simp] theorem heldPut_dies : (heldPut s l c x).dies = s.dies := rfl
@[simp] theorem heldPut_plumb : (heldPut s l c x).plumb = s.plumb := rfl
@[simp] theorem heldPut_harts : (heldPut s l c x).harts = s.harts := rfl
@[simp] theorem heldPut_mem : (heldPut s l c x).mem = s.mem := rfl
@[simp] theorem heldPut_ecc : (heldPut s l c x).ecc = s.ecc := rfl
@[simp] theorem heldPut_hbm : (heldPut s l c x).hbm = s.hbm := rfl
@[simp] theorem heldPut_cache : (heldPut s l c x).cache = s.cache := rfl
@[simp] theorem heldPut_own : (heldPut s l c x).own = s.own := rfl
@[simp] theorem heldPut_fab : (heldPut s l c x).fab = s.fab := rfl
@[simp] theorem heldPut_time : (heldPut s l c x).time = s.time := rfl
@[simp] theorem heldPut_barriers : (heldPut s l c x).barriers = s.barriers := rfl
@[simp] theorem heldPut_scribe : (heldPut s l c x).scribe = s.scribe := rfl
@[simp] theorem heldPut_ledger : (heldPut s l c x).ledger = s.ledger := rfl
@[simp] theorem heldPut_truss : (heldPut s l c x).truss = s.truss := rfl
@[simp] theorem heldPut_sketch : (heldPut s l c x).sketch = s.sketch := rfl
@[simp] theorem heldPut_launch : (heldPut s l c x).launch = s.launch := rfl
@[simp] theorem heldPut_od : (heldPut s l c x).od = s.od := rfl
@[simp] theorem heldPut_chlog : (heldPut s l c x).chlog = s.chlog := rfl
@[simp] theorem heldPut_sess : (heldPut s l c x).sess = s.sess := rfl
@[simp] theorem heldPut_flows : (heldPut s l c x).flows = s.flows := rfl
@[simp] theorem heldPut_counters : (heldPut s l c x).counters = s.counters := rfl
@[simp] theorem heldPut_logs : (heldPut s l c x).logs = s.logs := rfl
@[simp] theorem heldPut_power : (heldPut s l c x).power = s.power := rfl
@[simp] theorem heldPut_sec : (heldPut s l c x).sec = s.sec := rfl
@[simp] theorem heldPut_tx : (heldPut s l c x).tx = s.tx := rfl
@[simp] theorem heldPut_free : (heldPut s l c x).free = s.free := rfl
end

/-! ### waitingPut -/

section
variable (s : Block) (l : Nat) (x : List HomeReq)
@[simp] theorem waitingPut_clk : (waitingPut s l x).clk = s.clk := rfl
@[simp] theorem waitingPut_sync : (waitingPut s l x).sync = s.sync := rfl
@[simp] theorem waitingPut_wraps : (waitingPut s l x).wraps = s.wraps := rfl
@[simp] theorem waitingPut_seqs : (waitingPut s l x).seqs = s.seqs := rfl
@[simp] theorem waitingPut_tiles : (waitingPut s l x).tiles = s.tiles := rfl
@[simp] theorem waitingPut_dies : (waitingPut s l x).dies = s.dies := rfl
@[simp] theorem waitingPut_plumb : (waitingPut s l x).plumb = s.plumb := rfl
@[simp] theorem waitingPut_harts : (waitingPut s l x).harts = s.harts := rfl
@[simp] theorem waitingPut_mem : (waitingPut s l x).mem = s.mem := rfl
@[simp] theorem waitingPut_ecc : (waitingPut s l x).ecc = s.ecc := rfl
@[simp] theorem waitingPut_hbm : (waitingPut s l x).hbm = s.hbm := rfl
@[simp] theorem waitingPut_cache : (waitingPut s l x).cache = s.cache := rfl
@[simp] theorem waitingPut_own : (waitingPut s l x).own = s.own := rfl
@[simp] theorem waitingPut_fab : (waitingPut s l x).fab = s.fab := rfl
@[simp] theorem waitingPut_time : (waitingPut s l x).time = s.time := rfl
@[simp] theorem waitingPut_barriers : (waitingPut s l x).barriers = s.barriers := rfl
@[simp] theorem waitingPut_scribe : (waitingPut s l x).scribe = s.scribe := rfl
@[simp] theorem waitingPut_ledger : (waitingPut s l x).ledger = s.ledger := rfl
@[simp] theorem waitingPut_truss : (waitingPut s l x).truss = s.truss := rfl
@[simp] theorem waitingPut_sketch : (waitingPut s l x).sketch = s.sketch := rfl
@[simp] theorem waitingPut_launch : (waitingPut s l x).launch = s.launch := rfl
@[simp] theorem waitingPut_od : (waitingPut s l x).od = s.od := rfl
@[simp] theorem waitingPut_chlog : (waitingPut s l x).chlog = s.chlog := rfl
@[simp] theorem waitingPut_sess : (waitingPut s l x).sess = s.sess := rfl
@[simp] theorem waitingPut_flows : (waitingPut s l x).flows = s.flows := rfl
@[simp] theorem waitingPut_counters : (waitingPut s l x).counters = s.counters := rfl
@[simp] theorem waitingPut_logs : (waitingPut s l x).logs = s.logs := rfl
@[simp] theorem waitingPut_power : (waitingPut s l x).power = s.power := rfl
@[simp] theorem waitingPut_sec : (waitingPut s l x).sec = s.sec := rfl
@[simp] theorem waitingPut_tx : (waitingPut s l x).tx = s.tx := rfl
@[simp] theorem waitingPut_free : (waitingPut s l x).free = s.free := rfl
end

/-! ### planePut -/

section
variable (s : Block) (k : Nat) (p : Plane)
@[simp] theorem planePut_clk : (planePut s k p).clk = s.clk := rfl
@[simp] theorem planePut_sync : (planePut s k p).sync = s.sync := rfl
@[simp] theorem planePut_wraps : (planePut s k p).wraps = s.wraps := rfl
@[simp] theorem planePut_seqs : (planePut s k p).seqs = s.seqs := rfl
@[simp] theorem planePut_tiles : (planePut s k p).tiles = s.tiles := rfl
@[simp] theorem planePut_dies : (planePut s k p).dies = s.dies := rfl
@[simp] theorem planePut_plumb : (planePut s k p).plumb = s.plumb := rfl
@[simp] theorem planePut_harts : (planePut s k p).harts = s.harts := rfl
@[simp] theorem planePut_mem : (planePut s k p).mem = s.mem := rfl
@[simp] theorem planePut_ecc : (planePut s k p).ecc = s.ecc := rfl
@[simp] theorem planePut_hbm : (planePut s k p).hbm = s.hbm := rfl
@[simp] theorem planePut_cache : (planePut s k p).cache = s.cache := rfl
@[simp] theorem planePut_coh : (planePut s k p).coh = s.coh := rfl
@[simp] theorem planePut_own : (planePut s k p).own = s.own := rfl
@[simp] theorem planePut_time : (planePut s k p).time = s.time := rfl
@[simp] theorem planePut_barriers : (planePut s k p).barriers = s.barriers := rfl
@[simp] theorem planePut_scribe : (planePut s k p).scribe = s.scribe := rfl
@[simp] theorem planePut_ledger : (planePut s k p).ledger = s.ledger := rfl
@[simp] theorem planePut_truss : (planePut s k p).truss = s.truss := rfl
@[simp] theorem planePut_sketch : (planePut s k p).sketch = s.sketch := rfl
@[simp] theorem planePut_launch : (planePut s k p).launch = s.launch := rfl
@[simp] theorem planePut_od : (planePut s k p).od = s.od := rfl
@[simp] theorem planePut_chlog : (planePut s k p).chlog = s.chlog := rfl
@[simp] theorem planePut_sess : (planePut s k p).sess = s.sess := rfl
@[simp] theorem planePut_flows : (planePut s k p).flows = s.flows := rfl
@[simp] theorem planePut_counters : (planePut s k p).counters = s.counters := rfl
@[simp] theorem planePut_logs : (planePut s k p).logs = s.logs := rfl
@[simp] theorem planePut_power : (planePut s k p).power = s.power := rfl
@[simp] theorem planePut_sec : (planePut s k p).sec = s.sec := rfl
@[simp] theorem planePut_tx : (planePut s k p).tx = s.tx := rfl
@[simp] theorem planePut_free : (planePut s k p).free = s.free := rfl
end

/-! ### portPut -/

section
variable (s : Block) (k : Nat) (p : Port)
@[simp] theorem portPut_clk : (portPut s k p).clk = s.clk := rfl
@[simp] theorem portPut_sync : (portPut s k p).sync = s.sync := rfl
@[simp] theorem portPut_wraps : (portPut s k p).wraps = s.wraps := rfl
@[simp] theorem portPut_seqs : (portPut s k p).seqs = s.seqs := rfl
@[simp] theorem portPut_tiles : (portPut s k p).tiles = s.tiles := rfl
@[simp] theorem portPut_dies : (portPut s k p).dies = s.dies := rfl
@[simp] theorem portPut_plumb : (portPut s k p).plumb = s.plumb := rfl
@[simp] theorem portPut_harts : (portPut s k p).harts = s.harts := rfl
@[simp] theorem portPut_mem : (portPut s k p).mem = s.mem := rfl
@[simp] theorem portPut_ecc : (portPut s k p).ecc = s.ecc := rfl
@[simp] theorem portPut_hbm : (portPut s k p).hbm = s.hbm := rfl
@[simp] theorem portPut_cache : (portPut s k p).cache = s.cache := rfl
@[simp] theorem portPut_coh : (portPut s k p).coh = s.coh := rfl
@[simp] theorem portPut_own : (portPut s k p).own = s.own := rfl
@[simp] theorem portPut_time : (portPut s k p).time = s.time := rfl
@[simp] theorem portPut_barriers : (portPut s k p).barriers = s.barriers := rfl
@[simp] theorem portPut_scribe : (portPut s k p).scribe = s.scribe := rfl
@[simp] theorem portPut_ledger : (portPut s k p).ledger = s.ledger := rfl
@[simp] theorem portPut_truss : (portPut s k p).truss = s.truss := rfl
@[simp] theorem portPut_sketch : (portPut s k p).sketch = s.sketch := rfl
@[simp] theorem portPut_launch : (portPut s k p).launch = s.launch := rfl
@[simp] theorem portPut_od : (portPut s k p).od = s.od := rfl
@[simp] theorem portPut_chlog : (portPut s k p).chlog = s.chlog := rfl
@[simp] theorem portPut_sess : (portPut s k p).sess = s.sess := rfl
@[simp] theorem portPut_flows : (portPut s k p).flows = s.flows := rfl
@[simp] theorem portPut_counters : (portPut s k p).counters = s.counters := rfl
@[simp] theorem portPut_logs : (portPut s k p).logs = s.logs := rfl
@[simp] theorem portPut_power : (portPut s k p).power = s.power := rfl
@[simp] theorem portPut_sec : (portPut s k p).sec = s.sec := rfl
@[simp] theorem portPut_tx : (portPut s k p).tx = s.tx := rfl
@[simp] theorem portPut_free : (portPut s k p).free = s.free := rfl
end

/-! ### barrierPut -/

section
variable (s : Block) (b : Nat) (x : BarrierSt)
@[simp] theorem barrierPut_clk : (barrierPut s b x).clk = s.clk := rfl
@[simp] theorem barrierPut_sync : (barrierPut s b x).sync = s.sync := rfl
@[simp] theorem barrierPut_wraps : (barrierPut s b x).wraps = s.wraps := rfl
@[simp] theorem barrierPut_seqs : (barrierPut s b x).seqs = s.seqs := rfl
@[simp] theorem barrierPut_tiles : (barrierPut s b x).tiles = s.tiles := rfl
@[simp] theorem barrierPut_dies : (barrierPut s b x).dies = s.dies := rfl
@[simp] theorem barrierPut_plumb : (barrierPut s b x).plumb = s.plumb := rfl
@[simp] theorem barrierPut_harts : (barrierPut s b x).harts = s.harts := rfl
@[simp] theorem barrierPut_mem : (barrierPut s b x).mem = s.mem := rfl
@[simp] theorem barrierPut_ecc : (barrierPut s b x).ecc = s.ecc := rfl
@[simp] theorem barrierPut_hbm : (barrierPut s b x).hbm = s.hbm := rfl
@[simp] theorem barrierPut_cache : (barrierPut s b x).cache = s.cache := rfl
@[simp] theorem barrierPut_coh : (barrierPut s b x).coh = s.coh := rfl
@[simp] theorem barrierPut_own : (barrierPut s b x).own = s.own := rfl
@[simp] theorem barrierPut_fab : (barrierPut s b x).fab = s.fab := rfl
@[simp] theorem barrierPut_time : (barrierPut s b x).time = s.time := rfl
@[simp] theorem barrierPut_scribe : (barrierPut s b x).scribe = s.scribe := rfl
@[simp] theorem barrierPut_ledger : (barrierPut s b x).ledger = s.ledger := rfl
@[simp] theorem barrierPut_truss : (barrierPut s b x).truss = s.truss := rfl
@[simp] theorem barrierPut_sketch : (barrierPut s b x).sketch = s.sketch := rfl
@[simp] theorem barrierPut_launch : (barrierPut s b x).launch = s.launch := rfl
@[simp] theorem barrierPut_od : (barrierPut s b x).od = s.od := rfl
@[simp] theorem barrierPut_chlog : (barrierPut s b x).chlog = s.chlog := rfl
@[simp] theorem barrierPut_sess : (barrierPut s b x).sess = s.sess := rfl
@[simp] theorem barrierPut_flows : (barrierPut s b x).flows = s.flows := rfl
@[simp] theorem barrierPut_counters : (barrierPut s b x).counters = s.counters := rfl
@[simp] theorem barrierPut_logs : (barrierPut s b x).logs = s.logs := rfl
@[simp] theorem barrierPut_power : (barrierPut s b x).power = s.power := rfl
@[simp] theorem barrierPut_sec : (barrierPut s b x).sec = s.sec := rfl
@[simp] theorem barrierPut_tx : (barrierPut s b x).tx = s.tx := rfl
@[simp] theorem barrierPut_free : (barrierPut s b x).free = s.free := rfl
end

/-! ### groupPut -/

section
variable (s : Block) (i : Nat) (g : Group)
@[simp] theorem groupPut_clk : (groupPut s i g).clk = s.clk := rfl
@[simp] theorem groupPut_sync : (groupPut s i g).sync = s.sync := rfl
@[simp] theorem groupPut_wraps : (groupPut s i g).wraps = s.wraps := rfl
@[simp] theorem groupPut_seqs : (groupPut s i g).seqs = s.seqs := rfl
@[simp] theorem groupPut_tiles : (groupPut s i g).tiles = s.tiles := rfl
@[simp] theorem groupPut_dies : (groupPut s i g).dies = s.dies := rfl
@[simp] theorem groupPut_plumb : (groupPut s i g).plumb = s.plumb := rfl
@[simp] theorem groupPut_harts : (groupPut s i g).harts = s.harts := rfl
@[simp] theorem groupPut_mem : (groupPut s i g).mem = s.mem := rfl
@[simp] theorem groupPut_ecc : (groupPut s i g).ecc = s.ecc := rfl
@[simp] theorem groupPut_hbm : (groupPut s i g).hbm = s.hbm := rfl
@[simp] theorem groupPut_cache : (groupPut s i g).cache = s.cache := rfl
@[simp] theorem groupPut_coh : (groupPut s i g).coh = s.coh := rfl
@[simp] theorem groupPut_own : (groupPut s i g).own = s.own := rfl
@[simp] theorem groupPut_fab : (groupPut s i g).fab = s.fab := rfl
@[simp] theorem groupPut_time : (groupPut s i g).time = s.time := rfl
@[simp] theorem groupPut_barriers : (groupPut s i g).barriers = s.barriers := rfl
@[simp] theorem groupPut_scribe : (groupPut s i g).scribe = s.scribe := rfl
@[simp] theorem groupPut_ledger : (groupPut s i g).ledger = s.ledger := rfl
@[simp] theorem groupPut_sketch : (groupPut s i g).sketch = s.sketch := rfl
@[simp] theorem groupPut_launch : (groupPut s i g).launch = s.launch := rfl
@[simp] theorem groupPut_od : (groupPut s i g).od = s.od := rfl
@[simp] theorem groupPut_chlog : (groupPut s i g).chlog = s.chlog := rfl
@[simp] theorem groupPut_sess : (groupPut s i g).sess = s.sess := rfl
@[simp] theorem groupPut_flows : (groupPut s i g).flows = s.flows := rfl
@[simp] theorem groupPut_counters : (groupPut s i g).counters = s.counters := rfl
@[simp] theorem groupPut_logs : (groupPut s i g).logs = s.logs := rfl
@[simp] theorem groupPut_power : (groupPut s i g).power = s.power := rfl
@[simp] theorem groupPut_sec : (groupPut s i g).sec = s.sec := rfl
@[simp] theorem groupPut_tx : (groupPut s i g).tx = s.tx := rfl
@[simp] theorem groupPut_free : (groupPut s i g).free = s.free := rfl
end

/-! ### collPut -/

section
variable (s : Block) (c : Coll)
@[simp] theorem collPut_clk : (collPut s c).clk = s.clk := rfl
@[simp] theorem collPut_sync : (collPut s c).sync = s.sync := rfl
@[simp] theorem collPut_wraps : (collPut s c).wraps = s.wraps := rfl
@[simp] theorem collPut_seqs : (collPut s c).seqs = s.seqs := rfl
@[simp] theorem collPut_tiles : (collPut s c).tiles = s.tiles := rfl
@[simp] theorem collPut_dies : (collPut s c).dies = s.dies := rfl
@[simp] theorem collPut_plumb : (collPut s c).plumb = s.plumb := rfl
@[simp] theorem collPut_harts : (collPut s c).harts = s.harts := rfl
@[simp] theorem collPut_mem : (collPut s c).mem = s.mem := rfl
@[simp] theorem collPut_ecc : (collPut s c).ecc = s.ecc := rfl
@[simp] theorem collPut_hbm : (collPut s c).hbm = s.hbm := rfl
@[simp] theorem collPut_cache : (collPut s c).cache = s.cache := rfl
@[simp] theorem collPut_coh : (collPut s c).coh = s.coh := rfl
@[simp] theorem collPut_own : (collPut s c).own = s.own := rfl
@[simp] theorem collPut_fab : (collPut s c).fab = s.fab := rfl
@[simp] theorem collPut_time : (collPut s c).time = s.time := rfl
@[simp] theorem collPut_barriers : (collPut s c).barriers = s.barriers := rfl
@[simp] theorem collPut_scribe : (collPut s c).scribe = s.scribe := rfl
@[simp] theorem collPut_ledger : (collPut s c).ledger = s.ledger := rfl
@[simp] theorem collPut_sketch : (collPut s c).sketch = s.sketch := rfl
@[simp] theorem collPut_launch : (collPut s c).launch = s.launch := rfl
@[simp] theorem collPut_od : (collPut s c).od = s.od := rfl
@[simp] theorem collPut_chlog : (collPut s c).chlog = s.chlog := rfl
@[simp] theorem collPut_sess : (collPut s c).sess = s.sess := rfl
@[simp] theorem collPut_flows : (collPut s c).flows = s.flows := rfl
@[simp] theorem collPut_counters : (collPut s c).counters = s.counters := rfl
@[simp] theorem collPut_logs : (collPut s c).logs = s.logs := rfl
@[simp] theorem collPut_power : (collPut s c).power = s.power := rfl
@[simp] theorem collPut_sec : (collPut s c).sec = s.sec := rfl
@[simp] theorem collPut_tx : (collPut s c).tx = s.tx := rfl
@[simp] theorem collPut_free : (collPut s c).free = s.free := rfl
end

/-! ### genPut -/

section
variable (s : Block) (g : GenSt)
@[simp] theorem genPut_clk : (genPut s g).clk = s.clk := rfl
@[simp] theorem genPut_sync : (genPut s g).sync = s.sync := rfl
@[simp] theorem genPut_wraps : (genPut s g).wraps = s.wraps := rfl
@[simp] theorem genPut_seqs : (genPut s g).seqs = s.seqs := rfl
@[simp] theorem genPut_tiles : (genPut s g).tiles = s.tiles := rfl
@[simp] theorem genPut_dies : (genPut s g).dies = s.dies := rfl
@[simp] theorem genPut_plumb : (genPut s g).plumb = s.plumb := rfl
@[simp] theorem genPut_harts : (genPut s g).harts = s.harts := rfl
@[simp] theorem genPut_mem : (genPut s g).mem = s.mem := rfl
@[simp] theorem genPut_ecc : (genPut s g).ecc = s.ecc := rfl
@[simp] theorem genPut_hbm : (genPut s g).hbm = s.hbm := rfl
@[simp] theorem genPut_cache : (genPut s g).cache = s.cache := rfl
@[simp] theorem genPut_coh : (genPut s g).coh = s.coh := rfl
@[simp] theorem genPut_own : (genPut s g).own = s.own := rfl
@[simp] theorem genPut_fab : (genPut s g).fab = s.fab := rfl
@[simp] theorem genPut_time : (genPut s g).time = s.time := rfl
@[simp] theorem genPut_barriers : (genPut s g).barriers = s.barriers := rfl
@[simp] theorem genPut_scribe : (genPut s g).scribe = s.scribe := rfl
@[simp] theorem genPut_ledger : (genPut s g).ledger = s.ledger := rfl
@[simp] theorem genPut_truss : (genPut s g).truss = s.truss := rfl
@[simp] theorem genPut_launch : (genPut s g).launch = s.launch := rfl
@[simp] theorem genPut_od : (genPut s g).od = s.od := rfl
@[simp] theorem genPut_chlog : (genPut s g).chlog = s.chlog := rfl
@[simp] theorem genPut_sess : (genPut s g).sess = s.sess := rfl
@[simp] theorem genPut_flows : (genPut s g).flows = s.flows := rfl
@[simp] theorem genPut_counters : (genPut s g).counters = s.counters := rfl
@[simp] theorem genPut_logs : (genPut s g).logs = s.logs := rfl
@[simp] theorem genPut_power : (genPut s g).power = s.power := rfl
@[simp] theorem genPut_sec : (genPut s g).sec = s.sec := rfl
@[simp] theorem genPut_tx : (genPut s g).tx = s.tx := rfl
@[simp] theorem genPut_free : (genPut s g).free = s.free := rfl
end

/-! ### sessPut -/

section
variable (s : Block) (n : Nat) (x : Session)
@[simp] theorem sessPut_clk : (sessPut s n x).clk = s.clk := rfl
@[simp] theorem sessPut_sync : (sessPut s n x).sync = s.sync := rfl
@[simp] theorem sessPut_wraps : (sessPut s n x).wraps = s.wraps := rfl
@[simp] theorem sessPut_seqs : (sessPut s n x).seqs = s.seqs := rfl
@[simp] theorem sessPut_tiles : (sessPut s n x).tiles = s.tiles := rfl
@[simp] theorem sessPut_dies : (sessPut s n x).dies = s.dies := rfl
@[simp] theorem sessPut_plumb : (sessPut s n x).plumb = s.plumb := rfl
@[simp] theorem sessPut_harts : (sessPut s n x).harts = s.harts := rfl
@[simp] theorem sessPut_mem : (sessPut s n x).mem = s.mem := rfl
@[simp] theorem sessPut_ecc : (sessPut s n x).ecc = s.ecc := rfl
@[simp] theorem sessPut_hbm : (sessPut s n x).hbm = s.hbm := rfl
@[simp] theorem sessPut_cache : (sessPut s n x).cache = s.cache := rfl
@[simp] theorem sessPut_coh : (sessPut s n x).coh = s.coh := rfl
@[simp] theorem sessPut_own : (sessPut s n x).own = s.own := rfl
@[simp] theorem sessPut_fab : (sessPut s n x).fab = s.fab := rfl
@[simp] theorem sessPut_time : (sessPut s n x).time = s.time := rfl
@[simp] theorem sessPut_barriers : (sessPut s n x).barriers = s.barriers := rfl
@[simp] theorem sessPut_scribe : (sessPut s n x).scribe = s.scribe := rfl
@[simp] theorem sessPut_ledger : (sessPut s n x).ledger = s.ledger := rfl
@[simp] theorem sessPut_truss : (sessPut s n x).truss = s.truss := rfl
@[simp] theorem sessPut_sketch : (sessPut s n x).sketch = s.sketch := rfl
@[simp] theorem sessPut_launch : (sessPut s n x).launch = s.launch := rfl
@[simp] theorem sessPut_od : (sessPut s n x).od = s.od := rfl
@[simp] theorem sessPut_chlog : (sessPut s n x).chlog = s.chlog := rfl
@[simp] theorem sessPut_flows : (sessPut s n x).flows = s.flows := rfl
@[simp] theorem sessPut_counters : (sessPut s n x).counters = s.counters := rfl
@[simp] theorem sessPut_logs : (sessPut s n x).logs = s.logs := rfl
@[simp] theorem sessPut_power : (sessPut s n x).power = s.power := rfl
@[simp] theorem sessPut_sec : (sessPut s n x).sec = s.sec := rfl
@[simp] theorem sessPut_tx : (sessPut s n x).tx = s.tx := rfl
@[simp] theorem sessPut_free : (sessPut s n x).free = s.free := rfl
end

/-! ### flowPut -/

section
variable (s : Block) (f : Nat) (x : FlowSt)
@[simp] theorem flowPut_clk : (flowPut s f x).clk = s.clk := rfl
@[simp] theorem flowPut_sync : (flowPut s f x).sync = s.sync := rfl
@[simp] theorem flowPut_wraps : (flowPut s f x).wraps = s.wraps := rfl
@[simp] theorem flowPut_seqs : (flowPut s f x).seqs = s.seqs := rfl
@[simp] theorem flowPut_tiles : (flowPut s f x).tiles = s.tiles := rfl
@[simp] theorem flowPut_dies : (flowPut s f x).dies = s.dies := rfl
@[simp] theorem flowPut_plumb : (flowPut s f x).plumb = s.plumb := rfl
@[simp] theorem flowPut_harts : (flowPut s f x).harts = s.harts := rfl
@[simp] theorem flowPut_mem : (flowPut s f x).mem = s.mem := rfl
@[simp] theorem flowPut_ecc : (flowPut s f x).ecc = s.ecc := rfl
@[simp] theorem flowPut_hbm : (flowPut s f x).hbm = s.hbm := rfl
@[simp] theorem flowPut_cache : (flowPut s f x).cache = s.cache := rfl
@[simp] theorem flowPut_coh : (flowPut s f x).coh = s.coh := rfl
@[simp] theorem flowPut_own : (flowPut s f x).own = s.own := rfl
@[simp] theorem flowPut_fab : (flowPut s f x).fab = s.fab := rfl
@[simp] theorem flowPut_time : (flowPut s f x).time = s.time := rfl
@[simp] theorem flowPut_barriers : (flowPut s f x).barriers = s.barriers := rfl
@[simp] theorem flowPut_scribe : (flowPut s f x).scribe = s.scribe := rfl
@[simp] theorem flowPut_ledger : (flowPut s f x).ledger = s.ledger := rfl
@[simp] theorem flowPut_truss : (flowPut s f x).truss = s.truss := rfl
@[simp] theorem flowPut_sketch : (flowPut s f x).sketch = s.sketch := rfl
@[simp] theorem flowPut_launch : (flowPut s f x).launch = s.launch := rfl
@[simp] theorem flowPut_od : (flowPut s f x).od = s.od := rfl
@[simp] theorem flowPut_chlog : (flowPut s f x).chlog = s.chlog := rfl
@[simp] theorem flowPut_sess : (flowPut s f x).sess = s.sess := rfl
@[simp] theorem flowPut_counters : (flowPut s f x).counters = s.counters := rfl
@[simp] theorem flowPut_logs : (flowPut s f x).logs = s.logs := rfl
@[simp] theorem flowPut_power : (flowPut s f x).power = s.power := rfl
@[simp] theorem flowPut_sec : (flowPut s f x).sec = s.sec := rfl
@[simp] theorem flowPut_tx : (flowPut s f x).tx = s.tx := rfl
@[simp] theorem flowPut_free : (flowPut s f x).free = s.free := rfl
end

/-! ### measPut -/

section
variable (s : Block) (k : Nat) (v : BitVec 512)
@[simp] theorem measPut_clk : (measPut s k v).clk = s.clk := rfl
@[simp] theorem measPut_sync : (measPut s k v).sync = s.sync := rfl
@[simp] theorem measPut_wraps : (measPut s k v).wraps = s.wraps := rfl
@[simp] theorem measPut_seqs : (measPut s k v).seqs = s.seqs := rfl
@[simp] theorem measPut_tiles : (measPut s k v).tiles = s.tiles := rfl
@[simp] theorem measPut_dies : (measPut s k v).dies = s.dies := rfl
@[simp] theorem measPut_plumb : (measPut s k v).plumb = s.plumb := rfl
@[simp] theorem measPut_harts : (measPut s k v).harts = s.harts := rfl
@[simp] theorem measPut_mem : (measPut s k v).mem = s.mem := rfl
@[simp] theorem measPut_ecc : (measPut s k v).ecc = s.ecc := rfl
@[simp] theorem measPut_hbm : (measPut s k v).hbm = s.hbm := rfl
@[simp] theorem measPut_cache : (measPut s k v).cache = s.cache := rfl
@[simp] theorem measPut_coh : (measPut s k v).coh = s.coh := rfl
@[simp] theorem measPut_own : (measPut s k v).own = s.own := rfl
@[simp] theorem measPut_fab : (measPut s k v).fab = s.fab := rfl
@[simp] theorem measPut_time : (measPut s k v).time = s.time := rfl
@[simp] theorem measPut_barriers : (measPut s k v).barriers = s.barriers := rfl
@[simp] theorem measPut_scribe : (measPut s k v).scribe = s.scribe := rfl
@[simp] theorem measPut_ledger : (measPut s k v).ledger = s.ledger := rfl
@[simp] theorem measPut_truss : (measPut s k v).truss = s.truss := rfl
@[simp] theorem measPut_sketch : (measPut s k v).sketch = s.sketch := rfl
@[simp] theorem measPut_launch : (measPut s k v).launch = s.launch := rfl
@[simp] theorem measPut_od : (measPut s k v).od = s.od := rfl
@[simp] theorem measPut_chlog : (measPut s k v).chlog = s.chlog := rfl
@[simp] theorem measPut_sess : (measPut s k v).sess = s.sess := rfl
@[simp] theorem measPut_flows : (measPut s k v).flows = s.flows := rfl
@[simp] theorem measPut_counters : (measPut s k v).counters = s.counters := rfl
@[simp] theorem measPut_logs : (measPut s k v).logs = s.logs := rfl
@[simp] theorem measPut_power : (measPut s k v).power = s.power := rfl
@[simp] theorem measPut_tx : (measPut s k v).tx = s.tx := rfl
@[simp] theorem measPut_free : (measPut s k v).free = s.free := rfl
end

/-! ### odRaw -/

section
variable (s : Block) (i j v : Nat)
@[simp] theorem odRaw_clk : (odRaw s i j v).clk = s.clk := rfl
@[simp] theorem odRaw_sync : (odRaw s i j v).sync = s.sync := rfl
@[simp] theorem odRaw_wraps : (odRaw s i j v).wraps = s.wraps := rfl
@[simp] theorem odRaw_seqs : (odRaw s i j v).seqs = s.seqs := rfl
@[simp] theorem odRaw_tiles : (odRaw s i j v).tiles = s.tiles := rfl
@[simp] theorem odRaw_dies : (odRaw s i j v).dies = s.dies := rfl
@[simp] theorem odRaw_plumb : (odRaw s i j v).plumb = s.plumb := rfl
@[simp] theorem odRaw_harts : (odRaw s i j v).harts = s.harts := rfl
@[simp] theorem odRaw_mem : (odRaw s i j v).mem = s.mem := rfl
@[simp] theorem odRaw_ecc : (odRaw s i j v).ecc = s.ecc := rfl
@[simp] theorem odRaw_hbm : (odRaw s i j v).hbm = s.hbm := rfl
@[simp] theorem odRaw_cache : (odRaw s i j v).cache = s.cache := rfl
@[simp] theorem odRaw_coh : (odRaw s i j v).coh = s.coh := rfl
@[simp] theorem odRaw_own : (odRaw s i j v).own = s.own := rfl
@[simp] theorem odRaw_fab : (odRaw s i j v).fab = s.fab := rfl
@[simp] theorem odRaw_time : (odRaw s i j v).time = s.time := rfl
@[simp] theorem odRaw_barriers : (odRaw s i j v).barriers = s.barriers := rfl
@[simp] theorem odRaw_scribe : (odRaw s i j v).scribe = s.scribe := rfl
@[simp] theorem odRaw_ledger : (odRaw s i j v).ledger = s.ledger := rfl
@[simp] theorem odRaw_truss : (odRaw s i j v).truss = s.truss := rfl
@[simp] theorem odRaw_sketch : (odRaw s i j v).sketch = s.sketch := rfl
@[simp] theorem odRaw_launch : (odRaw s i j v).launch = s.launch := rfl
@[simp] theorem odRaw_chlog : (odRaw s i j v).chlog = s.chlog := rfl
@[simp] theorem odRaw_sess : (odRaw s i j v).sess = s.sess := rfl
@[simp] theorem odRaw_flows : (odRaw s i j v).flows = s.flows := rfl
@[simp] theorem odRaw_counters : (odRaw s i j v).counters = s.counters := rfl
@[simp] theorem odRaw_logs : (odRaw s i j v).logs = s.logs := rfl
@[simp] theorem odRaw_power : (odRaw s i j v).power = s.power := rfl
@[simp] theorem odRaw_sec : (odRaw s i j v).sec = s.sec := rfl
@[simp] theorem odRaw_tx : (odRaw s i j v).tx = s.tx := rfl
@[simp] theorem odRaw_free : (odRaw s i j v).free = s.free := rfl
end

/-! ### markSubs -/

section
variable (s : Block) (i j : Nat)
@[simp] theorem markSubs_clk : (markSubs s i j).clk = s.clk := rfl
@[simp] theorem markSubs_sync : (markSubs s i j).sync = s.sync := rfl
@[simp] theorem markSubs_wraps : (markSubs s i j).wraps = s.wraps := rfl
@[simp] theorem markSubs_seqs : (markSubs s i j).seqs = s.seqs := rfl
@[simp] theorem markSubs_tiles : (markSubs s i j).tiles = s.tiles := rfl
@[simp] theorem markSubs_dies : (markSubs s i j).dies = s.dies := rfl
@[simp] theorem markSubs_plumb : (markSubs s i j).plumb = s.plumb := rfl
@[simp] theorem markSubs_harts : (markSubs s i j).harts = s.harts := rfl
@[simp] theorem markSubs_mem : (markSubs s i j).mem = s.mem := rfl
@[simp] theorem markSubs_ecc : (markSubs s i j).ecc = s.ecc := rfl
@[simp] theorem markSubs_hbm : (markSubs s i j).hbm = s.hbm := rfl
@[simp] theorem markSubs_cache : (markSubs s i j).cache = s.cache := rfl
@[simp] theorem markSubs_coh : (markSubs s i j).coh = s.coh := rfl
@[simp] theorem markSubs_own : (markSubs s i j).own = s.own := rfl
@[simp] theorem markSubs_fab : (markSubs s i j).fab = s.fab := rfl
@[simp] theorem markSubs_time : (markSubs s i j).time = s.time := rfl
@[simp] theorem markSubs_barriers : (markSubs s i j).barriers = s.barriers := rfl
@[simp] theorem markSubs_scribe : (markSubs s i j).scribe = s.scribe := rfl
@[simp] theorem markSubs_ledger : (markSubs s i j).ledger = s.ledger := rfl
@[simp] theorem markSubs_truss : (markSubs s i j).truss = s.truss := rfl
@[simp] theorem markSubs_sketch : (markSubs s i j).sketch = s.sketch := rfl
@[simp] theorem markSubs_launch : (markSubs s i j).launch = s.launch := rfl
@[simp] theorem markSubs_od : (markSubs s i j).od = s.od := rfl
@[simp] theorem markSubs_chlog : (markSubs s i j).chlog = s.chlog := rfl
@[simp] theorem markSubs_flows : (markSubs s i j).flows = s.flows := rfl
@[simp] theorem markSubs_counters : (markSubs s i j).counters = s.counters := rfl
@[simp] theorem markSubs_logs : (markSubs s i j).logs = s.logs := rfl
@[simp] theorem markSubs_power : (markSubs s i j).power = s.power := rfl
@[simp] theorem markSubs_sec : (markSubs s i j).sec = s.sec := rfl
@[simp] theorem markSubs_tx : (markSubs s i j).tx = s.tx := rfl
@[simp] theorem markSubs_free : (markSubs s i j).free = s.free := rfl
end

/-! ### odPut -/

section
variable (s : Block) (i j v : Nat)
@[simp] theorem odPut_clk : (odPut s i j v).clk = s.clk := rfl
@[simp] theorem odPut_sync : (odPut s i j v).sync = s.sync := rfl
@[simp] theorem odPut_wraps : (odPut s i j v).wraps = s.wraps := rfl
@[simp] theorem odPut_seqs : (odPut s i j v).seqs = s.seqs := rfl
@[simp] theorem odPut_tiles : (odPut s i j v).tiles = s.tiles := rfl
@[simp] theorem odPut_dies : (odPut s i j v).dies = s.dies := rfl
@[simp] theorem odPut_plumb : (odPut s i j v).plumb = s.plumb := rfl
@[simp] theorem odPut_harts : (odPut s i j v).harts = s.harts := rfl
@[simp] theorem odPut_mem : (odPut s i j v).mem = s.mem := rfl
@[simp] theorem odPut_ecc : (odPut s i j v).ecc = s.ecc := rfl
@[simp] theorem odPut_hbm : (odPut s i j v).hbm = s.hbm := rfl
@[simp] theorem odPut_cache : (odPut s i j v).cache = s.cache := rfl
@[simp] theorem odPut_coh : (odPut s i j v).coh = s.coh := rfl
@[simp] theorem odPut_own : (odPut s i j v).own = s.own := rfl
@[simp] theorem odPut_fab : (odPut s i j v).fab = s.fab := rfl
@[simp] theorem odPut_time : (odPut s i j v).time = s.time := rfl
@[simp] theorem odPut_barriers : (odPut s i j v).barriers = s.barriers := rfl
@[simp] theorem odPut_scribe : (odPut s i j v).scribe = s.scribe := rfl
@[simp] theorem odPut_ledger : (odPut s i j v).ledger = s.ledger := rfl
@[simp] theorem odPut_truss : (odPut s i j v).truss = s.truss := rfl
@[simp] theorem odPut_sketch : (odPut s i j v).sketch = s.sketch := rfl
@[simp] theorem odPut_launch : (odPut s i j v).launch = s.launch := rfl
@[simp] theorem odPut_chlog : (odPut s i j v).chlog = s.chlog := rfl
@[simp] theorem odPut_flows : (odPut s i j v).flows = s.flows := rfl
@[simp] theorem odPut_counters : (odPut s i j v).counters = s.counters := rfl
@[simp] theorem odPut_logs : (odPut s i j v).logs = s.logs := rfl
@[simp] theorem odPut_power : (odPut s i j v).power = s.power := rfl
@[simp] theorem odPut_sec : (odPut s i j v).sec = s.sec := rfl
@[simp] theorem odPut_tx : (odPut s i j v).tx = s.tx := rfl
@[simp] theorem odPut_free : (odPut s i j v).free = s.free := rfl
end

/-! ### odBump -/

section
variable (s : Block) (i j n : Nat)
@[simp] theorem odBump_clk : (odBump s i j n).clk = s.clk := odPut_clk s i j _
@[simp] theorem odBump_sync : (odBump s i j n).sync = s.sync := odPut_sync s i j _
@[simp] theorem odBump_wraps : (odBump s i j n).wraps = s.wraps := odPut_wraps s i j _
@[simp] theorem odBump_seqs : (odBump s i j n).seqs = s.seqs := odPut_seqs s i j _
@[simp] theorem odBump_tiles : (odBump s i j n).tiles = s.tiles := odPut_tiles s i j _
@[simp] theorem odBump_dies : (odBump s i j n).dies = s.dies := odPut_dies s i j _
@[simp] theorem odBump_plumb : (odBump s i j n).plumb = s.plumb := odPut_plumb s i j _
@[simp] theorem odBump_harts : (odBump s i j n).harts = s.harts := odPut_harts s i j _
@[simp] theorem odBump_mem : (odBump s i j n).mem = s.mem := odPut_mem s i j _
@[simp] theorem odBump_ecc : (odBump s i j n).ecc = s.ecc := odPut_ecc s i j _
@[simp] theorem odBump_hbm : (odBump s i j n).hbm = s.hbm := odPut_hbm s i j _
@[simp] theorem odBump_cache : (odBump s i j n).cache = s.cache := odPut_cache s i j _
@[simp] theorem odBump_coh : (odBump s i j n).coh = s.coh := odPut_coh s i j _
@[simp] theorem odBump_own : (odBump s i j n).own = s.own := odPut_own s i j _
@[simp] theorem odBump_fab : (odBump s i j n).fab = s.fab := odPut_fab s i j _
@[simp] theorem odBump_time : (odBump s i j n).time = s.time := odPut_time s i j _
@[simp] theorem odBump_barriers : (odBump s i j n).barriers = s.barriers := odPut_barriers s i j _
@[simp] theorem odBump_scribe : (odBump s i j n).scribe = s.scribe := odPut_scribe s i j _
@[simp] theorem odBump_ledger : (odBump s i j n).ledger = s.ledger := odPut_ledger s i j _
@[simp] theorem odBump_truss : (odBump s i j n).truss = s.truss := odPut_truss s i j _
@[simp] theorem odBump_sketch : (odBump s i j n).sketch = s.sketch := odPut_sketch s i j _
@[simp] theorem odBump_launch : (odBump s i j n).launch = s.launch := odPut_launch s i j _
@[simp] theorem odBump_chlog : (odBump s i j n).chlog = s.chlog := odPut_chlog s i j _
@[simp] theorem odBump_flows : (odBump s i j n).flows = s.flows := odPut_flows s i j _
@[simp] theorem odBump_counters : (odBump s i j n).counters = s.counters := odPut_counters s i j _
@[simp] theorem odBump_logs : (odBump s i j n).logs = s.logs := odPut_logs s i j _
@[simp] theorem odBump_power : (odBump s i j n).power = s.power := odPut_power s i j _
@[simp] theorem odBump_sec : (odBump s i j n).sec = s.sec := odPut_sec s i j _
@[simp] theorem odBump_tx : (odBump s i j n).tx = s.tx := odPut_tx s i j _
@[simp] theorem odBump_free : (odBump s i j n).free = s.free := odPut_free s i j _
end

/-! ### odSetByte -/

section
variable (s : Block) (i j k v : Nat)
@[simp] theorem odSetByte_clk : (odSetByte s i j k v).clk = s.clk := odPut_clk s i j _
@[simp] theorem odSetByte_sync : (odSetByte s i j k v).sync = s.sync := odPut_sync s i j _
@[simp] theorem odSetByte_wraps : (odSetByte s i j k v).wraps = s.wraps := odPut_wraps s i j _
@[simp] theorem odSetByte_seqs : (odSetByte s i j k v).seqs = s.seqs := odPut_seqs s i j _
@[simp] theorem odSetByte_tiles : (odSetByte s i j k v).tiles = s.tiles := odPut_tiles s i j _
@[simp] theorem odSetByte_dies : (odSetByte s i j k v).dies = s.dies := odPut_dies s i j _
@[simp] theorem odSetByte_plumb : (odSetByte s i j k v).plumb = s.plumb := odPut_plumb s i j _
@[simp] theorem odSetByte_harts : (odSetByte s i j k v).harts = s.harts := odPut_harts s i j _
@[simp] theorem odSetByte_mem : (odSetByte s i j k v).mem = s.mem := odPut_mem s i j _
@[simp] theorem odSetByte_ecc : (odSetByte s i j k v).ecc = s.ecc := odPut_ecc s i j _
@[simp] theorem odSetByte_hbm : (odSetByte s i j k v).hbm = s.hbm := odPut_hbm s i j _
@[simp] theorem odSetByte_cache : (odSetByte s i j k v).cache = s.cache := odPut_cache s i j _
@[simp] theorem odSetByte_coh : (odSetByte s i j k v).coh = s.coh := odPut_coh s i j _
@[simp] theorem odSetByte_own : (odSetByte s i j k v).own = s.own := odPut_own s i j _
@[simp] theorem odSetByte_fab : (odSetByte s i j k v).fab = s.fab := odPut_fab s i j _
@[simp] theorem odSetByte_time : (odSetByte s i j k v).time = s.time := odPut_time s i j _
@[simp] theorem odSetByte_barriers : (odSetByte s i j k v).barriers = s.barriers := odPut_barriers s i j _
@[simp] theorem odSetByte_scribe : (odSetByte s i j k v).scribe = s.scribe := odPut_scribe s i j _
@[simp] theorem odSetByte_ledger : (odSetByte s i j k v).ledger = s.ledger := odPut_ledger s i j _
@[simp] theorem odSetByte_truss : (odSetByte s i j k v).truss = s.truss := odPut_truss s i j _
@[simp] theorem odSetByte_sketch : (odSetByte s i j k v).sketch = s.sketch := odPut_sketch s i j _
@[simp] theorem odSetByte_launch : (odSetByte s i j k v).launch = s.launch := odPut_launch s i j _
@[simp] theorem odSetByte_chlog : (odSetByte s i j k v).chlog = s.chlog := odPut_chlog s i j _
@[simp] theorem odSetByte_flows : (odSetByte s i j k v).flows = s.flows := odPut_flows s i j _
@[simp] theorem odSetByte_counters : (odSetByte s i j k v).counters = s.counters := odPut_counters s i j _
@[simp] theorem odSetByte_logs : (odSetByte s i j k v).logs = s.logs := odPut_logs s i j _
@[simp] theorem odSetByte_power : (odSetByte s i j k v).power = s.power := odPut_power s i j _
@[simp] theorem odSetByte_sec : (odSetByte s i j k v).sec = s.sec := odPut_sec s i j _
@[simp] theorem odSetByte_tx : (odSetByte s i j k v).tx = s.tx := odPut_tx s i j _
@[simp] theorem odSetByte_free : (odSetByte s i j k v).free = s.free := odPut_free s i j _
end

/-! ### odSetBit -/

section
variable (s : Block) (i j k : Nat) (b : Bool)
@[simp] theorem odSetBit_clk : (odSetBit s i j k b).clk = s.clk := odPut_clk s i j _
@[simp] theorem odSetBit_sync : (odSetBit s i j k b).sync = s.sync := odPut_sync s i j _
@[simp] theorem odSetBit_wraps : (odSetBit s i j k b).wraps = s.wraps := odPut_wraps s i j _
@[simp] theorem odSetBit_seqs : (odSetBit s i j k b).seqs = s.seqs := odPut_seqs s i j _
@[simp] theorem odSetBit_tiles : (odSetBit s i j k b).tiles = s.tiles := odPut_tiles s i j _
@[simp] theorem odSetBit_dies : (odSetBit s i j k b).dies = s.dies := odPut_dies s i j _
@[simp] theorem odSetBit_plumb : (odSetBit s i j k b).plumb = s.plumb := odPut_plumb s i j _
@[simp] theorem odSetBit_harts : (odSetBit s i j k b).harts = s.harts := odPut_harts s i j _
@[simp] theorem odSetBit_mem : (odSetBit s i j k b).mem = s.mem := odPut_mem s i j _
@[simp] theorem odSetBit_ecc : (odSetBit s i j k b).ecc = s.ecc := odPut_ecc s i j _
@[simp] theorem odSetBit_hbm : (odSetBit s i j k b).hbm = s.hbm := odPut_hbm s i j _
@[simp] theorem odSetBit_cache : (odSetBit s i j k b).cache = s.cache := odPut_cache s i j _
@[simp] theorem odSetBit_coh : (odSetBit s i j k b).coh = s.coh := odPut_coh s i j _
@[simp] theorem odSetBit_own : (odSetBit s i j k b).own = s.own := odPut_own s i j _
@[simp] theorem odSetBit_fab : (odSetBit s i j k b).fab = s.fab := odPut_fab s i j _
@[simp] theorem odSetBit_time : (odSetBit s i j k b).time = s.time := odPut_time s i j _
@[simp] theorem odSetBit_barriers : (odSetBit s i j k b).barriers = s.barriers := odPut_barriers s i j _
@[simp] theorem odSetBit_scribe : (odSetBit s i j k b).scribe = s.scribe := odPut_scribe s i j _
@[simp] theorem odSetBit_ledger : (odSetBit s i j k b).ledger = s.ledger := odPut_ledger s i j _
@[simp] theorem odSetBit_truss : (odSetBit s i j k b).truss = s.truss := odPut_truss s i j _
@[simp] theorem odSetBit_sketch : (odSetBit s i j k b).sketch = s.sketch := odPut_sketch s i j _
@[simp] theorem odSetBit_launch : (odSetBit s i j k b).launch = s.launch := odPut_launch s i j _
@[simp] theorem odSetBit_chlog : (odSetBit s i j k b).chlog = s.chlog := odPut_chlog s i j _
@[simp] theorem odSetBit_flows : (odSetBit s i j k b).flows = s.flows := odPut_flows s i j _
@[simp] theorem odSetBit_counters : (odSetBit s i j k b).counters = s.counters := odPut_counters s i j _
@[simp] theorem odSetBit_logs : (odSetBit s i j k b).logs = s.logs := odPut_logs s i j _
@[simp] theorem odSetBit_power : (odSetBit s i j k b).power = s.power := odPut_power s i j _
@[simp] theorem odSetBit_sec : (odSetBit s i j k b).sec = s.sec := odPut_sec s i j _
@[simp] theorem odSetBit_tx : (odSetBit s i j k b).tx = s.tx := odPut_tx s i j _
@[simp] theorem odSetBit_free : (odSetBit s i j k b).free = s.free := odPut_free s i j _
end

/-! ### emit -/

section
variable (s : Block) (m : Tx)
@[simp] theorem emit_clk : (emit s m).clk = s.clk := rfl
@[simp] theorem emit_sync : (emit s m).sync = s.sync := rfl
@[simp] theorem emit_wraps : (emit s m).wraps = s.wraps := rfl
@[simp] theorem emit_seqs : (emit s m).seqs = s.seqs := rfl
@[simp] theorem emit_tiles : (emit s m).tiles = s.tiles := rfl
@[simp] theorem emit_dies : (emit s m).dies = s.dies := rfl
@[simp] theorem emit_plumb : (emit s m).plumb = s.plumb := rfl
@[simp] theorem emit_harts : (emit s m).harts = s.harts := rfl
@[simp] theorem emit_mem : (emit s m).mem = s.mem := rfl
@[simp] theorem emit_ecc : (emit s m).ecc = s.ecc := rfl
@[simp] theorem emit_hbm : (emit s m).hbm = s.hbm := rfl
@[simp] theorem emit_cache : (emit s m).cache = s.cache := rfl
@[simp] theorem emit_coh : (emit s m).coh = s.coh := rfl
@[simp] theorem emit_own : (emit s m).own = s.own := rfl
@[simp] theorem emit_fab : (emit s m).fab = s.fab := rfl
@[simp] theorem emit_time : (emit s m).time = s.time := rfl
@[simp] theorem emit_barriers : (emit s m).barriers = s.barriers := rfl
@[simp] theorem emit_scribe : (emit s m).scribe = s.scribe := rfl
@[simp] theorem emit_ledger : (emit s m).ledger = s.ledger := rfl
@[simp] theorem emit_truss : (emit s m).truss = s.truss := rfl
@[simp] theorem emit_sketch : (emit s m).sketch = s.sketch := rfl
@[simp] theorem emit_launch : (emit s m).launch = s.launch := rfl
@[simp] theorem emit_od : (emit s m).od = s.od := rfl
@[simp] theorem emit_chlog : (emit s m).chlog = s.chlog := rfl
@[simp] theorem emit_sess : (emit s m).sess = s.sess := rfl
@[simp] theorem emit_flows : (emit s m).flows = s.flows := rfl
@[simp] theorem emit_counters : (emit s m).counters = s.counters := rfl
@[simp] theorem emit_logs : (emit s m).logs = s.logs := rfl
@[simp] theorem emit_power : (emit s m).power = s.power := rfl
@[simp] theorem emit_sec : (emit s m).sec = s.sec := rfl
@[simp] theorem emit_free : (emit s m).free = s.free := rfl
end

end Sys2Proof.Machine
end

