-- ==== Sys2Proof/Tests/Streams.lean ====
section
/-! SUPPORT. For each statement about the commands of a stream, a state that meets its hypotheses. -/

namespace Sys2Proof.Tests

open Sys2Proof Sys2Proof.Machine

set_option Elab.async false

/-- The module in READY, its slot 0. -/
def ready : Block := odPut State.reset.toBlock 0x2000 1 2

/-- An address in tile 0's scratchpad. -/
def sp (a : Nat) : Nat := scratchBase 0 + a

/-- Sequencer `q` runs a stream of the given commands at `at1`. -/
def streamOf (b : Block) (q at1 : Nat) (cmds : List Nat) : Block :=
  let b := memWrite b at1 (cmds.flatMap (natLe 16))
  seqPut b q { seqAt b q with stream := some ⟨at1, cmds.length, 0, false, 0, [], 0, none, .ok, none⟩ }

/-- Sequencer `q` has read the given commands, whose stream stands at `at1`. -/
def streamRead (b : Block) (q at1 : Nat) (cmds : List Nat) : Block :=
  seqPut b q { seqAt b q with stream := some ⟨at1, cmds.length, 0, false, 0,
    (cmds.zipIdx).map (fun x => newSlot x.2 (BitVec.ofNat 128 x.1)), cmds.length, none, .ok, none⟩ }

/-- Whether a command goes on, and whether it is refused. -/
def isGo : Began → Bool
  | .go _ _ _ => true
  | _ => false
def isStop : Began → Bool
  | .stop _ _ => true
  | _ => false

/-- Whether a stream starts a command, whose own effect is as `want` says. -/
def begins (b : Block) (q : Nat) (plain : Option Bool) (p : BitVec 128 → Bool) (body : Block → CmdSlot → Began) (want : Began → Bool) : Bool :=
  match nextCmd (settled b q) q plain p with
  | none => false
  | some c =>
    !cmdReserved c.word && !(isTileSeq q && tileAbsent (settled b q) q) &&
      (blockWait (begunState (settled b q) q) q (begunSlot (settled b q) q c)).isNone &&
        want (body (touchBlock (begunState (settled b q) q) q (begunSlot (settled b q) q c)) (begunSlot (settled b q) q c))

/-- Whether a stream starts a command and the command's own effect goes on, or stops it. -/
def goes (b : Block) (q : Nat) (plain : Option Bool) (p : BitVec 128 → Bool) (body : Block → CmdSlot → Began) : Bool :=
  begins b q plain p body isGo
def stops (b : Block) (q : Nat) (plain : Option Bool) (p : BitVec 128 → Bool) (body : Block → CmdSlot → Began) : Bool :=
  begins b q plain p body isStop

theorem begins_starts {b : Block} {q : Nat} {plain : Option Bool} {p : BitVec 128 → Bool} {body : Block → CmdSlot → Began}
    {want : Began → Bool} (h : begins b q plain p body want = true) : ∃ c : CmdSlot, Starts b q plain p c ∧
      want (body (touchBlock (begunState (settled b q) q) q (begunSlot (settled b q) q c)) (begunSlot (settled b q) q c)) = true := by
  unfold begins at h
  split at h
  · contradiction
  · rename_i c hc
    simp only [Bool.and_eq_true, Bool.not_eq_true', Option.isNone_iff_eq_none] at h
    exact ⟨c, ⟨hc, h.1.1.1, h.1.1.2, h.1.2⟩, h.2⟩

theorem goes_starts {b : Block} {q : Nat} {plain : Option Bool} {p : BitVec 128 → Bool} {body : Block → CmdSlot → Began}
    (h : goes b q plain p body = true) : ∃ (s1 : Block) (c : CmdSlot) (w : Status) (quick : Bool), Starts b q plain p c ∧
      body (touchBlock (begunState (settled b q) q) q (begunSlot (settled b q) q c)) (begunSlot (settled b q) q c) = .go s1 w quick := by
  obtain ⟨c, hc, hw⟩ := begins_starts h
  unfold isGo at hw
  split at hw
  · rename_i hb; exact ⟨_, c, _, _, hc, hb⟩
  · contradiction

theorem stops_starts {b : Block} {q : Nat} {plain : Option Bool} {p : BitVec 128 → Bool} {body : Block → CmdSlot → Began}
    (h : stops b q plain p body = true) : ∃ (s1 : Block) (c : CmdSlot) (w : Stop), Starts b q plain p c ∧
      body (touchBlock (begunState (settled b q) q) q (begunSlot (settled b q) q c)) (begunSlot (settled b q) q c) = .stop s1 w := by
  obtain ⟨c, hc, hw⟩ := begins_starts h
  unfold isStop at hw
  split at hw
  · rename_i hb; exact ⟨_, c, _, hc, hb⟩
  · contradiction

/-! ### Commands of a tile -/

/-- A layout descriptor of two dimensions of extents `n` and `m` (R167). -/
def desc2 (fmt rdim base sbase n s0 m s1 : Nat) : Nat :=
  fmt + 2 * 2 ^ 5 + rdim * 2 ^ 8 + base * 2 ^ 32 + sbase * 2 ^ 80 + (n - 1 + s0 * 2 ^ 24) * 2 ^ 128 + (m - 1 + s1 * 2 ^ 24) * 2 ^ 192

/-- A tensor reference (R198). -/
def tref (desc tscale : Nat) : Nat := desc + tscale * 2 ^ 64

/-- A command with its block at `blk` (R199). -/
def blockCmd (op blk fields : Nat) : Nat := op + (blk / 64) * 2 ^ 16 + fields

/-- Tile 0 runs one command on a block of `n` bytes, in its scratchpad, with further bytes. -/
def tileRuns (op fields n : Nat) (block : Nat) (more : List (Nat × Nat × Nat)) : Block :=
  let b := streamOf ready 0 (sp 0x1000) [blockCmd op (sp 0x2000) fields, 1]
  more.foldl (fun b x => memWrite b x.1 (natLe x.2.1 x.2.2)) (memWrite b (sp 0x2000) (natLe n block))

/-- One S8 element 5 with scale byte 0, with tensor scale 1. -/
def s8Tensor : List (Nat × Nat × Nat) := [(sp 0x4000, 64, desc2 0 0 (sp 0x5000) (sp 0x5040) 1 1 1 1), (sp 0x5000, 1, 5)]

theorem wit_load : goes (tileRuns 0x10 0 64 (tref (sp 0x4000) 0x3F800000 + 1 * 2 ^ 323) s8Tensor) 0 none (fun w => cmdOpcode w == 0x10) (beginLoad 0) = true := by
  decide +kernel

/-- A weight set of one code. -/
def oneSet : WeightSet := ⟨true, false, 0, false, true, none, [], 0x3F800000, 1, [(0, 3)], []⟩

def withSet (b : Block) : Block := tilePut b 0 { tileAt b 0 with active := oneSet }

theorem wit_fstream : goes (withSet (tileRuns 0x11 0 64 (tref (sp 0x4000) 0x3F800000 + 1 * 2 ^ 323) s8Tensor)) 0 none (fun w => cmdOpcode w == 0x11) (beginStream 0 false) = true := by
  decide +kernel

theorem wit_tstream : goes (withSet (tileRuns 0x12 0 64 (tref (sp 0x4000) 0x3F800000 + 1 * 2 ^ 323) s8Tensor)) 0 none (fun w => cmdOpcode w == 0x12) (beginStream 0 true) = true := by
  decide +kernel

theorem wit_rawadd : goes (tileRuns 0x13 0 64 (scratchBase 0 + 0x3FF0000000000000 * 2 ^ 64 + 1 * 2 ^ 128) []) 0 none (fun w => cmdOpcode w == 0x13) (beginRawAdd 0) = true := by
  decide +kernel

theorem wit_move : goes (streamOf ready 0 (sp 0x1000) [0x09 + (sp 0x2000 / 64) * 2 ^ 16 + (sp 0x3000 / 64) * 2 ^ 58, 1]) 0 none (fun w => cmdOpcode w == 0x09) (beginMove 0) = true := by
  decide +kernel

theorem wit_copy : goes (tileRuns 0x08 0 64 (tref (sp 0x4000) 0 + tref (sp 0x4040) 0 * 2 ^ 128)
    [(sp 0x4000, 64, desc2 0xE 0 (sp 0x5000) 0 1 4 1 4), (sp 0x4040, 64, desc2 0xE 0 (sp 0x6000) 0 1 4 1 4), (sp 0x5000, 4, 0x3F800000)]) 0 none (fun w => cmdOpcode w == 0x08) (beginCopy 0) = true := by
  decide +kernel

/-- A program that passes input 0 to output 0 in FP32 (R144 to R147), and a block for it over one element. -/
def passProgram : List (Nat × Nat × Nat) := [(sp 0x100, 256, 1 * 2 ^ 1 + 0x2E0 * 2 ^ (8 * 152))]

def fp32Tensors : List (Nat × Nat × Nat) :=
  [(sp 0x4000, 64, desc2 0xE 0 (sp 0x5000) 0 1 4 1 4), (sp 0x4040, 64, desc2 0xE 0 (sp 0x6000) 0 1 4 1 4), (sp 0x5000, 4, 0x3F800000)]

def chainBlock (i0 : Nat) : Nat :=
  sp 0x100 + (2 ^ 3 + 4 * 2 ^ 21) * 2 ^ 64 + i0 * 2 ^ (8 * 80) + tref (sp 0x4040) 0 * 2 ^ (8 * 144)

def chainRuns (op fields i0 : Nat) : Block := tileRuns op fields 256 (chainBlock i0) (passProgram ++ fp32Tensors)

/-- Tile 0 with a bank A of one accumulator. -/
def withBank (b : Block) : Block := tilePut b 0 { tileAt b 0 with bankA := ⟨false, [(0, 6)], 1, some 0x3FF0000000000000, none⟩, forward := some true }

theorem wit_glaze : goes (chainRuns 0x18 0 (tref (sp 0x4000) 0)) 0 none (fun w => cmdOpcode w == 0x18) (beginChain 0 .glaze ⟨none, none, 0⟩) = true := by
  decide +kernel

theorem wit_store : goes (withBank (chainRuns 0x19 0 0)) 0 none isStore (beginChain 0 .store ⟨none, none, 0⟩) = true := by
  decide +kernel

theorem wit_storeDgrad : goes (withBank (chainRuns 0x19 (2 ^ 13) 0)) 0 none isStoreDgrad (beginChain 0 .dgrad ⟨none, none, 0⟩) = true := by
  decide +kernel

theorem wit_storeRaw : goes (withBank (tileRuns 0x19 (1 * 2 ^ 9) 256 (1 * 2 ^ (64 + 3) + (sp 0x6000) * 2 ^ 128) [])) 0 none
   isStoreRaw (beginStoreRaw 0) = true := by
  decide +kernel

theorem wit_stencilForm : goes (chainRuns 0x1A 0 (tref (sp 0x4000) 0)) 0 none (isStencil false) (beginChain 0 .form ⟨none, none, 0⟩) = true := by
  decide +kernel

theorem wit_stencilApply : goes (chainRuns 0x1A (2 ^ 8) (tref (sp 0x4000) 0)) 0 none (isStencil true) (beginChain 0 .apply ⟨none, none, 0⟩) = true := by
  decide +kernel

def indexed : List (Nat × Nat × Nat) :=
  [(sp 0x4000, 64, desc2 0xE 0 (sp 0x5000) 0 1 4 1 4), (sp 0x4040, 64, desc2 0xE 0 (sp 0x6000) 0 1 4 1 4), (sp 0x5000, 4, 0x3F800000)]

def indexedBlock : Nat := tref (sp 0x4000) 0 + tref (sp 0x4040) 0 * 2 ^ 128 + sp 0x7000 * 2 ^ 256 + 2 ^ 320

theorem wit_gather : goes (tileRuns 0x1C 0 64 indexedBlock indexed) 0 none (fun w => cmdOpcode w == 0x1C) (beginGather 0) = true := by
  decide +kernel

theorem wit_scatter (k : Fin 4) : goes (tileRuns 0x1D (k * 2 ^ 10) 64 indexedBlock indexed) 0 none (isScatter k) (beginScatter 0 k) = true := by
  revert k; decide +kernel

/-! ### FENCE, SIGNAL, COUNTER and SWATCH -/

theorem wit_fence : goes (streamOf ready 0 (sp 0x1000) [2, 1]) 0 (some true) (fun w => cmdOpcode w == 2) (fun s _ => .go s .ok true) = true := by
  decide +kernel

/-- SIGNAL ADD of 3 to object 9; with bit 8 set it is SIGNAL SET (R199). -/
def signalCmd : Nat := 4 + 9 * 2 ^ 16 + 3 * 2 ^ 64

theorem wit_signalAdd : goes (streamOf ready 0 (sp 0x1000) [signalCmd, 1]) 0 (some true) (isSignal false) (beginSignal false 0) = true := by
  decide +kernel

theorem wit_signalSet : goes (streamOf ready 0 (sp 0x1000) [signalCmd + 2 ^ 8, 1]) 0 (some true) (isSignal true) (beginSignal true 0) = true := by
  decide +kernel

theorem wit_counterSnap : goes (streamOf ready 0 (sp 0x1000) [5 + (sp 0x2000) * 2 ^ 16, 1]) 0 (some true) (isCounter false) (beginCounter false 0) = true := by
  decide +kernel

theorem wit_counterStamp : goes (streamOf ready 0 (sp 0x1000) [5 + 2 ^ 8 + (sp 0x2000) * 2 ^ 16, 1]) 0 (some true) (isCounter true) (beginCounter true 0) = true := by
  decide +kernel

theorem wit_swatchBegin : goes (streamOf ready 0 (sp 0x1000) [6 + (sp 0x2000) * 2 ^ 64, 1]) 0 (some true) (isSwatch false) (beginSwatch 0) = true := by
  decide +kernel

theorem wit_swatchEnd : goes (streamOf ready 0 (sp 0x1000) [6 + 2 ^ 8, 1]) 0 (some true) (isSwatch true) (beginSwatchEnd 0) = true := by
  decide +kernel

/-! ### Commands of the other sequencers -/

/-- A sequencer beyond the tiles runs one command on a block 4096 bytes above its stream. -/
def unitRuns (q op fields n : Nat) (block : Nat) (more : List (Nat × Nat × Nat)) : Block :=
  let at1 := if isPlumbSeq q then plumbBase + 0x1000 else 0x1000
  let b := streamRead ready q at1 [blockCmd op (at1 + 0x1000) fields, 1]
  more.foldl (fun b x => memWrite b x.1 (natLe x.2.1 x.2.2)) (memWrite b (at1 + 0x1000) (natLe n block))

def factorBlock : Nat :=
  1 + 2 ^ 4 + 2 ^ 32 + 0x5000 * 2 ^ 128 + 0x6000 * 2 ^ 512 + plumbBase * 2 ^ 640 + 64 * 2 ^ 704 + 0x7000 * 2 ^ 768

theorem wit_solve : goes (unitRuns 512 0x20 0 128 factorBlock []) 512 none (fun w => cmdOpcode w == 0x20) (beginSolve 0) = true := by
  decide +kernel

/-- A group of one member, this module: GID 7, entry 5, one block, one context, list at 0x3000 (R374). -/
def groupBlk (epoch old : Nat) : Nat :=
  7 + epoch * 2 ^ 32 + 1 * 2 ^ 64 + 1 * 2 ^ 96 + 0x3000 * 2 ^ 128 + 5 * 2 ^ 224 + 1 * 2 ^ 240 + old * 2 ^ 256

def here (b : Block) : Block := odSetBit b 0x6000 2 0 true

def groupOf (state : Nat) (b : Block) : Block := groupPut b 5 ⟨state, false, false, 1, 0, 7, 1, 1, 1, 0, 0x3000, [⟨0, 0, false⟩], 0, [], [], []⟩

theorem wit_groupForm : goes (here (unitRuns 528 0x29 0 64 (groupBlk 1 0) [])) 528 none (isGroup 0) (beginForm 528 false) = true := by
  decide +kernel

theorem wit_groupReform : goes (here (groupOf 4 (unitRuns 528 0x29 (2 ^ 8) 64 (groupBlk 2 1) []))) 528 none (isGroup 1) (beginForm 528 true) = true := by
  decide +kernel

theorem wit_groupPark : goes (here (groupOf 2 (unitRuns 528 0x29 (2 ^ 9) 64 (groupBlk 1 0) []))) 528 none (isGroup 2) (beginPark 528 true) = true := by
  decide +kernel

theorem wit_groupDissolve : goes (here (groupOf 2 (unitRuns 528 0x29 (3 * 2 ^ 8) 64 (groupBlk 1 0) []))) 528 none (isGroup 3) (beginPark 528 false) = true := by
  decide +kernel

/-- ALLREDUCE of one FP32 element in a group of one (R382). -/
def collBlk : Nat := 1 + 1 * 2 ^ 6 + 5 * 2 ^ 16 + 1 * 2 ^ 64 + 0x100000 * 2 ^ 256 + 0x1000000 * 2 ^ 320 + 0x4000 * 2 ^ 512 + 0x4040 * 2 ^ 1024

def vec1 (base : Nat) : Nat := 0xE + 1 * 2 ^ 5 + base * 2 ^ 32 + 4 * 2 ^ 152

theorem wit_coll : goes (here (groupOf 2 (unitRuns 528 0x28 0 192 collBlk [(0x4000, 64, vec1 0x5000), (0x4040, 64, vec1 0x6000)]))) 528 none
    (fun w => cmdOpcode w == 0x28) (beginColl 528) = true := by
  decide +kernel

def armBlk : Nat := 1 * 2 ^ 8 + 5 * 2 ^ 16 + 0xFFFF * 2 ^ 32 + 1 * 2 ^ 64 + 0x3000 * 2 ^ 128 + 0x4000000 * 2 ^ 192 + 0x2000000 * 2 ^ 256 + 0x7000 * 2 ^ 384

theorem wit_arm : goes (here (groupOf 2 (unitRuns 544 0x30 0 64 armBlk [(0x3000, 16, 0x10000 + 0x10000 * 2 ^ 64)]))) 544 none
    (fun w => cmdOpcode w == 0x30) beginArm = true := by
  decide +kernel

def armed0 : ArmSt := ⟨0, 5, 0xFFFF, 1, [(0x10000, 0x10000)], 0x4000000, 0x2000000, 0, 0x7000, 0⟩

def restoreRuns : Block :=
  let b := unitRuns 544 0x31 0 64 (1 + 0x8000 * 2 ^ 64) [(0x8000, 8, 1 + 2 ^ 32)]
  { b with sketch := { b.sketch with armed := some armed0 } }

/-- RESTORE runs where the signature of its candidate is good. -/
theorem wit_restore (h : ∀ m a t, Config.manifestGood m a t = true) :
    goes restoreRuns 544 none (fun w => cmdOpcode w == 0x31) (beginRestore []) = true := by
  have hv : manifestValid = fun _ a m => (leNat (slice m 0 4) == 1 && leNat (slice m 8 8) == a.jobId.toNat) := by
    funext s a m; simp [manifestValid, h]
  have hb : beginRestore [] = beginRestore [] := rfl
  conv at hb => rhs; unfold beginRestore
  simp only [hv] at hb
  rw [hb]
  decide +kernel

/-! ### Commands that are refused -/

/-- A stream of one command on a block of zeros. -/
def zeroBlock (q op : Nat) : Block :=
  let at1 := if isTileSeq q then sp 0x1000 else if isPlumbSeq q then plumbBase + 0x1000 else 0x1000
  streamRead ready q at1 [blockCmd op (at1 + 0x1000) 0, 1]

theorem wit_loadStops : stops (zeroBlock 0 0x10) 0 none (fun w => cmdOpcode w == 0x10) (beginLoad 0) = true := by
  decide +kernel

theorem wit_fstreamStops : stops (zeroBlock 0 0x11) 0 none (fun w => cmdOpcode w == 0x11) (beginStream 0 false) = true := by
  decide +kernel

theorem wit_rawaddStops : stops (zeroBlock 0 0x13) 0 none (fun w => cmdOpcode w == 0x13) (beginRawAdd 0) = true := by
  decide +kernel

theorem wit_glazeStops : stops (zeroBlock 0 0x18) 0 none (fun w => cmdOpcode w == 0x18) (beginChain 0 .glaze ⟨none, none, 0⟩) = true := by
  decide +kernel

theorem wit_storeStops : stops (zeroBlock 0 0x19) 0 none isStore (beginChain 0 .store ⟨none, none, 0⟩) = true := by
  decide +kernel

theorem wit_copyStops : stops (zeroBlock 0 0x08) 0 none (fun w => cmdOpcode w == 0x08) (beginCopy 0) = true := by
  decide +kernel

theorem wit_moveStops : stops (streamOf ready 0 (sp 0x1000) [0x09 + 2 ^ 57, 1]) 0 none (fun w => cmdOpcode w == 0x09) (beginMove 0) = true := by
  decide +kernel

theorem wit_gatherStops : stops (zeroBlock 0 0x1C) 0 none (fun w => cmdOpcode w == 0x1C) (beginGather 0) = true := by
  decide +kernel

theorem wit_scatterStops : stops (streamOf ready 0 (sp 0x1000) [blockCmd 0x1D (sp 0x2000) (2 ^ 10), 1]) 0 none (isScatter 1) (beginScatter 0 1) = true := by
  decide +kernel

theorem wit_solveStops : stops (zeroBlock 512 0x20) 512 none (fun w => cmdOpcode w == 0x20) (beginSolve 0) = true := by
  decide +kernel

theorem wit_collStops : stops (zeroBlock 528 0x28) 528 none (fun w => cmdOpcode w == 0x28) (beginColl 528) = true := by
  decide +kernel

theorem wit_armStops : stops (zeroBlock 544 0x30) 544 none (fun w => cmdOpcode w == 0x30) beginArm = true := by
  decide +kernel

end Sys2Proof.Tests
end

