-- ==== Sys2Proof/Tests/Slice0.lean ====
section
/-! SUPPORT. An ill-formed term for each check of WellFormed, the worked examples of the spec, and single steps. Every expected
value is the spec's: each test names the section it comes from. -/

namespace Sys2Proof.Tests

open Sys2Proof Sys2Proof.Machine

set_option Elab.async false

/-! ### WellFormed: one command that each check refuses, and one that it passes -/

def zeros (n : Nat) : List Byte := List.replicate n 0
def header : PktHdr := ⟨1, 7, 0, 0, 0, 17⟩
def tagged : TagExt := ⟨false, 4, 0, false, 1, 1⟩
def reply : RspHdr := ⟨1, 7, 4, 0⟩
def someone : Origin := ⟨.operator, .t1s, 0, 0⟩
def asked : SessReq := ⟨1, 4, true⟩
def agent : Agent := ⟨1, 11⟩
def someMember : TrussHdr := ⟨7, 0, 1⟩
def flitOf (n : Nat) : Flit := ⟨0, 0, .data, 0, 5, true, false, List.replicate n 0⟩
def itemOf : BlockItem := ⟨0x5100, 1, 0, []⟩

theorem test_wf_flit : Instr.wf (.flitReceived 17 (flitOf 16)) = false ∧ Instr.wf (.flitReceived 17 (flitOf 15)) = true := by decide +kernel
theorem test_wf_rdrsp : Instr.wf (.rdrsp reply .ok (zeros 257)) = false ∧ Instr.wf (.rdrsp reply .ok (zeros 256)) = true := by decide +kernel
theorem test_wf_wr : Instr.wf (.wr header []) = false ∧ Instr.wf (.wr header (zeros 257)) = false ∧ Instr.wf (.wr header (zeros 256)) = true := by decide +kernel
theorem test_wf_red : Instr.wf (.red header tagged []) = false ∧ Instr.wf (.red header tagged (zeros 4)) = true := by decide +kernel
theorem test_wf_bulk : Instr.wf (.bulk header (zeros 257)) = false ∧ Instr.wf (.bulk header (zeros 1)) = true := by decide +kernel
theorem test_wf_cput : Instr.wf (.cput agent 5 1 (some (zeros 127))) = false ∧ Instr.wf (.cput agent 5 1 none) = true := by decide +kernel
theorem test_wf_cdata : Instr.wf (.cdata 1 0 5 1 false .ok (zeros 64)) = false ∧ Instr.wf (.cdata 1 0 5 1 false .ok (zeros 128)) = true := by decide +kernel
theorem test_wf_cack : Instr.wf (.cack agent 5 1 (some [])) = false ∧ Instr.wf (.cack agent 5 1 (some (zeros 128))) = true := by decide +kernel
theorem test_wf_chunkData : Instr.wf (.chunkData someMember ⟨false, false, 0, 0⟩ 0 (zeros 257)) = false := by decide +kernel
theorem test_wf_scribe : Instr.wf (.scribe 1 (List.replicate 113 (0, 0, 0)) false) = false := by decide +kernel
theorem test_wf_restore : Instr.wf (.restore [[], [], []]) = false := by decide +kernel
theorem test_wf_blockRead : Instr.wf (.blockRead asked (List.replicate 65 itemOf)) = false := by decide +kernel
theorem test_wf_blockWrite : Instr.wf (.blockWrite asked (List.replicate 65 itemOf)) = false := by decide +kernel
theorem test_wf_transportData : Instr.wf (.transportData ⟨0, 0, 0, true, 3, 0, 1, 0, 0, 0, zeros 9001⟩) = false := by decide +kernel
theorem test_wf_standbyReached : Instr.wf (.standbyReached [65536]) = false := by decide +kernel
theorem test_wf_readyReached : Instr.wf (.readyReached [528] [] [] []) = false ∧ Instr.wf (.readyReached [] [737] [] []) = false ∧
    Instr.wf (.readyReached [] [] [18] []) = false ∧ Instr.wf (.readyReached [] [] [] [16]) = false ∧
    Instr.wf (.readyReached [527] [736] [17] [15]) = true := by decide +kernel
/-- A manifest is at most 8 MiB. The lengths are reasoned about, not built. -/
theorem test_wf_jobManifest (m : List Byte) (h : m.length = 8388609) : Instr.wf (.jobManifest someone m) = false := by
  simp [Instr.wf, h]

/-! ### Number formats (chapter 2) -/

/-- "The S4 elements +3, −2, +7 and −7, in index order, pack into the two bytes 0xE3 and 0x97." -/
theorem test_packing : packCodes 4 [3, wrapInt 4 (-2), 7, wrapInt 4 (-7)] = [0xE3, 0x97] := by decide +kernel
/-- The table of codes under R47: S8 0x80 is read as −127, S4 0b1001 is −7, G16 0x8001 is −32,767. -/
theorem test_codes : (intCode 0 0x80).1 = -127 ∧ (intCode 4 0b1001).1 = -7 ∧ (intCode 6 0b1111).1 = 15 ∧ (intCode 8 0x8001).1 = -32767 ∧
    (intCode 8 0x0100).1 = 256 := by decide +kernel
/-- The sixteen strain-energy densities of the example of quantisation, in FP32. -/
def densities : List FV := ([0x4013D70A, 0xBF88F5C3, 0x3F000000, 0x407CCCCD, 0xC067AE14, 0, 0x3FA00000, 0xBEA8F5C3, 0x40333333, 0xC009999A,
  0x3F68F5C3, 0x3FDC28F6, 0xBF23D70A, 0x40466666, 0xBFF0A3D7, 0x3E8A3D71]).map (fpDecode fp32)
/-- The example of quantisation: T = 2^−7, block scale 0x20, and the codes of its table. -/
theorem test_quantise : quantise 0 0x3C000000 densities none = some ⟨0x20, [0x4A, 0xDE, 0x10, 0x7E, 0x8C, 0, 0x28, 0xF5, 0x5A, 0xBB, 0x1D, 0x37,
    0xEC, 0x63, 0xC4, 0x09], 0⟩ := by decide +kernel
/-- "The same block converted to S4 … the smallest B8 value at or above r is 76 (0x63)". -/
theorem test_quantise_s4 : (quantise 4 0x3C000000 densities none).map (·.scale) = some 0x63 := by decide +kernel

/-! ### Products (chapters 3 and 4) -/

def scaledRow (b8 : Nat) (codes : List Int) : List Scaled := codes.map (fun c => ⟨c, b8, false, false⟩)
/-- The streamed row and the stationary codes of the worked output element of chapter 3. -/
def streamed : List Scaled := scaledRow 0x20 [74, -34, 16, 126, -116, 0, 40, -11, 90, -69, 29, 55, -20, 99, -60, 9] ++
  scaledRow 0x18 [10, -5, 0, 0, 20, 0, 0, 0, 0, 0, 0, 0, 0, 0, 0, -1]
def stationary : List Int := [1, 2, 0, -1, 1, 0, 3, 0, -2, 1, 0, 0, 1, 0, -1, 2, 127, 0, 3, 0, -2, 0, 0, 0, 0, 0, 0, 0, 0, 0, 0, 5]
/-- "X = −8,802,304 + 71,500,800 = 62,698,496". -/
theorem test_cell_sum : rowSum streamed none (fun k => stationary.getD k 0) (fun j => [0x4C, 0x63].getD j 0) = 62698496 := by decide +kernel
/-- "Ta = 2^−7 and Tb = 0x3DCC_CCCD … with code 0x433F_5733." -/
theorem test_cell_store : (drainInt fp32 62698496 (some (scaleProduct 0x3C000000 0x3DCCCCCD))).val = 0x433F5733 := by decide +kernel

/-- The worked element of chapter 4: α = 0 for the row, β = −5 for the column; the slices of b_2 = 1 − 2^−20 and a_1 = −0.3125. -/
theorem test_slices : scanExp (.fin false 96 0) = 0 ∧ scanExp (.fin false 3 0) = -5 ∧
    slices (.fin false (2 ^ 20 - 1) (-20)) (-5) 6 = some [31, 255, 254, 0, 0, 0] ∧
    slices (.fin true 5 (-4)) 0 6 = some [wrapInt 8 (-1), 176, 0, 0, 0, 0] := by decide +kernel
/-- "The store scales by 2^−45 … so r = 0x4048_07FF_F800_0000." -/
theorem test_split_store : (drainSplit fp64 0x601FFFE000000 (-45)).val = 0x404807FFF8000000 := by decide +kernel

/-- The GELU example of chapter 5: code 150 covers z = 0.71, and D[150] lies between the derivatives of its segment's ends, 0.970664
and 0.985326 (log 13). -/
theorem test_stencil_code : stencilCode 0 2 5 (fpDecode fp32 0x3F35C28F) = 150 ∧
    0x3F787D6F < stencilBuiltin 2 150 ∧ stencilBuiltin 2 150 < 0x3F7C3E53 := by decide +kernel

/-! ### Commands, synchronisation and cores (chapters 7, 8 and 10) -/

/-- "WAIT on object 576 for VALUE 3 is 0x0000_0000_0000_0003_0000_0000_0002_4003." -/
theorem test_wait_word : let w : BitVec 128 := 0x00000000000000030000000000024003
    cmdOpcode w = 3 ∧ (waitObj w).toNat = 576 ∧ waitValue w = 3 ∧ cmdReserved w = false := by decide +kernel
/-- "SIGNAL ADD 1 to object 577 of the module in slot 13 is 0x0000_0000_0000_0001_0000_0023_4241_0004". -/
theorem test_signal_word : let w : BitVec 128 := 0x00000000000000010000002342410004
    isSignal false w = true ∧ signalObj w = 577 ∧ cmdBits w 30 7 = 13 ∧ bit w.toNat 37 = true ∧ signalValue w = 1 ∧ cmdReserved w = false := by
  decide +kernel
/-- The scatter of chapter 7: "16,777,216 (16,777,217 ties to even)". -/
theorem test_scatter_add : combineAop 0x0E 1 = 6 ∧ aopResult 4 6 0x4B800000 0x3F800000 0 = some 0x4B800000 ∧
    aopResult 4 6 0 0x40600000 0 = some 0x40600000 := by decide +kernel

/-! ### Memory, fabric, collectives and the dictionary (chapters 11, 12, 14 and 17) -/

/-- Address 0x12_3456_7A80 of a GLOBAL region: p = 0x051, pseudo-channel 17 of stack 2; in DIE-LOCAL(3), p = 470 of stack 14. -/
theorem test_channel : channelOf State.reset.toBlock 0x1234567A80 = 81 ∧ stackOf State.reset.toBlock 0x1234567A80 = 2 ∧
    physOf State.reset.toBlock 0x1234567A80 % 0x200000 = 0x1A2B80 ∧
    channelOf (odSetByte State.reset.toBlock 0x3000 1 72 0x13) 0x1234567A80 = 470 := by decide +kernel
/-- "v = 0x800_0007 and w = … 0x801_000F … That gives k = 3." -/
theorem test_plane : nominalPlane 0x400000380 40 = 3 := by decide +kernel
/-- Four members reduce one FP32 element: P_0 + P_1 = 2, and every member receives 0x4000_0000. -/
theorem test_truss_sum : let leaf := leafValue 2 0x0E 0
    sumResult 2 0x0E 0 [sumAdd 2 (sumAdd 2 (leaf 0x4B800000 0) (leaf 0x3F800000 0)) (sumAdd 2 (leaf 0x3F800000 0) (leaf 0xCB800000 0))] =
      some [0, 0, 0, 0x40] := by decide +kernel
/-- "WAIT_LIMIT, OD 0x4330.01, lies at module-local address … 0x1F0_0219_8008." -/
theorem test_window : windowIndex 0x1F002198008 = 0x4330 ∧ windowSub 0x1F002198008 = 1 := by decide +kernel

/-! ### Single steps -/

/-- The table gives no row any bits. -/
theorem test_decode : decodeTableWord 32 0x13 = none := by decide +kernel
theorem test_reset_memory : memoryOk State.reset.toBlock = true := by decide +kernel

/-- The state that a step answers. -/
def after (b : Block) (i : Instr) : Option Block :=
  match step ⟨b, [i]⟩ with
  | .next t => some t.toBlock
  | _ => none
/-- R567: with 64 V and MOD_EN the input is on; the module stays in OFF-AO. -/
theorem test_inputApplied : ((after State.reset.toBlock .inputApplied).map (fun b => (b.power.inputOn, b.power.modEn, powerState b))) = some (true, true, 0) := by
  decide +kernel
/-- R268: a write of otnmtcmp from machine mode takes rs1 (here 77), and pc goes on. -/
theorem test_otnmtcmp : ((after (hartPut (odPut ready 0x2000 1 3) 0 { hartAt ready 0 with held := false, pc := 0x1000, x := [(5, 77)] }) (.otnmtcmp 0 ⟨0, 5⟩)).map
    (fun b => ((hartAt b 0).otnmtcmp, (hartAt b 0).pc))) = some (77, 0x1004) := by decide +kernel
/-- R192: HALT grows n by one and the sequencer stays RUNNING; the stream is gone. -/
theorem test_halt : ((after (streamOf ready 0 (sp 0x1000) [1]) (.halt 0)).map (fun b => ((seqAt b 0).n, (seqAt b 0).running, (seqAt b 0).stream == none))) =
    some (1, true, true) := by decide +kernel
/-- R199, R203: SIGNAL ADD of 3 to object 9. -/
theorem test_signalAdd : ((after (streamOf ready 0 (sp 0x1000) [signalCmd, 1]) (.signalAdd 0)).map (fun b => syncAt b 9)) = some ⟨3, false⟩ := by decide +kernel
/-- R199: MOVE copies 64 bytes of the scratchpad. -/
theorem test_move : ((after (memWrite (streamOf ready 0 (sp 0x1000) [0x09 + (sp 0x2000 / 64) * 2 ^ 16 + (sp 0x3000 / 64) * 2 ^ 58, 1]) (sp 0x2000) [7, 8]) (.move 0)).map
    (fun b => memRead b (sp 0x3000) 3)) = some [7, 8, 0] := by decide +kernel
/-- R85: RAWADD into an empty bank latches its product and its count. -/
theorem test_rawadd : ((after (tileRuns 0x13 0 64 (scratchBase 0 + 0x3FF0000000000000 * 2 ^ 64 + 1 * 2 ^ 128) []) (.rawadd 0)).map
    (fun b => ((tileAt b 0).bankA.empty, (tileAt b 0).bankA.prod))) = some (false, some 0x3FF0000000000000) := by decide +kernel
/-- Log 3: an empty queue lets a clock cycle pass and changes no object. -/
theorem test_idle : (match step ⟨ready, []⟩ with
    | .next t => (t.clk.cycle - ready.clk.cycle, t.sync.length)
    | _ => (0, 1)) = (1, 0) := by decide +kernel

end Sys2Proof.Tests
end

