-- ==== Sys2Proof/Tests/Witnesses.lean ====
section
/-! SUPPORT. For each statement with hypotheses, states and operands that meet them: one theorem for a statement, with its clauses.
The statements about the commands of a stream have theirs in Tests/Streams.lean. -/

namespace Sys2Proof.Tests
open Sys2Proof Sys2Proof.Machine

set_option Elab.async false

/-- The module in RUN, with hart 0 started in machine mode at 0x1000 and x1 to x3 as given. -/
def core (x1 x2 x3 : Word) : Block :=
  let b := odPut State.reset.toBlock 0x2000 1 3
  hartPut b 0 { hartAt b 0 with held := false, pc := 0x1000, x := [(1, x1), (2, x2), (3, x3)].filter (fun e => e.2 != 0) }

/-- Where no translation is in use and PMP lets an address pass, it translates to itself. -/
theorem translate_bare {b : Block} {h : HartId} {va : Nat} {f : AccessFor}
    (hk : ((decide (effectivePriv (hartAt b h) f = .machine) || bits (csrGet (hartAt b h) 0x180).toNat 60 4 != 9) &&
      pmpOk (hartAt b h) (effectivePriv (hartAt b h) f) f va) = true)
    (hs : (hartAt b h).sampling = none := by decide +kernel) : Machine.translate b h va f = .found b va := by
  simp only [Bool.and_eq_true, Bool.or_eq_true, decide_eq_true_eq, bne_iff_ne] at hk
  simp only [Machine.translate, translated]
  rw [if_pos hk.1, if_pos hk.2]
  simp [noteAccess, hs]

/-- A hart that is started, takes no interrupt and whose pc is reached without translation issues. -/
theorem issues_bare {b : Block} {h : HartId} (hk : ((hartReady b h && !timerTaken (hartAt b h) && fetchable b h (hartAt b h).pc.toNat) &&
    ((decide (effectivePriv (hartAt b h) .fetch = .machine) || bits (csrGet (hartAt b h) 0x180).toNat 60 4 != 9) &&
      pmpOk (hartAt b h) (effectivePriv (hartAt b h) .fetch) .fetch (hartAt b h).pc.toNat)) = true)
    (hs : (hartAt b h).sampling = none ∧ sampleOn b 1 = false := by decide +kernel) {w : Issued} : Issues b h w b := by
  rw [Bool.and_eq_true] at hk
  obtain ⟨h1, h2⟩ := hk
  simp only [Bool.and_eq_true, Bool.not_eq_true'] at h1
  exact ⟨h1.1.1, h1.1.2, _, _, translate_bare h2 hs.1, h1.2, by simp [noteIssue, sampleNext, hs.2]⟩
theorem issues_core : Issues (core 0 0 0) 0 ⟨0, 0⟩ (core 0 0 0) := issues_bare (by decide +kernel)

/-! ### Streams -/

/-- Tile 0's stream table holds an entry of one command at 0x1000, with DONE enabled and a record; its launch object reads 1. -/
def launched : Block :=
  syncPut (memWrite ready (scratchBase 0 + 0x5FE000) (natLe 32 (0x1000 + 2 ^ 86 + 0x3000 * 2 ^ 128))) 0 ⟨1, false⟩
theorem wit_LaunchTakesTheEntry :
    let w := (seqUnits launched 0).foldl wakeUnit launched
    let a := streamTable w 0 + 32 * ((seqAt w 0).n % 256)
    let b := (homeRead w a 0 32).1
    let v := memLe b a 32
    launchReady launched 0 = true ∧ (isTileSeq 0 && tileAbsent w 0) = false ∧ unitFree w a 32 false = true ∧
    accessStatus w (seqOwner w 0) .read a 32 = none ∧ bits v 87 41 = 0 ∧ bits v 176 80 = 0 ∧ bits v 0 48 % 16 = 0 ∧
    seqMem b 0 (bits v 0 48) 16 = true ∧ bits v 128 48 ≠ 0 ∧ bits v 128 48 % 32 = 0 ∧ seqMem b 0 (bits v 128 48) 32 = true := by
  decide +kernel

theorem wit_HaltEndsTheStream : ∃ (st : StreamSt) (c : CmdSlot), (seqAt (settled (streamOf ready 0 (sp 0x1000) [1]) 0) 0).stream = some st ∧
    firstOf st (fun w => cmdOpcode w == 1) = some c ∧ st.stop = none ∧ st.waiting = none ∧ allDone st c.idx = true ∧
    cmdReserved c.word = false := by
  refine ⟨_, _, rfl, rfl, ?_⟩
  decide +kernel

theorem wit_SignalsActOnTheirObject :
    (syncAt ready 5).aborted = false ∧ (syncAt (syncPut ready 5 ⟨3, true⟩) 5).aborted = true ∧
    (seqAt (seqPut ready 544 { seqAt ready 544 with running := false }) 544).running = false := by
  decide +kernel

/-- A WAIT on object 9 for the count 2. -/
def waitCmd : Nat := 3 + 9 * 2 ^ 8 + 2 * 2 ^ 64
def waiting (o : SyncObj) : Block := syncPut (streamOf ready 0 (sp 0x1000) [waitCmd, 1]) 9 o
def waitSlot : CmdSlot := ⟨0, BitVec.ofNat 128 waitCmd, .fetched, [], [], .ok, 0, 0, 0, false, false, []⟩
theorem wit_WaitsAreReleasedAbortedOrPending :
    (∃ c : CmdSlot, nextWait (settled (waiting ⟨2, false⟩) 0) 0 = some c) ∧ cmdReserved waitSlot.word = false ∧
    (syncAt (waiting ⟨2, false⟩) (waitObj waitSlot.word).toNat).aborted = false ∧
    (waitValue waitSlot.word).toNat ≤ (syncAt (waiting ⟨2, false⟩) (waitObj waitSlot.word).toNat).count.toNat ∧
    (syncAt (waiting ⟨2, true⟩) (waitObj waitSlot.word).toNat).aborted = true ∧
    (syncAt (waiting ⟨1, false⟩) (waitObj waitSlot.word).toNat).aborted = false ∧
    (syncAt (waiting ⟨1, false⟩) (waitObj waitSlot.word).toNat).count.toNat < (waitValue waitSlot.word).toNat ∧
    (seqAt (waiting ⟨1, false⟩) 0).stream.isSome = true := by
  refine ⟨⟨_, rfl⟩, ?_⟩
  decide +kernel

/-- Tile 0 waits since 0 for object 9 to reach 2; WAIT_LIMIT is 1 µs and hall time is 2 µs. -/
def pendingNow (o : SyncObj) : Block :=
  let b := odPut (syncPut ready 9 o) 0x4330 1 1
  let b := { b with clk := { b.clk with hall := 2000 } }
  let b := hartPut b 0 { hartAt b 0 with blocked := some (.syncWait 5 9 2 0) }
  seqPut b 0 { seqAt b 0 with stream := some ⟨0x1000, 2, 0, false, 0, [waitSlot], 1, none, .ok, some ⟨0, 9, 2, 0⟩⟩ }
theorem wit_PendingWaitsEnd :
    pendingWait (pendingNow ⟨2, false⟩) 0 = some ⟨0, 9, 2, 0⟩ ∧ waitMet (pendingNow ⟨2, false⟩) 9 2 = true ∧
    pendingWait (pendingNow ⟨1, false⟩) 0 = some ⟨0, 9, 2, 0⟩ ∧ waitMet (pendingNow ⟨1, false⟩) 9 2 = false ∧
    waitLimitPassed (pendingNow ⟨1, false⟩) 0 = true ∧
    (hartAt (pendingNow ⟨1, false⟩) 0).blocked = some (.syncWait 5 9 2 0) := by
  decide +kernel

theorem wit_StartedTileCommandsComplete :
    let slot : Nat → CmdSlot := fun w => ⟨0, BitVec.ofNat 128 w, .started, [], [], .ok, 0, 0, 0, false, false, []⟩
    let st : Nat → StreamSt := fun w => ⟨0x1000, 1, 0, false, 0, [slot w], 1, none, .ok, none⟩
    let b : Nat → Block := fun w => seqPut ready 0 { seqAt ready 0 with stream := some (st w) }
    ((st 8).win.find? (fun c => c.idx == 0 && c.phase == .started && completesHere 0 c.word) = some (slot 8) ∧ awaits (b 8) 0 0 = false) ∧
    ((tileAt (tilePut (b 0x10) 0 { tileAt (b 0x10) 0 with loading := some (some (tileAt ready 0).active) }) 0).loading = some (some (tileAt ready 0).active) ∧
      (tileAt (tilePut (b 0x10) 0 { tileAt (b 0x10) 0 with loading := some none }) 0).loading = some none ∧
      (st 0x10).win.find? (fun c => c.phase == .started && cmdOpcode c.word == 0x10) = some (slot 0x10)) := by
  decide +kernel

theorem wit_TableReloadsEnd :
    let b := tilePut ready 511 { tileAt ready 511 with stReload := 2 ^ 31, pwpReload := 2 ^ 31 }
    bit (tileAt b 511).stReload.toNat 31 = true ∧ bit (tileAt b 511).pwpReload.toNat 31 = true := by
  decide +kernel

theorem wit_FailedTilesAreReplaced :
    let noSpare := diePut ready 0 { dieAt ready 0 with used := 15 }
    let onSpare := tilePut ready 0 { tileAt ready 0 with phys := some 3 }
    let testing := tilePut ready 0 { tileAt ready 0 with testing := some 2 }
    (unitsOn ready = true ∧ (tileAt ready 0).phys = some 0 ∧ (tileAt ready 0).testing = none) ∧
    nextSpare ready (dieOfTile 0) = some 0 ∧ nextSpare noSpare (dieOfTile 0) = none ∧ (tileAt onSpare 0).phys = some (2 + 1) ∧ (tileAt testing 0).testing = some 2 := by
  decide +kernel

theorem wit_CommandWritesTouchOnlyTheirBytes : memoryOk ready = true ∧
    (∀ w ∈ [(⟨0x5000, 255, 7⟩ : WByte)], isOwn ready w.addr = true → rackLocal w.addr ≠ 0x5001) := by
  decide +kernel

theorem wit_StampStoresHallTime :
    let c : CmdSlot := ⟨0, BitVec.ofNat 128 (5 + 2 ^ 8 + 0x6008 * 2 ^ 16), .fetched, [], [], .ok, 0, 0, 0, false, false, []⟩
    let a := cmdBits c.word 16 48
    a % 8 = 0 ∧ seqMem ready 0 a 8 = true ∧ rackPopulated ready a = true ∧ unitFree ready (rackLocal a) 8 true = true ∧
    refusedLines ready 0 (wBytes a 8 (hallNat ready)) = [] := by
  decide +kernel

theorem wit_MoveCopiesItsSource :
    let move := fun (src dst : Nat) => (⟨0, BitVec.ofNat 128 (9 + src / 64 * 2 ^ 16 + dst / 64 * 2 ^ 58 + 1 * 2 ^ 100), .fetched, [], [], .ok, 0, 0, 0, false, false, []⟩ : CmdSlot)
    let ok := fun (src dst : Nat) => cmdBits (move src dst).word 8 2 ≠ 3 ∧ cmdBits (move src dst).word 10 2 ≠ 3 ∧
      seqMem ready 0 src 128 = true ∧ seqMem ready 0 dst 128 = true
    ok 0x2000 0x2000 ∧ (ok 0x2000 0x2040 ∧ meets (spanAt 0x2000 128) (spanAt 0x2040 128) = true) ∧
    (ok 0x2000 0x2080 ∧ meets (spanAt 0x2000 128) (spanAt 0x2080 128) = false ∧
      (operandWait ready 0 0 (move 0x2000 0x2080) [(0x2000, 128)] [(0x2080, 128)]).isNone = true) := by
  decide +kernel
theorem wit_SwatchesBeginAndEnd : cmdBits (BitVec.ofNat 128 (6 + 2 ^ 8)) 64 48 = 0 := by decide +kernel

theorem wit_BlocksTakeTheSmallestScale :
    ((0 : Nat) < 1 ∧ ((1 : Nat) * (2 : ℚ) ^ (0 : Int)) / (((1 : Nat) * (2 : ℚ) ^ (0 : Int)) * (largestCode 0 : ℚ)) ≤ 1) ∧
    (∀ c : Nat, c < 256 → (b8Sig c : ℚ) * (2 : ℚ) ^ b8Exp c < ((1 : Nat) * (2 : ℚ) ^ (24 : Int)) / (((1 : Nat) * (2 : ℚ) ^ (0 : Int)) * (largestCode 0 : ℚ))) ∧
    (largestCode 0 : Int) < 128 ∧ -128 < -(largestCode 0 : Int) := by
  refine ⟨⟨by decide, by norm_num [largestCode]⟩, fun c hc => ?_, by decide, by decide⟩
  have h1 : (b8Sig c : ℚ) ≤ 31 := by
    have : b8Sig c ≤ 31 := by unfold b8Sig; omega
    exact_mod_cast this
  have h2 : (2 : ℚ) ^ b8Exp c ≤ 2 ^ (11 : Int) := by
    apply zpow_le_zpow_right₀ (by norm_num)
    unfold b8Exp; omega
  have h3 : (0 : ℚ) ≤ 2 ^ b8Exp c := by positivity
  calc (b8Sig c : ℚ) * (2 : ℚ) ^ b8Exp c ≤ 31 * 2 ^ (11 : Int) := by gcongr
    _ < _ := by norm_num [largestCode]

/-! ### Plumb -/

/-- Group 0 solves one problem of the given descriptor, as command 0 of its stream; `p` is the problem's progress. -/
def solveOf (v deadline : Nat) (p : ProbSt) : SolveSt :=
  ⟨0, { solveDesc v with deadline := BitVec.ofNat 64 deadline }, tset prob0 [] 0 p, 0, 0, 0, 0, 0⟩
def solving (v deadline : Nat) (p : ProbSt) : Block :=
  let slot : CmdSlot := ⟨0, 0x20, .started, [], [], .ok, 0, 0, 0, false, false, []⟩
  let b := { ready with clk := { ready.clk with hall := 1000 } }
  solvePut (seqPut b 512 { seqAt b 512 with stream := some ⟨0x1000, 1, 0, false, 0, [slot], 1, none, .ok, none⟩ }) 0 (some (solveOf v deadline p))
/-- A Cholesky factorisation of order 1, and a QP of one stage with one state and one input (R227, R231). -/
def factorBlk : Nat := 1 + 2 ^ 4 + 2 ^ 32 + 0x5000 * 2 ^ 128 + 0x6000 * 2 ^ 512 + plumbBase * 2 ^ 640 + 64 * 2 ^ 704 + 0x7000 * 2 ^ 768
def qpBlk : Nat := 7 + 2 ^ 32 + 2 ^ 48 + 2 ^ 64 + 2 ^ 80 + 0x5000 * 2 ^ 128 + 0x6000 * 2 ^ 384 + plumbBase * 2 ^ 640 + 0x1000 * 2 ^ 704 + 0x7000 * 2 ^ 768

def started0 : ProbSt := { prob0 with started := true }
def begun0 : ProbSt := { prob0 with started := true, begun := true }
/-- `n` words of 1 from address `a` on. -/
def onesFrom : Nat → Nat → List Host.Cell
  | _, 0 => []
  | a, n + 1 => (a + 6, 0xF0) :: (a + 7, 0x3F) :: onesFrom (a + 8) n
theorem onesFrom_low (n : Nat) : ∀ a k : Nat, k < a + 6 → Memory.byte (onesFrom a n) k = 0 := by
  induction n with
  | zero => intro a k _; rfl
  | succ n ih =>
    intro a k h
    simp only [Memory.byte, onesFrom, tget]
    rw [if_neg (by omega), if_neg (by omega)]
    exact ih (a + 8) k (by omega)
theorem onesFrom_byte (n : Nat) : ∀ a m j : Nat, m < n → j < 8 →
    Memory.byte (onesFrom a n) (a + 8 * m + j) = if j = 6 then 0xF0 else if j = 7 then 0x3F else 0 := by
  induction n with
  | zero => intro _ _ _ h; omega
  | succ n ih =>
    intro a m j hm hj
    simp only [Memory.byte, onesFrom, tget]
    cases m with
    | zero =>
      have h := onesFrom_low n (a + 8) (a + j) (by omega)
      simp only [Memory.byte] at h
      split
      · rw [if_pos (by omega)]
      · split
        · rw [if_neg (by omega), if_pos (by omega)]
        · rw [if_neg (by omega), if_neg (by omega)]; exact h
    | succ m =>
      have h := ih (a + 8) m j (by omega) hj
      rw [if_neg (by omega), if_neg (by omega), show a + 8 * (m + 1) + j = a + 8 + 8 * m + j by omega]
      exact h
/-- The QP's workspace holds 1 in every word after its header. -/
def ones (b : Block) : Block := { b with mem := onesFrom (plumbBase + 64) 80 }
theorem ones_word (b : Block) (m : Nat) (hm : m < 80) : f64At (ones b) (plumbBase + 64 + 8 * m) = 0x3FF0000000000000 := by
  have hb : ∀ j : Nat, j < 8 → Memory.byte (onesFrom (plumbBase + 64) 80) (plumbBase + 64 + 8 * m + j) =
      if j = 6 then 0xF0 else if j = 7 then 0x3F else 0 := fun j hj => onesFrom_byte 80 _ m j hm hj
  have ha : rackLocal (plumbBase + 64 + 8 * m) = plumbBase + 64 + 8 * m := by
    have : plumbBase = 0x11000000000 := rfl
    unfold rackLocal; omega
  unfold f64At
  rw [ha]
  generalize plumbBase + 64 + 8 * m = c at hb ⊢
  simp only [memLe, memRead, ones, Memory.read, Nat.add_assoc, Nat.reduceAdd]
  rw [show Memory.byte (onesFrom (plumbBase + 64) 80) c = _ from hb 0 (by omega), hb 1 (by omega), hb 2 (by omega), hb 3 (by omega),
    hb 4 (by omega), hb 5 (by omega), hb 6 (by omega), hb 7 (by omega)]
  decide

/-- The QP's data hold a NaN. -/
def nanData (b : Block) : Block := memWrite b 0x5000 (natLe 8 0x7FF8000000000000)

/-- Whether problem 0 of group 0 is in flight, its lines are free and its home refuses none. -/
def inHand (b : Block) : Bool :=
  match solveAt b 0 with
  | none => false
  | some x => inFlight x 0 && probFree b x.desc 0 && probRefusal b x.desc 0 == none && replayEnding b 0 0 == none &&
      accessStatus b none .read (rackLocal (workAt b 0 x.desc 0)) (footprint x.desc) == none

/-- An iteration whose factorisation, from the iterate that the workspace holds, meets no bad pivot commits. -/
theorem iterates {s : Block} {g i : Nat} {x : SolveSt} {p : ProbSt} {data ws : List Nat} (hw : slotWords s x.desc (workAt s g x.desc i) p.cur = ws)
    (hf : (qpFacAt s g i x p data (qpIter x.desc ws)).2.piv.bad = false) : (qpIterateOnce s g i x p data).2.2 = true := by
  unfold qpIterateOnce
  simp only [hw, hf]
  rfl

def qpX : SolveSt := solveOf qpBlk 0 begun0
def qpDesc : SolveDesc := qpX.desc
/-- Slot 0 of the workspace reads ones, wherever the implementation puts it. -/
theorem ones_slot : slotWords (ones (solving qpBlk 0 begun0)) qpDesc plumbBase 0 = List.replicate 17 0x3FF0000000000000 := by

  have h : ∀ n : Fin 120, qpAreaIn qpDesc n 0 = 64 + 8 * ((qpAreaIn qpDesc n 0 - 64) / 8) ∧ (qpAreaIn qpDesc n 0 - 64) / 8 < 60 := by decide +kernel
  obtain ⟨h1, h2⟩ := h ⟨Config.qpOrder % 120, Nat.mod_lt _ (by decide)⟩
  dsimp only at h1 h2
  have hv : qpV qpDesc = 17 := by decide +kernel
  rw [List.eq_replicate_iff]
  refine ⟨by simp [slotWords, hv], fun v hm => ?_⟩
  simp only [slotWords, List.mem_map, List.mem_range, hv] at hm
  obtain ⟨k, hk, rfl⟩ := hm
  unfold qpAreaAt
  rw [show plumbBase + qpAreaIn qpDesc (Config.qpOrder % 120) 0 + 8 * k = plumbBase + 64 + 8 * ((qpAreaIn qpDesc (Config.qpOrder % 120) 0 - 64) / 8 + k) by omega]
  exact ones_word _ _ (by omega)

/-- An iteration that commits, and one from an iterate of zeros, which ends at a pivot. -/
theorem iterates_ones : (qpIterateOnce (ones (solving qpBlk 0 begun0)) 0 0 qpX (probAt qpX 0) (qpData (ones (solving qpBlk 0 begun0)) qpX.desc 0)).2.2 = true := by
  refine iterates (ws := List.replicate 17 0x3FF0000000000000) ?_ ?_
  · have h : workAt (ones (solving qpBlk 0 begun0)) 0 qpX.desc 0 = plumbBase := by decide +kernel
    rw [h]
    exact ones_slot
  · decide +kernel
theorem ends_zeros : (qpIterateOnce (solving qpBlk 0 begun0) 0 0 qpX (probAt qpX 0) (qpData (solving qpBlk 0 begun0) qpX.desc 0)).2.2 = false := by
  decide +kernel

theorem wit_PlumbProblemsEnd :
    (inHand (solving factorBlk 0 started0) = true ∧ (solveOf factorBlk 0 started0).desc.cls ≠ 7 ∧
      deadlineDue (solving factorBlk 0 started0) (solveOf factorBlk 0 started0).desc = false ∧
      deadlineDue (solving factorBlk 1000 started0) (solveOf factorBlk 1000 started0).desc = true) ∧
    (inHand (solving qpBlk 0 started0) = true ∧ inHand (nanData (solving qpBlk 0 started0)) = true ∧ inHand (solving qpBlk 0 begun0) = true ∧
      inHand (ones (solving qpBlk 0 begun0)) = true ∧ (solveOf qpBlk 0 started0).desc.cls = 7 ∧
      deadlinePast (solving qpBlk 0 started0) (solveOf qpBlk 0 started0).desc = false ∧
      deadlinePast (solving qpBlk 999 started0) (solveOf qpBlk 999 started0).desc = true ∧
      deadlineDue (solving qpBlk 1000 started0) (solveOf qpBlk 1000 started0).desc = true) ∧
    (qpBadData qpX.desc (qpData (solving qpBlk 0 started0) qpX.desc 0) = false ∧
      qpBadData qpX.desc (qpData (nanData (solving qpBlk 0 started0)) qpX.desc 0) = true) ∧
    ((qpIterateOnce (ones (solving qpBlk 0 begun0)) 0 0 qpX (probAt qpX 0) (qpData (ones (solving qpBlk 0 begun0)) qpX.desc 0)).2.2 = true ∧
      (qpIterateOnce (solving qpBlk 0 begun0) 0 0 qpX (probAt qpX 0) (qpData (solving qpBlk 0 begun0) qpX.desc 0)).2.2 = false) :=
  ⟨by decide +kernel, by decide +kernel, by decide +kernel, iterates_ones, ends_zeros⟩

theorem wit_SolvesEndWithTheirProblems :
    let ended := fun (st : Status) => let b := solving factorBlk 0 { prob0 with started := true, ended := some st }
      ∃ (x : SolveSt) (s : StreamSt) (c : CmdSlot), solveAt b 0 = some x ∧ (∀ i : Nat, i < x.desc.count → (probAt x i).ended.isSome = true) ∧
        (seqAt b 512).stream = some s ∧ s.win.find? (fun y => y.idx == x.idx) = some c ∧
        (st = .ok → (endings x).find? (fun e => !goesOn x.desc e.2) = none) ∧
        (st = .nonfinite → (endings x).find? (fun e => !goesOn x.desc e.2) = some (0, .nonfinite))
    ended .ok ∧ ended .nonfinite := by
  refine ⟨⟨_, _, _, rfl, ?_, rfl, rfl, ?_⟩, ⟨_, _, _, rfl, ?_, rfl, rfl, ?_⟩⟩ <;> decide +kernel

/-! ### Control cores -/

/-- A segment that is carried out. -/
theorem done_of {x : VStep} (h : (match x with | .done _ => true | _ => false) = true) : ∃ b : Block, x = .done b := by
  cases x with
  | done b => exact ⟨b, rfl⟩
  | _ => contradiction

theorem wit_ExceptionsEnterMachineMode : (hartAt (core 0 0 0) 0).priv = .machine ∧
    bit (csrGet (hartAt (core 0 0 0) 0) 0x302).toNat 24 = false := by decide +kernel

/-- Hart 0 names object 9 in x1 and the value 2 in x2; the object reads as given. -/
def syncing (o : SyncObj) : Block := syncPut (core 9 2 0) 9 o
theorem wit_SyncInstructionsAct :
    let x := fun (b : Block) => (xget (hartAt b 0) 1, xget (hartAt b 0) 2)
    (∀ o ∈ [(⟨2, false⟩ : SyncObj), ⟨1, false⟩, ⟨2, true⟩], Issues (syncing o) 0 ⟨0x0B, 0⟩ (syncing o) ∧ x (syncing o) = (9, 2)) ∧
    objReserved 9 = false ∧ objRmt 9 = false ∧ objOf 9 = 9 ∧ syncAt (syncing ⟨2, true⟩) 9 = ⟨2, true⟩ ∧
    syncAt (syncing ⟨2, false⟩) 9 = ⟨2, false⟩ ∧ syncAt (syncing ⟨1, false⟩) 9 = ⟨1, false⟩ ∧
    storesPending (syncing ⟨1, false⟩) 0 = false ∧ (hartAt (syncing ⟨1, false⟩) 0).failed = none ∧
    (∀ w ∈ [(0x400009 : Word), 0x200009], Issues (core w 2 0) 0 ⟨0x0B, 0⟩ (core w 2 0) ∧ xget (hartAt (core w 2 0) 0) 1 = w ∧
      (objReserved w = true ∨ objRmt w = true)) ∧
    objReserved 0x400009 = true ∧ storesPending (core 0x400009 2 0) 0 = false ∧ (hartAt (core 0x400009 2 0) 0).failed = none := by
  refine ⟨?_, by decide, by decide, by decide, by decide +kernel, by decide +kernel, by decide +kernel, by decide +kernel,
    by decide +kernel, ?_, by decide, by decide +kernel, by decide +kernel⟩
  · intro o ho
    simp only [List.mem_cons, List.not_mem_nil, or_false] at ho
    rcases ho with rfl | rfl | rfl <;> exact ⟨issues_bare (by decide +kernel), by decide +kernel⟩
  · intro w hw
    simp only [List.mem_cons, List.not_mem_nil, or_false] at hw
    rcases hw with rfl | rfl <;> exact ⟨issues_bare (by decide +kernel), by decide +kernel, by decide⟩

/-- Hart 0 with a store under way to slot 1, and with a failed one. -/
def storing : Block :=
  let b := core 0 0 0
  { b with fab := { b.fab with outst := [⟨⟨0x02, 1, some 0, false, 0, 0, 0, 0, 0, 0, []⟩, .hartStore 0, 0, false, false⟩] } }
def failedStore : Block := hartPut (core 0 0 0) 0 { hartAt (core 0 0 0) 0 with failed := some .unreachable }
theorem wit_OrderingPointsReportFailedStores :
    (Issues (core 0 0 0) 0 ⟨0x0F, 0⟩ (core 0 0 0) ∧ storesPending (core 0 0 0) 0 = false ∧ (hartAt (core 0 0 0) 0).failed = none) ∧
    (Issues storing 0 ⟨0x0F, 0⟩ storing ∧ storesPending storing 0 = true) ∧
    (Issues failedStore 0 ⟨0x0F, 0⟩ failedStore ∧ storesPending failedStore 0 = false ∧ (hartAt failedStore 0).failed = some .unreachable) ∧
    bit (14 : BitVec 4).toNat 0 = false ∧ bit (15 : BitVec 4).toNat 0 = true :=
  ⟨⟨issues_bare (by decide +kernel), by decide +kernel, by decide +kernel⟩,
    ⟨issues_bare (by decide +kernel), by decide +kernel⟩,
    ⟨issues_bare (by decide +kernel), by decide +kernel, by decide +kernel⟩, by decide, by decide⟩

/-- Hart 0 blocked at hall time 2,000. -/
def blockedOn (x : Blocked) : Block :=
  let b := syncing ⟨2, false⟩
  let b := { b with clk := { b.clk with hall := 2000 } }
  hartPut b 0 { hartAt b 0 with blocked := some x }
theorem wit_BlockedInstructionsEnd :
    ((hartAt (blockedOn (.syncWait 5 9 2 0)) 0).blocked = some (.syncWait 5 9 2 0) ∧ waitMet (blockedOn (.syncWait 5 9 2 0)) 9 2 = true) ∧
    ((hartAt (blockedOn (.htWait 5 2000)) 0).blocked = some (.htWait 5 2000) ∧ (2000 : Word).toNat ≤ hallNat (blockedOn (.htWait 5 2000))) ∧
    (Issues (core 0 0 0) 0 ⟨0x0B, 0⟩ (core 0 0 0) ∧ (xget (hartAt (core 0 0 0) 0) 1).toNat ≤ hallNat (core 0 0 0)) ∧
    (Issues (core 1 0 0) 0 ⟨0x0B, 0⟩ (core 1 0 0) ∧ hallNat (core 1 0 0) < (xget (hartAt (core 1 0 0) 0) 1).toNat) :=
  ⟨by decide +kernel, by decide +kernel, ⟨issues_bare (by decide +kernel), by decide +kernel⟩,
    ⟨issues_bare (by decide +kernel), by decide +kernel⟩⟩

theorem wit_HtimeReadsWithinTenNanoseconds : Issues (core 0 0 0) 0 ⟨0x0B, 0⟩ (core 0 0 0) ∧ storesPending (core 0 0 0) 0 = false :=
  ⟨issues_bare (by decide +kernel), by decide +kernel⟩

/-- Hart 0 in user mode at an address that the first PMP entry lets every mode use. -/
def userCore (x1 : Word) : Block :=
  let b := core x1 0 0
  hartPut b 0 { hartAt b 0 with priv := .user, csr := [(0x3A0, 0x1F), (0x3B0, 0x003FFFFFFFFFFFFF)] }
def timerCore (mie : Word) : Block := hartPut (core 0 0 0) 0 { hartAt (core 0 0 0) 0 with otnmtcmp := 0, csr := [(0x300, 8), (0x304, mie)].filter (fun e => e.2 != 0) }
def firedHart (mie : Word) : Hart := { hartAt (timerCore mie) 0 with mtip := true }
theorem wit_CustomCsrsAreWritten :
    (Issues (core 2 0 0) 0 ⟨0x73, 0⟩ (core 2 0 0) ∧ xget (hartAt (core 2 0 0) 0) 1 = 2) ∧
    (Issues (core 3 0 0) 0 ⟨0x73, 0⟩ (core 3 0 0) ∧ xget (hartAt (core 3 0 0) 0) 1 = 3) ∧ (hartAt (core 2 0 0) 0).priv = .machine ∧
    (Issues (userCore 2) 0 ⟨0x73, 0⟩ (userCore 2) ∧ ((hartAt (userCore 2) 0).priv == .machine) = false) ∧
    ((hartAt (timerCore 0) 0).otnmtcmp.toNat ≤ hallNat (timerCore 0) ∧ (interruptible (firedHart 0) && timerTaken (firedHart 0)) = false) ∧
    ((hartAt (timerCore 128) 0).otnmtcmp.toNat ≤ hallNat (timerCore 128) ∧ (interruptible (firedHart 128) && timerTaken (firedHart 128)) = true) := by
  refine ⟨⟨issues_bare (by decide +kernel), by decide +kernel⟩, ⟨issues_bare (by decide +kernel), by decide +kernel⟩,
    by decide +kernel, ⟨issues_bare (by decide +kernel), by decide +kernel⟩, by decide +kernel, by decide +kernel⟩

/-- Hart 0 with a vector length of 2 elements of 32 bits, and one with vl = 0. -/
def vcore (vl : Word) : Block := hartPut (core 0x5000 0 0) 0 { hartAt (core 0x5000 0 0) 0 with vtype := 0x10, vl := vl, v := [(0, 1)] }
def vload (masked store : Bool) (vd : RegId) : VAccess := ⟨0, store, .unit, 2, 0, masked, false, vd, 1⟩
/-- Line 0x5000 is held by cluster 0, alone, with zeros. -/
def withLine (b : Block) : Block := heldPut b (0x5000 / 128) 0 ⟨true, false, List.replicate 128 0⟩
theorem wit_VectorInstructionsAct :
    (Issues (core 0 0 0) 0 ⟨0x57, 0⟩ (core 0 0 0) ∧ vtypeOk 0xC0 = true ∧ vtypeOk 0x20 = false) ∧ ((0 : Nat) < vlmax 0xC0) ∧
    (Issues (vcore 2) 0 ⟨0x07, 0⟩ (vcore 2) ∧ vaccessOk (hartAt (vcore 2) 0) (vload true false 0) = false ∧
      vaccessOk (hartAt (vcore 2) 0) (vload true false 31) = true) ∧
    (Issues (vcore 0) 0 ⟨0x07, 0⟩ (vcore 0) ∧ vaccessOk (hartAt (vcore 0) 0) (vload false false 31) = true ∧
      (hartAt (vcore 0) 0).vl.toNat ≤ (hartAt (vcore 0) 0).vstart.toNat) ∧
    bit (vget (hartAt (vcore 2) 0) 0).toNat 1 = false ∧ ((vload true false 31).masked && !bit (vget (hartAt (vcore 2) 0) 0).toNat 0) = false ∧
    (∃ b2 : Block, loadSegment 0 (vload true false 31) 0 (withLine (vcore 2)) = .done b2) ∧
    (∃ b2 : Block, storeSegment 0 (vload true true 31) 0 (withLine (vcore 2)) = .done b2) :=
  ⟨⟨issues_bare (by decide +kernel), by decide +kernel, by decide +kernel⟩, by decide +kernel,
    ⟨issues_bare (by decide +kernel), by decide +kernel, by decide +kernel⟩,
    ⟨issues_bare (by decide +kernel), by decide +kernel, by decide +kernel⟩, by decide +kernel, by decide +kernel, done_of (by decide +kernel), done_of (by decide +kernel)⟩

/-- A read, a store and a line that are there. -/
theorem bytes_of {x : Got} (h : (match x with | .bytes _ _ => true | _ => false) = true) : ∃ (b : Block) (bs : List Byte), x = .bytes b bs := by
  cases x with
  | bytes b bs => exact ⟨b, bs, rfl⟩
  | _ => contradiction
theorem trap_of {x : Got} (h : (match x with | .trap _ _ _ => true | _ => false) = true) : ∃ (b : Block) (c v : Nat), x = .trap b c v := by
  cases x with
  | trap b c v => exact ⟨b, c, v, rfl⟩
  | _ => contradiction
theorem ready_of {x : Prepared} (h : (match x with | .ready _ _ => true | _ => false) = true) : ∃ (b : Block) (l : List StoreAt), x = .ready b l := by
  cases x with
  | ready b l => exact ⟨b, l, rfl⟩
  | _ => contradiction
theorem storeTrap_of {x : Prepared} (h : (match x with | .trap _ _ _ => true | _ => false) = true) : ∃ (b : Block) (c v : Nat), x = .trap b c v := by
  cases x with
  | trap b c v => exact ⟨b, c, v, rfl⟩
  | _ => contradiction
theorem here_of {x : LineGot} (h : (match x with | .here _ => true | _ => false) = true) : ∃ b : Block, x = .here b := by
  cases x with
  | here b => exact ⟨b, rfl⟩
  | _ => contradiction

/-- Hart 0 with x1 = `a`, where line 0x5000 is held by its cluster. -/
def atLine (a : Word) : Block := withLine (core a 7 0)
/-- An address of slot 8, in another bay. -/
def farAddr : Word := 0x100000005000
theorem wit_LoadsReturnWhatTheyRead :
    (Issues (atLine farAddr) 0 ⟨0x03, 0⟩ (atLine farAddr) ∧ scalarAddr (hartAt (atLine farAddr) 0) 1 0 % 8 = 0 ∧
      Machine.translate (atLine farAddr) 0 (scalarAddr (hartAt (atLine farAddr) 0) 1 0) .load = .found (atLine farAddr) farAddr.toNat ∧
      routeOf (atLine farAddr) 0 farAddr.toNat = .remote) ∧
    (Issues (atLine 0x5008) 0 ⟨0x03, 0⟩ (atLine 0x5008) ∧ scalarAddr (hartAt (atLine 0x5008) 0) 1 0 % 8 = 0 ∧
      Machine.translate (atLine 0x5008) 0 0x5008 .load = .found (atLine 0x5008) 0x5008 ∧ routeOf (atLine 0x5008) 0 0x5008 ≠ .remote ∧
      (∃ b3 bs, readParts 0 .clean (alignedParts 8 0x5008 8) (atLine 0x5008) [] = .bytes b3 bs)) ∧
    (Issues (atLine 0x5001) 0 ⟨0x03, 0⟩ (atLine 0x5001) ∧ scalarAddr (hartAt (atLine 0x5001) 0) 1 0 % 2 ≠ 0 ∧
      (∃ b3 bs, readParts 0 .clean (alignedParts 8 0x5001 2) (atLine 0x5001) [] = .bytes b3 bs)) ∧
    (Issues (atLine 0x1000000000001) 0 ⟨0x03, 0⟩ (atLine 0x1000000000001) ∧ scalarAddr (hartAt (atLine 0x1000000000001) 0) 1 0 % 2 ≠ 0 ∧
      (∃ b3 c v, readParts 0 .clean (alignedParts 8 0x1000000000001 2) (atLine 0x1000000000001) [] = .trap b3 c v)) :=
  ⟨⟨issues_bare (by decide +kernel), by decide +kernel, translate_bare (by decide +kernel), by decide +kernel⟩,
    ⟨issues_bare (by decide +kernel), by decide +kernel, translate_bare (by decide +kernel), by decide +kernel, bytes_of (by decide +kernel)⟩,
    ⟨issues_bare (by decide +kernel), by decide +kernel, bytes_of (by decide +kernel)⟩,
    ⟨issues_bare (by decide +kernel), by decide +kernel, trap_of (by decide +kernel)⟩⟩

/-- A place of tile 0's scratchpad. -/
def padAddr : Word := 0x10000005000
theorem wit_StoresAreMadeWhole :
    (Issues (atLine 0x5008) 0 ⟨0x23, 0⟩ (atLine 0x5008) ∧ scalarAddr (hartAt (atLine 0x5008) 0) 1 0 = 0x5008 ∧
      ∃ b2 l, prepareParts 0 (natLe 8 (xget (hartAt (atLine 0x5008) 0) 2).toNat) 0x5008 (alignedParts 8 0x5008 8) (atLine 0x5008) [] = .ready b2 l) ∧
    (Issues (atLine 0x1000000000000) 0 ⟨0x23, 0⟩ (atLine 0x1000000000000) ∧ scalarAddr (hartAt (atLine 0x1000000000000) 0) 1 0 = 0x1000000000000 ∧
      ∃ b2 c v, prepareParts 0 (natLe 8 (xget (hartAt (atLine 0x1000000000000) 0) 2).toNat) 0x1000000000000
        (alignedParts 8 0x1000000000000 8) (atLine 0x1000000000000) [] = .trap b2 c v) ∧
    (Issues (core padAddr 7 0) 0 ⟨0x23, 0⟩ (core padAddr 7 0) ∧ scalarAddr (hartAt (core padAddr 7 0) 0) 1 0 % 8 = 0 ∧
      Machine.translate (core padAddr 7 0) 0 (scalarAddr (hartAt (core padAddr 7 0) 0) 1 0) .store = .found (core padAddr 7 0) padAddr.toNat ∧
      plainRoute (core padAddr 7 0) 0 padAddr.toNat = .direct ∧
      lineStatus (core padAddr 7 0) (hartOwner (core padAddr 7 0) 0) .write (rackLocal padAddr.toNat) 8 = none) :=
  ⟨⟨issues_bare (by decide +kernel), by decide +kernel, ready_of (by decide +kernel)⟩,
    ⟨issues_bare (by decide +kernel), by decide +kernel, storeTrap_of (by decide +kernel)⟩,
    ⟨issues_bare (by decide +kernel), by decide +kernel, translate_bare (by decide +kernel), by decide +kernel, by decide +kernel⟩⟩

/-- Hart 0 waits for an atomic. -/
def amoing (w : Blocked) : Block := hartPut (core 0 0 0) 0 { hartAt (core 0 0 0) 0 with blocked := some w }
def reserved (a : Word) : Block := hartPut (atLine a) 0 { hartAt (atLine a) 0 with resv := some (0x5000 / 128) }
theorem wit_AtomicsOfTheBay :
    (Issues (atLine 0x5008) 0 ⟨0x2F, 0⟩ (atLine 0x5008) ∧ (xget (hartAt (atLine 0x5008) 0) 1).toNat % widBytes .w64 = 0 ∧
      (∀ f ∈ [AccessFor.load, .store], Machine.translate (atLine 0x5008) 0 0x5008 f = .found (atLine 0x5008) 0x5008) ∧
      routeOf (atLine 0x5008) 0 0x5008 = .cached ∧ sameBay (atLine 0x5008) (rackSlot 0x5008) = true ∧
      ownDeny (atLine 0x5008) 0 0x5008 false = none ∧ ownDeny (atLine 0x5008) 0 0x5008 true = none ∧
      (hartAt (atLine 0x5008) 0).resv ≠ some (0x5008 / 128) ∧
      (∀ excl : Bool, ∃ b3 : Block, ensureLine (atLine 0x5008) 0 (0x5008 / 128) excl .clean = .here b3)) ∧
    (∀ op : AmoOp, op ≠ .lr → op ≠ .sc → (aopResult 8 (amoCode op) 0 7 0).isSome = true) ∧
    (Issues (reserved 0x5008) 0 ⟨0x2F, 0⟩ (reserved 0x5008) ∧ (xget (hartAt (reserved 0x5008) 0) 1).toNat = 0x5008 ∧
      Machine.translate (reserved 0x5008) 0 0x5008 .store = .found (reserved 0x5008) 0x5008 ∧
      (hartAt (reserved 0x5008) 0).resv = some (0x5008 / 128) ∧
      ∃ b3 : Block, ensureLine (reserved 0x5008) 0 (0x5008 / 128) true .clean = .here b3) ∧
    (routeOf (atLine 0x5008) 0 0x5008 ≠ .bad ∧ routeOf (atLine 0x5008) 0 0x5008 ≠ .window ∧ storesPending (atLine 0x5008) 0 = false ∧
      Issues storing 0 ⟨0x2F, 0⟩ storing ∧ storesPending storing 0 = true) ∧
    (∀ op ∈ [AmoOp.swap, .add, .xor, .and, .or, .min, .max, .minu, .maxu],
      let r := combineAt (amoing (.amo 5 .w64)) none (strictTag (ownSlot (amoing (.amo 5 .w64))) 0) 0 padAddr.toNat 8 (amoCode op) 7 0
      r.2.1 = .ok ∧ (hartAt r.1 0).blocked = some (.amo 5 .w64)) ∧
    (Issues (atLine farAddr) 0 ⟨0x2F, 0⟩ (atLine farAddr) ∧ (xget (hartAt (atLine farAddr) 0) 1) = farAddr ∧ sameBay (atLine farAddr) (rackSlot farAddr.toNat) = false ∧
      ∀ f ∈ [AccessFor.load, .store], Machine.translate (atLine farAddr) 0 farAddr.toNat f = .found (atLine farAddr) farAddr.toNat) := by
  refine ⟨⟨issues_bare (by decide +kernel), by decide +kernel, ?_, by decide +kernel, by decide +kernel, by decide +kernel, by decide +kernel,
      by decide +kernel, ?_⟩, ?_, ⟨issues_bare (by decide +kernel), by decide +kernel, translate_bare (by decide +kernel), by decide +kernel,
      here_of (by decide +kernel)⟩, ⟨by decide +kernel, by decide +kernel, by decide +kernel, issues_bare (by decide +kernel), by decide +kernel⟩,
      by decide +kernel, ⟨issues_bare (by decide +kernel), by decide +kernel, by decide +kernel, ?_⟩⟩
  · intro f hf
    simp only [List.mem_cons, List.not_mem_nil, or_false] at hf
    rcases hf with rfl | rfl <;> exact translate_bare (by decide +kernel)
  · intro e; cases e <;> exact here_of (by decide +kernel)
  · intro op h1 h2; cases op <;> first | contradiction | decide +kernel
  · intro f hf
    simp only [List.mem_cons, List.not_mem_nil, or_false] at hf
    rcases hf with rfl | rfl <;> exact translate_bare (by decide +kernel)

/-- Hart 0 with x1 = 0x5008, no line held. -/
theorem wit_TaggedAtomicsOfTheOwnHome :
    Issues (core 0x5008 7 0) 0 ⟨0x2B, 0⟩ (core 0x5008 7 0) ∧ (xget (hartAt (core 0x5008 7 0) 0) 1).toNat % widBytes .w32 = 0 ∧
    Machine.translate (core 0x5008 7 0) 0 0x5008 .store = .found (core 0x5008 7 0) 0x5008 ∧
    routeOf (core 0x5008 7 0) 0 0x5008 = .cached ∧ ownDeny (core 0x5008 7 0) 0 0x5008 true = none ∧ isOwn (core 0x5008 7 0) 0x5008 = true ∧
    routeOf (core 0x5008 7 0) 0 0x5008 ≠ .bad ∧ routeOf (core 0x5008 7 0) 0 0x5008 ≠ .window ∧
    storesPending (core 0x5008 7 0) 0 = false ∧ (hartAt (core 0x5008 7 0) 0).failed = none ∧ flushOwned (core 0x5008 7 0) 0 0x5008 = core 0x5008 7 0 ∧
    (∀ op ∈ [0, 1, 4, 5, 6, 8, 12, 16, 20, 24, 28],
      let r := combineAt (amoing (.tagged 5 .w32)) none (strictTag (ownSlot (amoing (.tagged 5 .w32))) 0) 0 padAddr.toNat 4 op 7 0
      r.2.1 = .ok ∧ (hartAt r.1 0).blocked = some (.tagged 5 .w32)) ∧
    (let r := combineAt (amoing (.tagged 5 .w32)) none (strictTag (ownSlot (amoing (.tagged 5 .w32))) 0) 0 0x1000000000000 4 0 7 0;
      r.2.1 ≠ .ok ∧ (hartAt r.1 0).blocked = some (.tagged 5 .w32)) := by
  refine ⟨issues_bare (by decide +kernel), by decide +kernel, translate_bare (by decide +kernel), by decide +kernel, by decide +kernel,
    by decide +kernel, by decide +kernel, by decide +kernel, by decide +kernel, by decide +kernel, ?_, by decide +kernel, by decide +kernel⟩
  have h : (heldAt (core 0x5008 7 0) (0x5008 / 128) 0).data.isEmpty = true := by decide +kernel
  unfold flushOwned
  exact if_pos h

theorem wit_AtomicOperationsGiveTheirResults : ((4 : Nat) = 4 ∨ (4 : Nat) = 8) ∧ 0xFFFFFFFF < 2 ^ (8 * 4) ∧ 0x80000000 < 2 ^ (8 * 4) := by decide

/-- Hart 0 in RUN with a cursor and staged bytes. -/
def porting (b : Block) (cursor : Word) (staged : List (Nat × List Byte)) : Block := hartPut b 0 { hartAt b 0 with cursor := cursor, staged := staged }
/-- The cursor of an entry (R484). -/
def cursorFor (index sub : Nat) : Word := BitVec.ofNat 64 (index + sub * 2 ^ 16)
theorem wit_BlockPortInstructionsAct :
    let at_ := fun (index sub : Nat) (n : Nat) => porting (core 0 0 0) (cursorFor index sub) [(0, natLe n 1)]
    (Issues (core 0 0 0) 0 ⟨0x23, windowAddr (core 0 0 0) 0x1030 1⟩ (core 0 0 0) ∧ jobAssigned (core 0 0 0) = true ∧ bits (cursorFor 0xB010 1).toNat 56 8 = 0 ∧ cursorOff (cursorFor 0xB010 1) % 8 = 0) ∧
    (Issues (at_ 0x4330 1 8) 0 ⟨0x23, windowAddr (at_ 0x4330 1 8) 0x1030 3⟩ (at_ 0x4330 1 8) ∧ cursorIndex (hartAt (at_ 0x4330 1 8) 0).cursor = 0x4330 ∧ cursorSub (hartAt (at_ 0x4330 1 8) 0).cursor = 1 ∧
      stagedValue (hartAt (at_ 0x4330 1 8) 0).staged (roundUp 8 (odLen 0x4330 1)) = some (natLe 8 1) ∧
      odCheck (porting (at_ 0x4330 1 8) (cursorFor 0x4330 1) []) (hartOrigin 0) 0x4330 1 none ((natLe 8 1).take (odLen 0x4330 1)) = none) ∧
    (Issues (at_ 0x1000 6 8) 0 ⟨0x03, windowAddr (at_ 0x1000 6 8) 0x1030 2⟩ (at_ 0x1000 6 8) ∧ stagedValue (hartAt (at_ 0x1000 6 8) 0).staged (roundUp 8 (odLen 0x1000 6)) = some (natLe 8 1) ∧
      odCheck (porting (at_ 0x1000 6 8) (cursorFor 0x1000 6) []) (hartOrigin 0) 0x1000 6 none ((natLe 8 1).take (odLen 0x1000 6)) = some .odAccess) ∧
    (modeDenied (at_ 0x1000 6 8) 0 0x1000 6 = false ∧ odReadCheck (at_ 0x1000 6 8) (hartOrigin 0) 0x1000 6 = none) ∧
    (modeDenied (at_ 0x1000 99 8) 0 0x1000 99 = false ∧ odReadCheck (at_ 0x1000 99 8) (hartOrigin 0) 0x1000 99 = some .odNoEntry) ∧
    (hartAt (core 0 0 0) 0).priv = .machine ∧ Issues (userCore 0) 0 ⟨0x23, windowAddr (userCore 0) 0x6110 1⟩ (userCore 0) ∧ jobAssigned (userCore 0) = true ∧
    ((hartAt (userCore 0) 0).priv == .machine) = false ∧
    (∀ op ∈ [1, 2, 3], odCheck (core 0 0 0) (hartOrigin 0) 0x6110 1 none (natLe 8 op) = none ∧
      odCheck (userCore 0) (hartOrigin 0) 0x6110 1 none (natLe 8 op) = none) := by
  refine ⟨⟨issues_bare (by decide +kernel), by decide +kernel, by decide +kernel, by decide +kernel⟩,
    ⟨issues_bare (by decide +kernel), by decide +kernel, by decide +kernel, by decide +kernel, by decide +kernel⟩,
    ⟨issues_bare (by decide +kernel), by decide +kernel, by decide +kernel⟩, by decide +kernel, by decide +kernel, by decide +kernel,
    issues_bare (by decide +kernel), by decide +kernel, by decide +kernel, by decide +kernel⟩

/-! ### The object dictionary, functions and memory -/

/-- The module in READY with its input held, and a request of the operator on T1S. -/
def managed : Block := { ready with power := { ready.power with inputHeld := true } }
def operator : Origin := ⟨.operator, .t1s, 0, 0⟩
theorem wit_DictionaryRequestsAct :
    pathOpen managed operator.path = true ∧ operator.path ≠ .window ∧ pathAllows operator.path operator.role = true ∧
    odCheck managed operator 0x4330 1 none (natLe 4 7) = none ∧ odCheck managed operator 0x4330 1 none (natLe 2 7) = some .odType ∧
    odCheck managed operator 0x4330 1 (some (odType 0x4330 1)) (natLe 4 7) = none ∧ odCheck managed operator 0x4330 1 (some 0) (natLe 4 7) = some .odType ∧
    odReadCheck managed operator 0xB010 1 = none ∧ odReadCheck managed operator 0xC030 2 = none ∧ ([] : List Byte).length ≤ 8388608 := by
  decide +kernel
theorem wit_AcceptedWritesStoreTheirValue : ∀ index ∈ [0x3010, 0x4330, 0x5101, 0x6000, 0x9000], ∃ sub < 17, ∃ o ∈ [operator, ⟨.job, .window, 0, 0⟩],
    ∃ v < 2, odCheck { odPut managed 0x2000 1 3 with power := managed.power } o index sub none (natLe (odLen index sub) v) = none := by
  decide +kernel

/-- FUNC_CONTROL for the enable of tile 3, with its self-test under way in `starting`. -/
def starting : Block := { managed with power := { managed.power with drains := [(enablingKey (funcKey 1 3), 0)] } }
theorem wit_FunctionsAreEnabledDrainedAndReset :
    starting.power.drains.any (fun d => d.1 == enablingKey (funcKey 1 3)) = true ∧
    (managed.power.drains.any (fun d => d.1 == enablingKey (funcKey 1 3)) = false ∧ pathOpen managed operator.path = true ∧
      odCheck managed operator 0x2100 1 none (natLe 4 (1 + 2 ^ 4 + 3 * 2 ^ 16)) = none) ∧
    (let b := { managed with power := { managed.power with drains := [(funcKey 1 3, 0)] }, clk := { managed.clk with hall := 0x4000000000000000 } }
     b.power.drains.find? (fun d => decide (d.1 < 65536) && decide (1000 * odNat b 0x2100 2 ≤ hallNat b - d.2.toNat)) = some (funcKey 1 3, 0)) ∧
    (jobAssigned (core 0 0 0) = true ∧ (1 : BitVec 4).toNat ≤ 5 ∧ (511 : BitVec 10).toNat < funcCount (core 0 0 0) 1 ∧
      (5 : BitVec 4).toNat ≤ 5 ∧ (11 : BitVec 10).toNat < funcCount (core 0 0 0) 5) := by
  decide +kernel

def repairing (rows : List RowRec) : Block := { ready with ecc := { ready.ecc with repairing := [(15, 9)], rows := rows } }
theorem wit_MemoryEventsAct :
    (2 ≤ powerState ready ∧ nextScrub ready 0 (scrubFuel ready) (stackAt ready 0).scrub = some 0) ∧
    ((repairing []).ecc.repairing.find? (fun r => r.1 == 15) = some (15, 9) ∧ ([] : List RowRec).find? (fun r => r.row == 9) = none ∧
      [(⟨15, 9, 3, false⟩ : RowRec)].find? (fun r => r.row == 9) = some ⟨15, 9, 3, false⟩) := by
  decide +kernel
theorem wit_StacksThatCannotBeReadTakeStepFour : 2 ≤ powerState ready ∧ (stackAt (stackPut ready 15 { stackAt ready 15 with missed := 2 }) 15).missed = 2 ∧
    (stackAt ready 15).missed ≠ 2 ∧ (104 : BitVec 8).toNat < 105 ∧ 85 < (86 : BitVec 8).toNat ∧ (82 : BitVec 8).toNat ≤ 82 ∧ (83 : BitVec 8).toNat ≤ 85 := by
  decide +kernel

/-! ### The Tenon fabric -/

/-- Port 17 in the given state, and plane 17's map lists slots 0 and 1. -/
def port (st : Nat) : Block := planePut (odSetByte ready 0x6000 1 17 st) 17 { plane0 with reachable := 3 }
def flit (good : Bool) (fseq : BitVec 12) : Flit := ⟨fseq, 0, .data, 0, 5, good, false, List.replicate 15 0⟩
theorem wit_PortEventsAct :
    ((flit true 0).slots.length = 15 ∧ portUp (port 2) 17 = true ∧ (flit true 0).good = true ∧ (flit true 0).fseq = (portAt (port 2) 17).rxSeq) ∧
    (flit false 0).good = false ∧ 8 ≤ { portAt (port 2) 17 with stalls := 8 }.stalls ∧ (portAt (port 2) 17).unacked.length + 8 ≤ 512 ∧
    (portState (port 1) 17 = 1 ∧ trainedCode (lanesPassed 0xFF) = 1 + 1 ∧ trainedCode (lanesPassed 0x0F) = 3 + 1 ∧ (portAt (port 1) 17).before = 0 ∧
      (portAt (port 1) 17).unacked = [] ∧ lanesPassed 0x07 < 4) ∧
    (2 ≤ powerState (port 0) ∧ portState (port 0) 17 = 0 ∧ (portAt (port 0) 17).disabled = false) ∧
    (flit true 0).slots.tail.length ≠ 15 ∧
    (let x : Packet := ⟨0x01, 1, some 17, false, 7, 4, 0, 0, 0x5000, 0, []⟩
     vcQueue (portAt (portPut (port 2) 17 { portAt (port 2) 17 with waiting := [(4, [x])] }) 17) 4 = x :: []) ∧
    (let a : Arb := ⟨[4, 5, 6], 0, [(4, 9), (5, 2), (6, 3)], none⟩
     ((arbRound a 16 [4, 5, 6] [4, 6] (fun v => v == 6)).map (·.1) = some 6 ∧ a.grants + 1 < 16 ∧ 6 ∈ a.last) ∧
     ((arbRound { a with grants := 15 } 16 [4, 5, 6] [4, 6] (fun v => v == 6)).map (·.1) = some 5)) := by
  decide +kernel

theorem wit_RequestsTakeTheFirstUsablePlane :
    planeFor (port 2) 0x5000 1 = some 17 ∧ (planeAt (port 2) 17).mapSeq = none ∧
    (let b := planePut (port 2) 17 { planeAt (port 2) 17 with mapSeq := some 65535 }
     ∃ m : BitVec 16, (planeAt b 17).mapSeq = some m ∧ 1 ≤ ((0 : BitVec 16) - m).toNat ∧ ((0 : BitVec 16) - m).toNat ≤ 32767) ∧
    (planeAt (port 2) 17).lost = false ∧
    (let b := setStreamPlane (port 2) (streamKey 7 1 0x5000) 3
     b.fab.outst.any (fun o => streamKey o.pkt.req o.pkt.dslot o.pkt.addr == streamKey 7 1 0x5000) = false ∧
       tget 0 b.fab.streams (streamKey 7 1 0x5000) ≠ 0 ∧ planeFor b 0x5000 1 = some 17) := by
  refine ⟨by decide +kernel, by decide +kernel, ⟨65535, by decide +kernel⟩, by decide +kernel, by decide +kernel⟩

/-- A request of slot 1, which the module's peers list, on plane 17. -/
def pkt (addr : LocalAddr) : PktHdr := ⟨1, 7, 0, 0, addr, 17⟩
def homeState : Block := odSetBit (port 2) 0x6000 2 1 true
def tag (aop : BitVec 5) : TagExt := ⟨false, 4, aop, false, 1, 1⟩
/-- What a request of slot 1 leaves noted. -/
def noted : Block := { homeState with fab := { homeState.fab with seenGen := tset 0 homeState.fab.seenGen 1 1 } }
theorem arrive_first {b : Block} {p : PktHdr} (h : tget 0 b.fab.seenGen p.sslot = 0) :
    arrive b p = some { b with fab := { b.fab with seenGen := tset 0 b.fab.seenGen p.sslot (p.pgen.toNat + 1) } } := by
  unfold arrive
  rw [h]
  exact if_neg (by simp)
theorem arrives (addr : LocalAddr) : Arrives homeState (pkt addr) noted := by
  refine ⟨?_, arrive_first ?_, ?_⟩
  · show portUp homeState 17 = true
    decide +kernel
  · show tget 0 homeState.fab.seenGen 1 = 0
    decide +kernel
  · show peerOk noted 1 = true
    decide +kernel
theorem noteEpoch_quiet {b : Block} (p : PktHdr) (x : TagExt) (h1 : b.fab.replay = []) (h2 : b.coh.waiting = []) :
    (noteEpoch b p x).fab.replay = [] ∧ (noteEpoch b p x).coh.waiting = [] := by
  unfold noteEpoch
  simp only []
  split
  · exact ⟨h1, h2⟩
  · exact ⟨by simp [h1], h2⟩
theorem arrives_new (addr : LocalAddr) (aop : BitVec 5) : ArrivesNew homeState (pkt addr) (tag aop) (noteEpoch noted (pkt addr) (tag aop)) := by
  have h := noteEpoch_quiet (b := noted) (pkt addr) (tag aop) (by decide +kernel) (by decide +kernel)
  refine ⟨noted, arrives addr, rfl, by rw [h.1]; rfl, .inl rfl, ?_⟩
  unfold alreadyWaits
  rw [h.2]; rfl
/-- A tagged request of slot 1 whose outcome is kept. -/
def keptAt : Block :=
  { homeState with fab := { homeState.fab with replay := [⟨1, 7, 4, .ok, 3⟩], sepoch := tset 0 homeState.fab.sepoch 1 2 } }
theorem wit_RequestsAreServedAtTheirHome :
    (Arrives homeState (pkt 0x507F) noted ∧ oneLine (pkt 0x507F) ((0 : BitVec 8).toNat + 1) = true) ∧
    (someData [1] = true ∧ oneLine (pkt 0x507F) 1 = true) ∧
    ((pkt 0x5000).hint.toNat ≠ 3 ∧ (pkt 0x5000).addr.toNat % 128 + 128 ≤ 128 ∧ someData (List.replicate 128 1) = true ∧
      accessStatus noted (requesterOf 1 7) .write 0x5000 128 = none) ∧
    (ArrivesNew homeState (pkt 16383) (tag 30) (noteEpoch noted (pkt 16383) (tag 30)) ∧ (tag 30).aop.toNat = 30 ∧ (pkt 16383).addr.toNat < 16384) ∧
    (ArrivesNew homeState (pkt 16383) (tag 31) (noteEpoch noted (pkt 16383) (tag 31)) ∧ (tag 31).aop.toNat = 31) ∧
    (ArrivesNew homeState (pkt 0x5004) (tag 6) (noteEpoch noted (pkt 0x5004) (tag 6)) ∧ (tag 6).aop.toNat ∈ atomAops ∧ (tag 6).aop.toNat ∈ redAops ∧
      (pkt 0x5004).addr.toNat % 4 = 0 ∧ someData [1, 2, 3, 4] = true ∧ oneLine (pkt 0x5004) 4 = true) ∧
    (ArrivesNew homeState (pkt 5) (tag 0) (noteEpoch noted (pkt 5) (tag 0)) ∧ (tag 0).aop = 0 ∧ (tag 0).w64 = false) ∧
    peerOk homeState 1 = true ∧
    (waitingAt homeState 5 = [] ∧ blockerOf homeState 5 (.rd (pkt 640) 4) = .free ∧ (dirAt homeState 5).st ≠ .b ∧ homeState.launch.zeroing = false) ∧
    (accessStatus homeState (requesterOf 1 7) .read 640 4 = none ∧ accessStatus homeState (requesterOf 1 7) .write 640 4 = none) := by
  refine ⟨⟨arrives _, by decide +kernel⟩, by decide +kernel, by decide +kernel, ⟨arrives_new _ _, by decide +kernel⟩, ⟨arrives_new _ _, by decide +kernel⟩,
    ⟨arrives_new _ _, by decide +kernel⟩, ⟨arrives_new _ _, by decide +kernel⟩, by decide +kernel, by decide +kernel, by decide +kernel⟩
theorem wit_KeptOutcomesAreAnsweredAgain : ∃ b0 : Block, Arrives keptAt (pkt 0x5004) b0 ∧
    (noteEpoch b0 (pkt 0x5004) (tag 6)).fab.replay.find? (fun e => e.slot == (pkt 0x5004).sslot.val && e.req == (pkt 0x5004).req.toNat && e.seq == (tag 6).seq.toNat) =
      some ⟨1, 7, 4, .ok, 3⟩ := by
  refine ⟨{ keptAt with fab := { keptAt.fab with seenGen := tset 0 keptAt.fab.seenGen 1 1 } }, ⟨by decide +kernel, arrive_first ?_, by decide +kernel⟩, by decide +kernel⟩
  show tget 0 keptAt.fab.seenGen 1 = 0
  decide +kernel

/-- A request to slot 1 that is outstanding since 0. -/
def asking (ptype : Nat) : Block :=
  let f := { (port 2).fab with outst := [⟨⟨ptype, 1, some 17, false, 7, 4, 0, 0, 0x5000, 0, []⟩, .hartStore 0, 0, false, false⟩] }
  { homeState with fab := f, clk := { (port 2).clk with hall := 0x4000000000000000 } }
def answer : RspHdr := ⟨1, 7, 4, 0x5000⟩
theorem wit_ResponsesEndTheirRequests :
    (∀ t ∈ [0x01, 0x03, 0x30, 0x05, 0x08, 0x3E], (answered (asking t) answer [t]).isSome = true) ∧ packetData [1] = true ∧
    (∀ t ∈ [0x01, 0x03, 0x30], answered ready answer [t] = none) ∧ peerOk ready answer.sslot = false ∧ peerOk (asking 0x01) answer.sslot = true ∧
    peerOk homeState answer.sslot = true ∧ (∀ t ∈ [0x01, 0x03, 0x30], answered homeState answer [t] = none) ∧
    (∀ t ∈ [0x05, 0x08], ∃ o ∈ answered { asking t with fab := { (asking t).fab with hepoch := tset 0 (asking t).fab.hepoch 1 9 } } answer [t], o.timedOut = false) ∧
    (∃ o ∈ answered (asking 0x01) answer [0x01, 0x03, 0x30, 0x05, 0x08, 0x3E], o.timedOut = false ∧ o.since.toNat + reqLimit (asking 0x01) o.pkt.dslot ≤ hallNat (asking 0x01)) := by
  decide +kernel

/-! ### Time -/

/-- Port 17 is UP; plane 17 has heard a SYNC and, where said, has an offset. TIME_STATE reads `st`. -/
def timed (synced : Bool) (st : Nat) : Block := odPut (planePut (port 2) 17 { planeAt (port 2) 17 with heard := true, tseq := 3, synced := synced }) 0x9400 2 st
def withTime (b : Block) (x : TimeSt) (hall : Word) : Block := { b with time := x, clk := { b.clk with hall := hall } }
theorem wit_TimeSourcesSetHallTime :
    (portUp (timed true 0) 17 = true ∧ planesHere (timed true 0) = true ∧ planesHere (timed false 0) = false ∧ timeState (timed false 0) ≠ 1) ∧
    (∀ k : Nat, k < 18 → portUp ready k = false) ∧ (List.range 18).filter (portUp (timed true 0)) = [17] ∧
    ((planeAt (timed true 0) 17).heard = true ∧ (planeAt (timed true 0) 17).tseq = 3) ∧ timeState (timed true 1) = 1 ∧
    (powerState ready ≠ 0 ∧ (withTime ready { ready.time with htTime := some (2000000 - 1000000), htGood := 2 } 0).time.htTime = some ((2000000 : Word) - 1000000)) ∧
    (withTime ready { ready.time with htBad := 2 } 0).time.htBad = 2 ∧
    (let b := withTime ready { ready.time with htPend := some 5, htGood := 3 } 0
     b.time.htPend = some 5 ∧ planesHere b = false ∧ htrefHere b = true ∧ hallNat b ≤ b.time.htAt.toNat + 1000000) ∧
    ready.time.htLost = false ∧ (2 ≤ powerState ready ∧ sourceAllowed ready 3 = true ∧ planesHere ready = false ∧ htrefHere ready = false) ∧
    (let b := withTime (odPut ready 0x9400 2 4) { ready.time with holdSince := some 7 } 10000000007
     b.time.holdSince = some 7 ∧ timeState b = 4 ∧ (7 : Word).toNat + 10000000000 ≤ hallNat b) := by
  decide +kernel
theorem wit_HallTimeIsCorrectedByItsRule : (-1000 < (999 : Int) ∧ (999 : Int) < 1000) ∧ (1000 : Int) ≤ 1000 ∧ (-1000 : Int) ≤ -1000 := by decide

/-! ### Coherence and ownership -/

/-- Line 5 of own HBM, whose directory entry is as given; slot 1 is a peer of the bay. -/
def directed (d : DirEnt) : Block := dirPut homeState 5 d
def agent1 : Agent := ⟨1, 11⟩
theorem wit_CoherenceMessagesAct :
    (2 ≤ powerState homeState ∧ cgetAgain homeState agent1 196607 4 = none ∧ peerOk homeState agent1.slot = true ∧ 196607 < hbmLines ∧
      sameBay homeState agent1.slot = true) ∧
    (let b := directed ⟨.m, BitVec.ofNat 96 (2 ^ sharerBit agent1), 0, 0, false, false, false⟩
     (List.replicate 128 (1 : Byte)).length = 128 ∧ peerOk b agent1.slot = true ∧ (dirAt b 5).st = .m ∧ (dirAt b 5).sharers = BitVec.ofNat 96 (2 ^ sharerBit agent1)) ∧
    (let b := heldPut homeState (rackAddr 1 (5 * 128) / 128) 11 ⟨true, true, List.replicate 128 1⟩
     b.coh.answered.find? (fun x => x.home == 1 && x.c == 11 && x.line == 5 && x.tid == 4) = none ∧
       (heldAt b (rackAddr 1 (5 * 128) / 128) 11).data ≠ [] ∧ (heldAt b (rackAddr 1 (5 * 128) / 128) 11).dirty = true ∧
       (heldAt b (rackAddr 1 (5 * 128) / 128) 11).excl = true ∧ (heldAt b (rackAddr 1 (6 * 128) / 128) 11).dirty = false) ∧
    peerOk homeState 1 = true ∧ (let b := heldPut homeState (rackAddr 1 (7 * 128) / 128) 11 lostLine
     (heldAt b (rackAddr 1 (7 * 128) / 128) 11).data = [] ∧ (heldAt b (rackAddr 1 (7 * 128) / 128) 11).excl = true) ∧
    (let b := { homeState with coh := { homeState.coh with asked := [⟨rackAddr 1 (5 * 128) / 128, 11, false, 4, 0⟩] } }
     b.coh.asked.any (fun q => q.line == rackAddr 1 (5 * 128) / 128 && q.c == 11 && q.tid == 4) = true) ∧
    (let b := { homeState with coh := { homeState.coh with opened := [⟨1, 11, 5, false, 4, .ok⟩] } }
     b.coh.opened.any (fun o => o.slot == agent1.slot.val && o.c == agent1.cluster.val && o.line == 5 && o.tid == 4) = true) ∧
    (let b := directed ⟨.b, 0, 4, BitVec.ofNat 96 (2 ^ sharerBit agent1), false, true, false⟩
     (dirAt b 5).st = .b ∧ (dirAt b 5).tid = 4 ∧ sameBay b agent1.slot = true ∧ bit (dirAt b 5).acks.toNat (sharerBit agent1) = true ∧ (dirAt b 5).resent = false) ∧
    (let b := directed ⟨.b, 0, 4, 1, false, true, true⟩
     (dirAt b 5).st = .b ∧ (dirAt b 5).resent = true) ∧ (2 : BitVec 2) ≠ 3 := by
  decide +kernel

def owner1 : OwnerId := ⟨1, 32, 9⟩
def owned : Block := { homeState with own := { homeState.own with table := [(0, ⟨false, false, true, 196607, 1, 32, 9⟩), (1, ⟨false, false, false, 5, 1, 32, 9⟩)], pinged := [(4, 2)] } }
theorem wit_OwnershipMessagesAct :
    (2 ≤ powerState homeState ∧ peerOk homeState owner1.slot = true ∧ (196607 : BitVec 18).toNat < 196608 ∧ ownerUnit owner1.unit.toNat = true ∧
      ∀ read : Bool, let r : OwnReq := ⟨4 + 65536 * 9, 32, 1, 196607, read, false, false, none⟩
        homeState.own.reqs.any (fun y => y == r) = false ∧ acqStatus homeState r 9 = none ∧ acqStatus owned r 9 = some .regionOwned) ∧
    (owned.own.table.any (fun e => e.2.region == 5 && e.2.oslot == owner1.slot.val && e.2.ounit == owner1.unit.toNat && e.2.oepoch == owner1.epoch.toNat && !e.2.lost) = true ∧
      owned.own.table.any (fun e => e.2.region == 6 && e.2.oslot == owner1.slot.val && e.2.ounit == owner1.unit.toNat && e.2.oepoch == owner1.epoch.toNat && !e.2.lost) = false) ∧
    tget 0 owned.own.pinged 4 = 1 + 1 ∧
    (let b := { homeState with own := { homeState.own with mine := [⟨4, 0, 1, 5, false, false, false, some 0⟩] } }
     tget 0 b.own.pinged 4 ≠ 1 + 1 ∧ b.own.mine.find? (fun r => r.tid == 4 && r.slot == 1 && !r.held) = some ⟨4, 0, 1, 5, false, false, false, some 0⟩) ∧
    (∃ e ∈ (clearLost owned 5).own.table, e.2.region = 5) := by
  decide +kernel

/-! ### Truss, barriers and the step scribe -/

/-- A group of two members, of which this module is rank `rank`, the other in slot 1 of its rack (R374). -/
def pair (state rank : Nat) : Group :=
  ⟨state, false, false, 1, rank, 7, 1, 2, 2, 0, 0x3000, if rank = 0 then [⟨0, 0, false⟩, ⟨0, 1, false⟩] else [⟨0, 1, false⟩, ⟨0, 0, false⟩], 0, [], [], []⟩
def paired (state rank : Nat) : Block := groupPut homeState 5 (pair state rank)
/-- The header of a message of the other member, of the collective with sequence number 0. -/
def fromPeerHdr (rank : Nat) : TrussHdr := ⟨7, 0, rank⟩
/-- ALLREDUCE of 64 FP32 elements, and COUNT's ALLTOALL (R382); a collective of the pair that is under way. -/
def sumBlk : Nat := 1 + 1 * 2 ^ 6 + 5 * 2 ^ 16 + 64 * 2 ^ 64 + 0x100000 * 2 ^ 256 + 0x1000000 * 2 ^ 320 + 0x4000 * 2 ^ 512 + 0x4040 * 2 ^ 1024
def vecDesc (base : Nat) : Nat := 0xE + 1 * 2 ^ 5 + base * 2 ^ 32 + 63 * 2 ^ 128 + 4 * 2 ^ 152
def under (blk : Nat) : Coll :=
  ⟨5, 7, 0, 0, false, blk, 2, [(0, vecDesc 0x5000)], (0, vecDesc 0x6000), true, [], [], [], [], [], [], [], [], 0, 0, 0, false, [], false, none, false, [], 0, 0, []⟩
/-- An ALLTOALL of FP32 entries. -/
def allBlk : Nat := 6 + 1 * 2 ^ 6 + 5 * 2 ^ 16 + 3 * 2 ^ 48 + 2 * 2 ^ 64 + 0x100000 * 2 ^ 256 + 0x1000000 * 2 ^ 320 + 0x3800 * 2 ^ 384
def running (rank : Nat) (c : Coll) : Block :=
  { paired 2 rank with truss := { (paired 2 rank).truss with colls := [c] } }
theorem reaches_of {b : Block} {h : TrussHdr} {g : Group} {c : Coll} (k : Nat)
    (hh : (decide (2 ≤ powerState b) && (groupByGid b h.gid.toNat == some (k, g)) && knownMember b g h.rank &&
      (collAt b h.gid.toNat h.collSeq.toNat == some c) && c.active && (c.failed == none)) = true) : Reaches b h g c := by
  simp only [Bool.and_eq_true, decide_eq_true_eq, beq_iff_eq] at hh
  exact ⟨hh.1.1.1.1.1, ⟨k, hh.1.1.1.1.2⟩, hh.1.1.1.2, hh.1.1.2, hh.1.2, hh.2⟩
theorem reaches_sum (rank : Fin 2) : Reaches (running rank (under sumBlk)) (fromPeerHdr (1 - rank)) (pair 2 rank) (under sumBlk) :=
  reaches_of 5 (by revert rank; decide +kernel)
def upPiece : PieceId := ⟨false, false, 0, 0⟩

/-- 32 zeros in the input's format, and their header (R394). -/
def upForm : PieceForm := ⟨0, 0xE, 32⟩
def upHeader (sig : BitVec 32) : ChunkHeader := pieceHeader false 1 sig upForm 0 0 0 1 (List.replicate 128 0)
def downPiece : PieceId := ⟨false, true, 0, 0⟩
def sentUp : SentPiece := ⟨downPiece, 1, List.replicate 128 0, upHeader 0, false, true, true⟩

theorem wit_FormationMessagesAct :
    (∀ rank : Fin 2, 2 ≤ powerState (paired 1 rank) ∧ groupByGid (paired 1 rank) 7 = some (5, pair 1 rank) ∧
      knownMember (paired 1 rank) (pair 1 rank) (1 - rank) = true) ∧
    (treeChildren 2 0).contains 1 = true ∧ (pair 1 1).rank ≠ 0 ∧ treeParent 1 = 0 ∧
    (let g := { pair 1 0 with epochs := tset 0 (pair 1 0).epochs 1 6 }
     let b := groupPut homeState 5 g
     groupByGid b 7 = some (5, g) ∧ knownMember b g 1 = true ∧ tget 0 g.epochs 1 = (5 : BitVec 32).toNat + 1 ∧
       tget 0 g.epochs 1 ≠ (6 : BitVec 32).toNat + 1 ∧ tget 0 g.epochs 1 ≠ 0) ∧
    tget 0 (pair 1 0).epochs 1 = 0 ∧ memberPlane (groupPut ready 5 (pair 1 0)) (memberAt (pair 1 0) 1) 0 = none ∧
    memberPlane (paired 1 0) (memberAt (pair 1 0) 1) 0 ≠ none ∧ tget 0 (pair 1 0).probes 1 < 3 := by
  decide +kernel

theorem wit_CollectiveMessagesAct :
    (pair 2 0).istus = false ∧ (collD (under allBlk)).op = 6 ∧ (under allBlk).grants = [] ∧
    expectForm (pair 2 0) (under sumBlk) 1 upPiece = some upForm ∧ verifiedAt (under sumBlk) 1 upPiece = none ∧
    packetData (List.replicate 128 0) = true ∧ 128 ≤ roundUp 16 (formLen false (pieceFmt (under sumBlk) upPiece) upForm) ∧
    (∃ sig : BitVec 32, sig = collOpsig (under sumBlk) ∧ (upHeader sig).epoch.toNat = (pair 2 0).epoch ∧ (upHeader sig).opsig = sig ∧
      pieceGood (pair 2 0) (under sumBlk) upPiece upForm (upHeader sig) (List.replicate 128 0) = true ∧
      pieceGood (pair 2 0) (under sumBlk) upPiece upForm (upHeader sig) (List.replicate 128 1) = false) ∧
    (∃ bs : List Byte, copyOf homeState (pair 2 0) { under sumBlk with sent := [sentUp] } sentUp = .ok bs ∧
      crc64 bs = sentUp.header.crc.toNat ∧ crc64 bs ≠ (upHeader 0).crc.toNat + 1) := by
  refine ⟨rfl, by decide +kernel, rfl, by decide +kernel, by decide +kernel, by decide +kernel, by decide +kernel, ⟨_, rfl, by decide +kernel⟩, ?_⟩
  exact ⟨List.replicate 128 0, by decide +kernel, by decide +kernel⟩

theorem reaches_all : Reaches (running 0 (under allBlk)) (fromPeerHdr 1) (pair 2 0) (under allBlk) :=
  reaches_of 5 (by decide +kernel)

/-- A collective that has failed and waits for an acknowledgement, and one whose chunk may start. -/
def failedColl : Coll := { under sumBlk with failed := some (.memberLost, 1), acks := [1] }
def held (src : Nat) : Piece := ⟨upPiece, src, List.replicate 128 0, some (upHeader 0), true, 0⟩
def summed : Coll := { under sumBlk with next := 1, pieces := [held 0, held 1] }
theorem wit_CollectivesStartAndFail :
    collAt (running 0 failedColl) 7 0 = some failedColl ∧ failedColl.acks.contains 1 = true ∧
    (let s := endFailed (ackFail (running 0 (under sumBlk)) (pair 2 0) (fromPeerHdr 1)) (under sumBlk) .memberLost 1
     collAt (ackFail (running 0 (under sumBlk)) (pair 2 0) (fromPeerHdr 1)) 7 0 = some (under sumBlk) ∧ (collAt s 7 0).isSome = true) ∧
    moduleMay (pair 2 0) (under sumBlk) = true ∧ upPiece.chunk = (under sumBlk).next ∧ (collD (under sumBlk)).reduces = true ∧
    ({ under sumBlk with upSent := true }).upSent = true ∧ (groupAt (running 1 (under sumBlk)) 5).rank ≠ 0 ∧
    hallMay (pair 2 0) summed = true ∧
    (2 ≤ powerState (running 0 summed) ∧ summed.hallNext = 0 ∧ groupAt (running 0 summed) 5 = pair 2 0) ∧
    ((treeChildren (groupAt (running 0 (under sumBlk)) 5).m (groupAt (running 0 (under sumBlk)) 5).rank).contains 1 = true ∧
      (under sumBlk).doneUps.contains 1 = false) := by
  decide +kernel

/-! ### Barriers, the step scribe and Sketch -/

/-- Barrier 9 over the pair's group: enabled; arrive object 40, release object 41 (R426). -/
def barrier9 (step : Bool) : BarrierSt := { barrier0 with cfg := 1 + (if step then 2 else 0) + 5 * 2 ^ 8 + 40 * 2 ^ 32 + 41 * 2 ^ 48 + 2 ^ 64 }
def barring (x : BarrierSt) : Block := barrierPut { paired 2 0 with clk := { (paired 2 0).clk with hall := 2 ^ 62 } } 9 x
def arrivedBarrier : BarrierSt := { barrier9 false with arrived := some 5 }
theorem wit_BarrierMessagesAct :
    barrierByGid (barring (barrier9 false)) 7 = some (9, barrier9 false) ∧ (treeChildren 2 0).contains 1 = true ∧
    (barrier9 false).children.contains (arrivalKey 1 1) = false ∧ barrierGidx (barrier9 false) = 5 ∧
    groupAt (barring (barrier9 false)) 5 = pair 2 0 ∧ knownMember (barring (barrier9 false)) (pair 2 0) 1 = true ∧
    barrierByGid (barring arrivedBarrier) 7 = some (9, arrivedBarrier) ∧ arrivedBarrier.arrived ≠ none ∧ arrivedBarrier.release = none ∧
    (1 : BitVec 10) = barrierGen10 arrivedBarrier ∧
    hallNat (barrierReleaseSet (barring arrivedBarrier) 9 (BitVec.allOnes 64)) ≤ (BitVec.allOnes 64 : Word).toNat ∧
    (7 : Word).toNat < hallNat (barrierReleaseSet (barring arrivedBarrier) 9 7) ∧
    releaseMay (countEvent (odBump (barrierReleaseSet (barring arrivedBarrier) 9 7) 0x9000 7 1) unitTime 2 1) 9 = true ∧
    releaseMay (barring { arrivedBarrier with release := some 7 }) 9 = true ∧
    (barrierAt (barring arrivedBarrier) 9).arrived = some 5 ∧ barrierEn (barrierAt (barring arrivedBarrier) 9) = true ∧
    1000 * odNat (barring arrivedBarrier) 0x6020 3 ≤ hallNat (barring arrivedBarrier) - 5 := by
  decide +kernel

def scribing (silent : Nat) (ring : List (Nat × Word)) : Block :=
  { ready with scribe := { ready.scribe with on := true, silent := silent, counts := [(3, 2 ^ 40)], rings := [(3, ring)] } }
theorem wit_ScribeExchangesAct :
    (∀ silent : Fin 2, (scribing (4 * silent) []).scribe.on = true ∧ (scribing (4 * silent) []).scribe.mismatch = false ∧
      odNat (scribing (4 * silent) []) 0x9200 5 ≠ 3) ∧ 4 ≤ (scribing 4 []).scribe.silent ∧
    (let r := fun ring : List (Nat × Word) => [(3, (1 : BitVec 32), (6 : Word))].foldl scribeCompare (scribing 0 ring, false)
     (r []).2 = true ∧ (r [(1, 6)]).2 = false ∧ odNat (r [(1, 6)]).1 0x9200 5 ≠ 3) := by
  decide +kernel

/-- A shard of two granules at 0x10000, copied to 0x4000000. -/
def armedPair : ArmSt := ⟨0, 5, 0xFFFF, 1, [(0x10000, 0x20000)], 0x4000000, 0x2000000, 0, 0x7000, 0⟩
def sketching (g : GenSt) : Block := { barring (barrier9 true) with sketch := { (barring (barrier9 true)).sketch with armed := some armedPair, gen := some g } }
def genIn (phase : GenPhase) (protect : List Nat) : GenSt := newGen 1 2 phase 0 .ok protect
def lateRec (tries : Nat) : DrainRec := ⟨0, 0, 64, 0, 0, tries, 0⟩
def flowed (g : GenSt) : Block := odPut (sketching g) 0x7101 1 1
theorem wit_SketchEventsAct :
    (sketching (genIn .arming [])).sketch.gen = some (genIn .arming []) ∧ armingDone (sketching (genIn .arming [])) armedPair = true ∧
    lateBarrier (sketching (genIn .arming [])) = none ∧
    (let s := barrierPut (sketching (genIn .arming [])) 9 { barrier9 true with release := some 7 }
     lateBarrier s = some 9 ∧ armingDone s armedPair = true ∧ releaseMay (genPut s { genIn .arming [] with phase := .armed }) 9 = true) ∧
    (genIn .copying [0, 1]).protect = 0 :: [1] ∧ ({ genIn .copying [0, 1] with queue := [1] }).queue = 1 :: [] ∧
    (genIn .copying []).protect = [] ∧
    (∀ tries : Fin 5, let g := { genIn .draining [] with drains := [lateRec tries] }
      flowOn (odNat (flowed g) 0x7101 1) = true ∧ g.drains.find? (drainLate (flowed g)) = some (lateRec tries) ∧
      ((resendDrain (flowed g) armedPair 1 [] (lateRec tries)).2.isSome = true ↔ tries.val < 4)) := by
  decide +kernel

/-! ### Launch and transport -/

/-- A launch of job 5 over 20 members, of which this is rank 0: an image of 100 bytes in chunks of 64; ranks 1 and 2 are served. -/
def launching (have_ : List Nat) : Block :=
  { ready with launch := { ready.launch with assigned := true, jobId := 5, m := 20, image := 100, chunk := 64, rank := 0, table := [0, 0], have_ := have_, children := [1, 2], load := 0x10000, members := List.replicate 20 ⟨0, 0, false⟩ } }
def fromRank (r : Nat) : LaunchFrom := ⟨5, r⟩
theorem wit_LaunchMessagesAct :
    let b := launching []
    let l := b.launch
    launchHere b (fromRank 1) = true ∧ 0 < l.table.length ∧ l.have_.contains 0 = false ∧ tget [] l.partials 0 = [] ∧
    ((tget [] l.partials 0) ++ (List.replicate 32 (7 : Byte)).drop 0).length < imgLen b 0 ∧ l.segs + 1 ≠ 64 ∧
    imgLen b 1 ≤ (((tget [] l.partials 1) ++ (List.replicate 36 (7 : Byte)).drop 0).take (imgLen b 1)).length ∧
    l.asked = l.upper ∧ l.asked ≠ 3 ∧ l.children.contains 1 = true ∧ (tget (0, 0) l.progress 1).1 = 0 ∧
    imgLen b 0 ≤ 64 ∧ 32 < imgLen b 0 ∧ l.rank < l.m ∧ isAncestor l.rank 1 = true ∧ isAncestor l.rank 9 = true ∧
    l.children.contains 9 = false ∧ l.acked.contains 1 = false ∧ odNat (odPut b 0xA100 2 2) 0xA100 2 = 2 ∧
    launchHere (odPut b 0xA100 2 2) (fromRank 0) = true := by
  decide +kernel

def starting9 : Block := { homeState with launch := { homeState.launch with trel := some 0, started := false } }
theorem wit_JobsStartAfterZeroing :
    ({ ready with launch := { ready.launch with zeroing := true } }).launch.zeroing = true ∧
    starting9.launch.trel = some 0 ∧ starting9.launch.started = false ∧ (0 : Word).toNat ≤ hallNat starting9 ∧
    (∀ h : Fin 96, funcOff starting9 5 (h / 8) = false) ∧ funcOff (odSetBit starting9 0x2101 (funcSub 5) (funcBit 5 2) true) 5 2 = true := by
  decide +kernel

/-- Flow 3: enabled; outbound or inbound; its ring of 64 KiB at 0x10000; message object 50 (R496). -/
def flowBits (out : Bool) : Nat := 1 + (if out then 2 else 0) + 0x10000 * 2 ^ 192 + 16 * 2 ^ 240 + 50 * 2 ^ 256
def flowing (out : Bool) : Block :=
  syncPut (memWrite (odPut (odPut ready 0x7000 1 0x202) 0x7100 3 (flowBits out)) 0x10000 (natLe 4 5)) 50 ⟨1, false⟩
def segmentOf (total : BitVec 32) (d : List Byte) : Segment := ⟨0, 0, 0, true, 3, 0, 1, 0, total, 0, d⟩
def sentSeg (resends : Nat) : SentSeg := ⟨6, 0, 0, 5, [1, 2, 3, 4, 5], resends⟩
theorem wit_TransportMessagesAct :
    (let b := flowing true
     let e := flowEntry b 3
     let x := flowAt b 3
     2 ≤ powerState b ∧ flowOn e = true ∧ flowOut e = true ∧ x.txMsg < (syncAt b (flowMsgObj e)).count.toNat ∧ x.backlog = [] ∧
     leNat (ringRead b e x.txPtr 4) = 5 ∧ 64 + 5 ≤ flowRingSize e ∧
     (∀ r ∈ ringRuns e x.txPtr (64 + 5), accessStatus b none .read r.1 r.2 = none ∧ unitFree b r.1 r.2 false = true) ∧
     ethUp b (segmentOf 4096 []).port = true ∧ (takeAck b (segmentOf 4096 [])).isSome = true ∧ (takeAck { b with flows := tset flow0 b.flows 3 { x with txMsg := 4 } } (segmentOf 4096 [])).isSome = true) ∧
    (let b := flowing false
     let e := flowEntry b 3
     let x := flowAt (countEvent b (unitEth 0) 2 1) 3
     let g := segmentOf 5 [1, 2, 3, 4, 5]
     ethUp b g.port = true ∧ flowOn e = true ∧ flowOut e = false ∧ fromPeer e g = true ∧ 5 ≤ segMax (countEvent b (unitEth 0) 2 1) ∧ (5 : BitVec 32).toNat ≤ flowRingSize e - 64 ∧
     (let s := flowPut (countEvent b (unitEth 0) 2 1) 3 { x with rxNext := 1 }
      segAbs (flowAt s 3).rxNext g.seg.toNat < (flowAt s 3).rxNext) ∧
     (flowAt (flowPut b 3 { flowAt b 3 with unackedRx := 1 }) 3).unackedRx ≠ 0) ∧
    (let b := flowing true
     ∀ r : Fin 2, let s := flowPut b 3 { flowAt b 3 with unacked := [sentSeg (r * 1000)] }
       (flowAt s 3).unacked.find? (fun g => g.seg % 2 ^ 32 == (6 : BitVec 32).toNat) = some (sentSeg (r * 1000)) ∧
       flowOn (flowEntry s 3) = true ∧ (r.val * 1000 < odNat s 0x7010 2 ↔ r = 0)) := by
  decide +kernel

/-! ### Sessions, counters, power and protection -/

/-- Session 1 of an operator over T1S. -/
def opened (x : Session) : Block := sessPut managed 1 x
def session1 : Session := { session0 with role := .operator }
def request : SessReq := ⟨1, 4, true⟩
theorem wit_SessionsOpenAndClose :
    pathOpen managed .t1s = true ∧ sourceBlocked managed 9 = false ∧ managed.sess.table.length < 32 ∧
    (let h : Hello := ⟨.t1s, 9, 1, 0, 0⟩
     let b := { managed with sess := { managed.sess with hellos := [h] } }
     pathOpen b .t1s = true ∧ b.sess.hellos.find? (fun x => x.path == .t1s && x.source == 9) = some h) ∧
    managed.sess.hellos.find? (fun x => x.path == .t1s && x.source == 9) = none ∧
    sessAt (opened session1) 1 = some session1 ∧ pathOpen (opened session1) session1.path = true ∧ request.tagOk = true ∧
    session1.kept.find? (fun k => k.1 == request.seq.toNat) = none ∧ awaitsReply (opened session1) request = false ∧
    session1.highSeq < request.seq.toNat + 64 ∧
    (let b := { opened session1 with clk := { managed.clk with hall := 2 ^ 62 } }
     sessAt b 1 = some session1 ∧ odNat b 0x1010 3 * 1000000000 ≤ hallNat b - session1.lastReq.toNat) := by
  decide +kernel

theorem wit_SessionRequestsAreAnswered :
    (let b := opened session1
     let x := session1
     let o := sessOrigin x
     sessAt b 1 = some x ∧ pathOpen b x.path = true ∧ request.tagOk = true ∧ x.kept.find? (fun k => k.1 == request.seq.toNat) = none ∧
     awaitsReply b request = false ∧ x.kept.any (fun k => k.1 == request.seq.toNat) = false ∧ x.highSeq < request.seq.toNat + 64 ∧ x.launchOnly = false ∧
     odReadCheck b o 0x1000 1 = none ∧ odReadCheck b o 0xFFFF 1 = some .odNoEntry ∧
     x.stagedEnt = none ∧ (natLe 2 1).length = odLen 0x5100 1 ∧
     odCheck (sessPut b 1 { x with stagedEnt := none, staged := [] }) o 0x5100 1 (some (odType 0x5100 1)) (natLe 2 1) = none ∧
     [(⟨0x5100, 1, BitVec.ofNat 8 (odType 0x5100 1), natLe 2 1⟩ : BlockItem)].findSome? (blockCheck b x) = none ∧
     [(⟨0xFFFF, 1, 0, []⟩ : BlockItem)].findSome? (blockCheck b x) = some .odNoEntry ∧ x.subs.length < 256) ∧
    (let x := { session1 with subs := [⟨3, 0x1000, 1, true, 1000, false⟩, ⟨4, 0xB050, 2, false, 0, true⟩] }
     x.subs.any (fun q => q.id == 3) = true ∧
     x.subs.find? (fun q => q.id == 4 && !q.periodic && q.pending) = some ⟨4, 0xB050, 2, false, 0, true⟩ ∧
     (alarmSub ⟨4, 0xB050, 2, false, 0, true⟩ = true)) ∧
    (let x := { session1 with subs := [⟨3, 0x1000, 1, true, 1000, false⟩] }
     x.subs.find? (fun q => q.id == 3 && q.periodic) = some ⟨3, 0x1000, 1, true, 1000, false⟩ ∧
     x.subs.filter (fun q => alarmSub q && q.pending) = []) := by
  decide +kernel

theorem wit_CounterAndLogEventsAct :
    (let b := { ready with counters := { ready.counters with sched := some (0, false), frozen := true } }
     b.counters.sched = some (0, false) ∧ (0 : Word).toNat ≤ hallNat b ∧ b.counters.frozen = true ∧ odNat b 0xB020 4 ≤ hallNat b) ∧
    managed.power.inputHeld = true ∧ (tget alarm0 managed.logs.alarms 0x4F).active = false ∧
    odNat (odPut ready 0x9400 2 1) 0x9400 2 ≠ 0 := by
  decide +kernel

def poweredOn : Block := { State.reset.toBlock with power := { State.reset.toBlock.power with inputOn := true } }
theorem wit_PowerEventsAct :
    State.reset.toBlock.power.inputHeld = false ∧ poweredOn.power.inputOn = true ∧ poweredOn.power.inputHeld = false ∧
    poweredOn.power.straps = none ∧ strapOnes 5 9 true % 2 = 1 ∧ (5 : BitVec 7).toNat ≤ 71 ∧
    (let b := { poweredOn with power := { poweredOn.power with goal := 1 } }
     powerState b = 0 ∧ b.power.goal ≠ 0) ∧
    (let b := odPut { poweredOn with power := { poweredOn.power with goal := 2 } } 0x2000 1 1
     powerState b = 1 ∧ b.power.goal = 2) ∧
    2 ≤ powerState ready ∧ managed.power.inputHeld = true ∧ managed.power.refOk = true := by
  decide +kernel

theorem wit_ProtectionEventsAct :
    managed.power.inputHeld = true ∧ managed.power.leak = false ∧
    (thermTemp (1000 * (median5 [9000, 10000, 10000, 12000, 11000] : Int))).any (fun m => decide (10000 ≤ m) && decide (m ≤ 60000)) = true ∧
    ({ managed with power := { managed.power with leak := true } }).power.leak = true ∧
    (let b := { managed with power := { managed.power with mv := [54000], ma := [1000], absentAt := some 0, trip := [.coolant] }, clk := { managed.clk with cycle := 2 ^ 62 } }
     2 ≤ powerState b ∧ b.power.mv ≠ [] ∧ b.power.absentAt = some 0 ∧ b.power.trip ≠ [] ∧ (0 : Word).toNat + tripHold ≤ b.clk.cycle) ∧
    (∃ u : Fin 737, unitWorks ready u = false) := by
  decide +kernel

/-- A waiting command that the hardware can be given. -/
theorem wit_RunsNeverStop : queueOk { State.reset with pending := [.fence 0] } ∧ State.reset.toBlock.clk.slew = 0 := by
  refine ⟨fun c hc => ?_, by decide +kernel⟩
  simp only [List.mem_singleton] at hc
  subst hc
  decide +kernel
end Sys2Proof.Tests
end

section
/-! SUPPORT. The scale of a block (R49, R61): B8 codes as rationals, comparisons of finite values as comparisons of rationals, and
the scale that `b8For` finds. -/

namespace Sys2Proof.Proofs

open Sys2Proof Sys2Proof.Machine

/-! ### B8 values (R49) -/

/-- The value of a B8 code. -/
def b8Value (code : Nat) : ℚ := (b8Sig code : ℚ) * (2 : ℚ) ^ b8Exp code

theorem b8Value_pos (code : Nat) : 0 < b8Value code := by
  have hsig : 0 < b8Sig code := by unfold b8Sig; omega
  unfold b8Value
  positivity

theorem b8Value_zero : b8Value 0 = 1 := by norm_num [b8Value, b8Sig, b8Exp]

theorem b8Value_255 : b8Value 255 = 63488 := by norm_num [b8Value, b8Sig, b8Exp]

/-- The next code raises M by one, or, after M = 15, doubles 2^E and starts again at M = 0. -/
theorem b8Value_le_succ (code : Nat) : b8Value code ≤ b8Value (code + 1) := by
  unfold b8Value
  by_cases hm : code % 16 = 15
  · have hsig : b8Sig code = 31 := by simp [b8Sig, hm]
    have hsig' : b8Sig (code + 1) = 16 := by unfold b8Sig; omega
    have hexp : b8Exp (code + 1) = b8Exp code + 1 := by unfold b8Exp; omega
    rw [hsig, hsig', hexp, zpow_add_one₀ two_ne_zero]
    have : (0 : ℚ) < 2 ^ b8Exp code := by positivity
    push_cast
    linarith
  · have hsig : b8Sig code ≤ b8Sig (code + 1) := by unfold b8Sig; omega
    have hexp : b8Exp (code + 1) = b8Exp code := by unfold b8Exp; omega
    rw [hexp]
    gcongr

theorem b8Value_monotone : Monotone b8Value := monotone_nat_of_le_succ b8Value_le_succ

/-! ### Magnitudes of finite values -/

/-- An unsigned significand aligned to a lower exponent keeps its value. -/
theorem fvAt_false_mul_zpow (m : Nat) {e e0 : Int} (h : e0 ≤ e) : (fvAt false m e e0 : ℚ) * 2 ^ e0 = m * 2 ^ e := by
  have hpow : (2 : ℚ) ^ (e - e0).toNat * 2 ^ e0 = 2 ^ e := by
    rw [← zpow_natCast, ← zpow_add₀ two_ne_zero]
    congr 1
    omega
  simp only [fvAt, Bool.false_eq_true, if_false]
  push_cast
  rw [mul_assoc, hpow]

/-- Of two unsigned finite values the lesser is the one that is less as a rational. -/
theorem fvLt_fin_false (m1 m2 : Nat) (e1 e2 : Int) :
    fvLt (.fin false m1 e1) (.fin false m2 e2) = true ↔ (m1 : ℚ) * 2 ^ e1 < m2 * 2 ^ e2 := by
  have hcommon : ∀ e0 : Int, e0 ≤ e1 → e0 ≤ e2 →
      (fvAt false m1 e1 e0 < fvAt false m2 e2 e0 ↔ (m1 : ℚ) * 2 ^ e1 < m2 * 2 ^ e2) := by
    intro e0 h1 h2
    rw [← fvAt_false_mul_zpow m1 h1, ← fvAt_false_mul_zpow m2 h2, mul_lt_mul_iff_left₀ (by positivity), Int.cast_lt]
  simp only [fvLt, decide_eq_true_eq]
  exact hcommon _ (by split <;> omega) (by split <;> omega)

theorem magLe_fin (n1 n2 : Bool) (m1 m2 : Nat) (e1 e2 : Int) :
    magLe (.fin n1 m1 e1) (.fin n2 m2 e2) = true ↔ (m1 : ℚ) * 2 ^ e1 ≤ m2 * 2 ^ e2 := by
  rw [← not_lt, ← fvLt_fin_false]
  simp [magLe, fvAbs]

/-! ### The scale of a block (R61) -/

/-- The code is found by the test r ≤ b with r = A / (|T| · Q), the quotient the rule names. -/
theorem magLe_scale_iff (na : Bool) (ma : Nat) {mt q : Nat} (ea et : Int) (code : Nat) (hmt : 0 < mt) (hq : 0 < q) :
    magLe (.fin na ma ea) (.fin false (mt * q * b8Sig code) (et + b8Exp code)) = true ↔
      (ma : ℚ) * 2 ^ ea / (mt * 2 ^ et * q) ≤ b8Value code := by
  have hpos : (0 : ℚ) < mt * 2 ^ et * q := by positivity
  have hprod : ((mt * q * b8Sig code : Nat) : ℚ) * 2 ^ (et + b8Exp code) = b8Value code * (mt * 2 ^ et * q) := by
    rw [zpow_add₀ two_ne_zero, b8Value]
    push_cast
    ring
  rw [magLe_fin, hprod, div_le_iff₀ hpos]

/-- The scale of a block is the least code whose value reaches the quotient, or 255 when no code's does. -/
theorem b8For_spec (na nt : Bool) (ma : Nat) {mt q : Nat} (ea et : Int) (hmt : 0 < mt) (hq : 0 < q) :
    let r : ℚ := ma * 2 ^ ea / (mt * 2 ^ et * q)
    let b := b8For (.fin na ma ea) (.fin nt mt et) q
    (b < 256 ∧ r ≤ b8Value b ∧ ∀ c < b, b8Value c < r) ∨ (b = 255 ∧ ∀ c < 256, b8Value c < r) := by
  intro r b
  have htest (c : Nat) := magLe_scale_iff na ma ea et c hmt hq
  cases hfind : (List.range 256).find? fun c => magLe (.fin na ma ea) (.fin false (mt * q * b8Sig c) (et + b8Exp c)) with
  | none =>
    have hb : b = 255 := by simp only [b, b8For, fvParts, hfind, Option.getD_none]
    refine .inr ⟨hb, fun c hc => ?_⟩
    rw [← not_le, ← htest]
    exact List.find?_eq_none.mp hfind c (List.mem_range.mpr hc)
  | some k =>
    have hb : b = k := by simp only [b, b8For, fvParts, hfind, Option.getD_some]
    obtain ⟨hreach, hmem, hleast⟩ := List.find?_range_eq_some.mp hfind
    rw [hb]
    refine .inl ⟨List.mem_range.mp hmem, (htest k).mp hreach, fun c hc => ?_⟩
    rw [← not_le, ← htest]
    simpa using hleast c hc

/-- A scale that reaches A / (T · Q) leaves no quotient above Q. -/
theorem div_mul_le_of_div_mul_le {A T Q v : ℚ} (hT : 0 < T) (hQ : 0 < Q) (hv : 0 < v) (h : A / (T * Q) ≤ v) :
    A / (T * v) ≤ Q := by
  rw [div_le_iff₀ (by positivity)] at h ⊢
  calc A ≤ v * (T * Q) := h
    _ = Q * (T * v) := by ring

/-! ### Saturation (R62) -/

theorem largestCode_pos (fmt : Nat) : 0 < largestCode fmt := by
  unfold largestCode
  split_ifs <;> decide

/-- The least code of a format: 0 for an unsigned one, and the largest one's opposite for a signed one. -/
def leastCode (fmt : Nat) : Int := if isUnsignedFmt fmt then 0 else -largestCode fmt

theorem leastCode_bounds (fmt : Nat) : -(largestCode fmt : Int) ≤ leastCode fmt ∧ leastCode fmt < largestCode fmt := by
  have hq := largestCode_pos fmt
  unfold leastCode
  split <;> omega

theorem saturate_above {fmt : Nat} {z : Int} (h : (largestCode fmt : Int) < z) : saturate fmt z = ((largestCode fmt : Int), 1) := by
  have hlo : ¬ z < leastCode fmt := by have := (leastCode_bounds fmt).2; omega
  exact (if_neg hlo).trans (if_pos h)

theorem saturate_below {fmt : Nat} {z : Int} (h : z < leastCode fmt) : saturate fmt z = (leastCode fmt, 1) := if_pos h

theorem saturate_inside {fmt : Nat} {z : Int} (hlo : leastCode fmt ≤ z) (hhi : z ≤ largestCode fmt) : saturate fmt z = (z, 0) :=
  (if_neg hlo.not_gt).trans (if_neg hhi.not_gt)

/-- Whatever is saturated, the code lies in the format's range. -/
theorem saturate_mem_range (fmt : Nat) (z : Int) :
    leastCode fmt ≤ (saturate fmt z).1 ∧ (saturate fmt z).1 ≤ largestCode fmt := by
  have hlt := (leastCode_bounds fmt).2
  by_cases hlo : z < leastCode fmt
  · rw [saturate_below hlo]; exact ⟨le_rfl, hlt.le⟩
  by_cases hhi : (largestCode fmt : Int) < z
  · rw [saturate_above hhi]; exact ⟨hlt.le, le_rfl⟩
  · rw [saturate_inside (not_lt.mp hlo) (not_lt.mp hhi)]; exact ⟨not_lt.mp hlo, not_lt.mp hhi⟩

/-- Settles O24: B8 values rise with their codes, so the first code that the search finds has the smallest value that is large
enough. -/
theorem blocksTakeTheSmallestScale : Obligations.BlocksTakeTheSmallestScale := by
  constructor
  · intro na nt ma mt ea et fmt hmt Q A T value b
    have hq := largestCode_pos fmt
    have hT : 0 < T := by positivity
    have hQ : 0 < Q := Nat.cast_pos.mpr hq
    have hvalue : value = b8Value := rfl
    have hsmallest : ∀ c < 256, A / (T * Q) ≤ b8Value c → A / (T * Q) ≤ b8Value b ∧ b8Value b ≤ b8Value c := by
      intro c hc hr
      obtain ⟨-, hreach, hleast⟩ | ⟨-, hnone⟩ := b8For_spec na nt ma ea et hmt hq
      · exact ⟨hreach, b8Value_monotone (not_lt.mp fun hcb => (hleast c hcb).not_ge hr)⟩
      · exact absurd hr (hnone c hc).not_ge
    rw [hvalue]
    refine ⟨?_, hsmallest, ?_, ?_, div_mul_le_of_div_mul_le hT hQ (b8Value_pos b)⟩
    · obtain ⟨hb, -, -⟩ | ⟨hb, -⟩ := b8For_spec na nt ma ea et hmt hq
      · exact hb
      · exact hb.trans_lt (by decide)
    · intro hall
      obtain ⟨hb, hreach, -⟩ | ⟨hb, -⟩ := b8For_spec na nt ma ea et hmt hq
      · exact absurd hreach (hall b hb).not_ge
      · exact (congrArg b8Value hb).trans b8Value_255
    · intro hr
      obtain ⟨-, hle⟩ := hsmallest 0 (by decide) (b8Value_zero ▸ hr)
      exact le_antisymm (hle.trans_eq b8Value_zero) (b8Value_zero.ge.trans (b8Value_monotone b.zero_le))
  · intro fmt z q
    obtain ⟨hlo, hlt⟩ := leastCode_bounds fmt
    obtain ⟨hmin, hmax⟩ := saturate_mem_range fmt z
    refine ⟨saturate_above, fun h => ?_, hlo.trans hmin, hmax⟩
    rw [saturate_below (h.trans_le hlo)]
    rfl

end Sys2Proof.Proofs
end

section
/-! SUPPORT. What a SIGNAL changes (R195, R204): the objects, their wraps, the sequencers and the count of dropped SIGNALs, and that
reports of events and barriers leave all four as they are. -/

namespace Sys2Proof.Proofs

open Sys2Proof Sys2Proof.Machine Sys2Proof.Laws

/-! ### Entries of the dictionary -/

theorem odNat_odPut_same (s : Block) (i j v : Nat) : odNat (odPut s i j v) i j = v :=
  tget_tset_self (odDefault i j) s.od (odKey i j) v

/-- An entry keeps its value when another one is written, though the two may have different defaults. -/
theorem odNat_odPut_ne (s : Block) {i j i' j' : Nat} (v : Nat) (h : odKey i j ≠ odKey i' j') :
    odNat (odPut s i j v) i' j' = odNat s i' j' := by
  change tget _ (tset (odDefault i j) s.od (odKey i j) v) _ = tget _ s.od _
  unfold tset
  split
  · rw [tget_tdel, if_neg h]
  · rw [tget_tins _ _ _ _ _ (by rw [tget_tdel, if_pos rfl]) (tdel_keys _ _), if_neg h, tget_tdel, if_neg h]

/-- A count entry counts modulo its width. -/
theorem odNat_odBump_same (s : Block) (i j n : Nat) :
    odNat (odBump s i j n) i j = (odNat s i j + n) % 2 ^ (8 * odLen i j) := odNat_odPut_same s i j _

/-! ### The frame of a SIGNAL -/

/-- From `s` to `t` nothing has changed that a SIGNAL acts on or counts: the objects, their wraps, the sequencers, and the count of
dropped SIGNALs in OD 0x4330.03. -/
structure SignalFrame (s t : Block) : Prop where
  sync : t.sync = s.sync
  wraps : t.wraps = s.wraps
  seqs : t.seqs = s.seqs
  dropped : odNat t 0x4330 3 = odNat s 0x4330 3

theorem SignalFrame.refl (s : Block) : SignalFrame s s := ⟨rfl, rfl, rfl, rfl⟩

theorem SignalFrame.trans {r s t : Block} (h1 : SignalFrame r s) (h2 : SignalFrame s t) : SignalFrame r t :=
  ⟨h2.sync.trans h1.sync, h2.wraps.trans h1.wraps, h2.seqs.trans h1.seqs, h2.dropped.trans h1.dropped⟩

theorem SignalFrame.syncAt {s t : Block} (h : SignalFrame s t) (k : Nat) : syncAt t k = syncAt s k := by
  rw [Machine.syncAt, h.sync, Machine.syncAt]

theorem SignalFrame.seqAt {s t : Block} (h : SignalFrame s t) (q : Nat) : seqAt t q = seqAt s q := by
  rw [Machine.seqAt, h.seqs, Machine.seqAt]

/-- A change that a fold makes step by step. -/
theorem SignalFrame.foldl {α : Type} {f : Block → α → Block} (h : ∀ s x, SignalFrame s (f s x)) :
    ∀ (l : List α) (s : Block), SignalFrame s (l.foldl f s)
  | [], s => .refl s
  | x :: l, s => (h s x).trans (.foldl h l (f s x))

/-- Counters and packets that leave keep the frame. -/
theorem signalFrame_of_portFrame {s t : Block} (h : PortFrame s t) : SignalFrame s t := by
  unfold PortFrame at h
  rw [h]
  exact ⟨rfl, rfl, rfl, rfl⟩

theorem countEvent_signalFrame (s : Block) (u code n : Nat) : SignalFrame s (countEvent s u code n) :=
  signalFrame_of_portFrame (countEvent_frame s u code n)

theorem odPut_signalFrame (s : Block) {i j : Nat} (v : Nat) (h : odKey i j ≠ odKey 0x4330 3) : SignalFrame s (odPut s i j v) :=
  ⟨rfl, rfl, rfl, odNat_odPut_ne s v h⟩

theorem odBump_signalFrame (s : Block) {i j : Nat} (n : Nat) (h : odKey i j ≠ odKey 0x4330 3) : SignalFrame s (odBump s i j n) :=
  odPut_signalFrame s _ h

/-! ### Reports of events -/

theorem logOccur_signalFrame (s : Block) (bucket event unit : Nat) (st : Status) (severity : Nat) (detail : Word) :
    SignalFrame s (logOccur s bucket event unit st severity detail).1 := by
  have hseq := odPut_signalFrame s ((odNat s 0xB040 5 + 1) % 2 ^ 64) (i := 0xB040) (j := 5) (by decide)
  unfold logOccur
  dsimp only
  split
  · exact hseq.trans ⟨rfl, rfl, rfl, rfl⟩
  · refine hseq.trans (.trans ?_ (odBump_signalFrame _ 1 (by decide)))
    exact ⟨rfl, rfl, rfl, rfl⟩

theorem ledgerFault_signalFrame (s : Block) (st : Status) (unit detail : Nat) : SignalFrame s (ledgerFault s st unit detail) := by
  unfold ledgerFault ledgerPut
  split
  · exact ⟨rfl, rfl, rfl, rfl⟩
  · exact .refl s

theorem raiseAlarm_signalFrame (s : Block) (code unit : Nat) (st : Status) (detail : Nat) :
    SignalFrame s (raiseAlarm s code unit st detail) := by
  unfold raiseAlarm
  refine .trans ?_ (ledgerFault_signalFrame _ _ _ _)
  refine .trans ?_ (logOccur_signalFrame _ _ _ _ _ _ _)
  refine .trans ?_ (odPut_signalFrame _ _ (by decide))
  refine .trans ?_ (odBump_signalFrame _ _ (by decide))
  exact ⟨rfl, rfl, rfl, rfl⟩

theorem report_signalFrame (s : Block) (unit code n : Nat) (st : Status) (detail : Nat) :
    SignalFrame s (report s unit code n st detail) := by
  have hcount := countEvent_signalFrame s unit code n
  unfold report
  dsimp only
  generalize (if Config.logWarning (unitClass unit) code then 1 else 0) = severity
  split
  · have hlog := hcount.trans (logOccur_signalFrame _ (unitClass unit) code unit st severity (BitVec.ofNat 64 detail))
    split
    · exact hlog.trans (raiseAlarm_signalFrame _ _ _ _ _)
    · exact hlog
  · exact hcount

/-! ### Barriers and arming -/

theorem startRecall_signalFrame (s : Block) (line : Nat) (fwd : Bool) (targets : BitVec 96) :
    SignalFrame s (startRecall s line fwd targets) := by
  unfold startRecall
  refine .trans ?_ (.foldl (fun s k => ?_) _ _)
  · exact ⟨rfl, rfl, rfl, rfl⟩
  · exact (countEvent_signalFrame s _ _ _).trans (signalFrame_of_portFrame (sendPkt_frame _ _))

theorem beginArming_signalFrame (s : Block) (trel : Nat) : SignalFrame s (beginArming s trel) := by
  unfold beginArming
  split
  · refine .trans ?_ (.foldl (fun s l => startRecall_signalFrame s l true _) _ _)
    refine .trans ?_ (odPut_signalFrame _ _ (by decide))
    exact ⟨rfl, rfl, rfl, rfl⟩
  · refine .trans ?_ (odBump_signalFrame _ _ (by decide))
    exact ⟨rfl, rfl, rfl, rfl⟩
  · exact .refl s

theorem barrierSend_signalFrame (s : Block) (g : Group) (drank : Nat) (release : Bool) (gen10 : BitVec 10) (trel : Word) :
    SignalFrame s (barrierSend s g drank release gen10 trel) := by
  unfold barrierSend
  dsimp only
  split
  · exact .refl s
  · exact signalFrame_of_portFrame (sendPkt_frame _ _)

theorem barrierReleaseSet_signalFrame (s : Block) (b : Nat) (trel : Word) : SignalFrame s (barrierReleaseSet s b trel) := by
  unfold barrierReleaseSet
  have hput : ∀ x : BarrierSt, SignalFrame s (barrierPut s b x) := fun _ => ⟨rfl, rfl, rfl, rfl⟩
  have hsent := (hput { barrierAt s b with release := some trel }).trans (.foldl (fun t c => barrierSend_signalFrame t
    (groupAt s (barrierGidx (barrierAt s b))) c true (barrierGen10 (barrierAt s b)) trel)
    (treeChildren (groupAt s (barrierGidx (barrierAt s b))).m (groupAt s (barrierGidx (barrierAt s b))).rank) _)
  dsimp only
  split
  · exact hsent.trans (beginArming_signalFrame _ _)
  · exact hsent

theorem barrierUp_signalFrame (s : Block) (b : Nat) : SignalFrame s (barrierUp s b) := by
  unfold barrierUp
  dsimp only
  split
  · split
    · exact barrierReleaseSet_signalFrame s b _
    · exact barrierSend_signalFrame s _ _ _ _ _
  · exact .refl s

theorem barrierCount_signalFrame (s : Block) (obj b : Nat) : SignalFrame s (barrierCount s obj b) := by
  unfold barrierCount
  dsimp only
  split
  · refine .trans ?_ (barrierUp_signalFrame _ b)
    exact ⟨rfl, rfl, rfl, rfl⟩
  · exact .refl s

/-- The barriers that an object's change reaches leave the objects and the sequencers as they are (R428). -/
theorem barrierCheck_signalFrame (s : Block) (obj : Nat) : SignalFrame s (barrierCheck s obj) :=
  .foldl (fun s b => barrierCount_signalFrame s obj b) _ s

/-! ### Objects after a write -/

theorem syncAt_syncPut_same (s : Block) (i : Nat) (o : SyncObj) : syncAt (syncPut s i o) i = o :=
  tget_tset_self sync0 s.sync i o

theorem syncAt_syncPut_ne (s : Block) {i k : Nat} (o : SyncObj) (h : k ≠ i) : syncAt (syncPut s i o) k = syncAt s k :=
  tget_tset_ne sync0 s.sync o h.symm

theorem seqAt_seqPut_same (s : Block) (q : Nat) (x : Seq) : seqAt (seqPut s q x) q = x :=
  tget_tset_self seq0 s.seqs q x

/-! ### SIGNAL ADD (R204) -/

/-- On an aborted object, a SIGNAL ADD is only counted in OD 0x4330.03. -/
theorem signalAdd_aborted {b : Block} {obj : Nat} (v : Word) (h : (syncAt b obj).aborted = true) :
    SignalFrame (odBump b 0x4330 3 1) (signalAdd b obj v) := by
  unfold signalAdd
  rw [if_pos h]
  exact report_signalFrame _ _ _ _ _ _

/-- The object and the wraps that a SIGNAL ADD writes where the object is not aborted. -/
def added (b : Block) (obj : Nat) (v : Word) : Block :=
  syncPut { b with wraps := b.wraps + ((syncAt b obj).count.toNat + v.toNat) / 2 ^ 64 } obj ⟨(syncAt b obj).count + v, false⟩

theorem signalAdd_live {b : Block} {obj : Nat} (v : Word) (h : (syncAt b obj).aborted = false) :
    SignalFrame (added b obj v) (signalAdd b obj v) := by
  unfold signalAdd added
  rw [if_neg (by simp [h]), ← h]
  exact (countEvent_signalFrame _ _ _ _).trans (barrierCheck_signalFrame _ _)

theorem syncAt_signalAdd_ne (b : Block) {obj k : Nat} (v : Word) (hk : k ≠ obj) : syncAt (signalAdd b obj v) k = syncAt b k := by
  cases h : (syncAt b obj).aborted with
  | true => exact (signalAdd_aborted v h).syncAt k
  | false => exact ((signalAdd_live v h).syncAt k).trans (syncAt_syncPut_ne _ _ hk)

theorem seqAt_signalAdd (b : Block) (obj : Nat) (v : Word) (q : Nat) : seqAt (signalAdd b obj v) q = seqAt b q := by
  cases h : (syncAt b obj).aborted with
  | true => exact (signalAdd_aborted v h).seqAt q
  | false => exact (signalAdd_live v h).seqAt q

/-! ### SIGNAL SET and the restart of a sequencer (R195) -/

theorem restartSeq_no_sequencer (s : Block) {obj : Nat} (v : Word) (h : 545 ≤ obj) : restartSeq s obj v = s := by
  simp [restartSeq, launchSeq, Nat.not_lt.mpr h]

theorem restartSeq_running {s : Block} {obj : Nat} (v : Word) (h : (seqAt s obj).running = true) : restartSeq s obj v = s := by
  by_cases hobj : obj < 545
  · simp [restartSeq, launchSeq, hobj, h]
  · exact restartSeq_no_sequencer s v (not_lt.mp hobj)

/-- A stopped sequencer runs again from VALUE; for a tile's, its bit of OD 0x4330.02 clears too. -/
theorem restartSeq_stopped {s : Block} {q : Nat} (v : Word) (hq : q < 545) (h : (seqAt s q).running = false) :
    (restartSeq s q v).sync = s.sync ∧
    (restartSeq s q v).seqs = (seqPut s q { seqAt s q with running := true, n := v.toNat }).seqs := by
  simp only [restartSeq, launchSeq, if_pos hq, h, Bool.false_eq_true, if_false]
  split <;> exact ⟨rfl, rfl⟩

theorem restartSeq_sync (s : Block) (obj : Nat) (v : Word) : (restartSeq s obj v).sync = s.sync := by
  by_cases hobj : obj < 545
  · cases h : (seqAt s obj).running with
    | true => rw [restartSeq_running v h]
    | false => exact (restartSeq_stopped v hobj h).1
  · rw [restartSeq_no_sequencer s v (not_lt.mp hobj)]

theorem seqAt_restartSeq_stopped {s : Block} {q : Nat} (v : Word) (hq : q < 545) (h : (seqAt s q).running = false) :
    seqAt (restartSeq s q v) q = { seqAt s q with running := true, n := v.toNat } := by
  rw [seqAt, (restartSeq_stopped v hq h).2]
  exact seqAt_seqPut_same _ _ _

/-- A sequencer that runs, or whose launch object is another one, is not restarted. -/
theorem seqAt_restartSeq_kept {s : Block} {obj q : Nat} (v : Word) (hkept : q ≠ obj ∨ (seqAt s q).running = true ∨ 545 ≤ obj) :
    seqAt (restartSeq s obj v) q = seqAt s q := by
  by_cases hobj : obj < 545
  · cases h : (seqAt s obj).running with
    | true => rw [restartSeq_running v h]
    | false =>
      have hne : obj ≠ q := by
        rintro rfl
        simp [h, Nat.not_le.mpr hobj] at hkept
      rw [seqAt, (restartSeq_stopped v hobj h).2]
      exact tget_tset_ne seq0 s.seqs _ hne
  · rw [restartSeq_no_sequencer s v (not_lt.mp hobj)]

/-- The object as SIGNAL SET writes it, counted as an event, before a sequencer restarts. -/
def setCounted (b : Block) (obj : Nat) (v : Word) : Block := countEvent (syncPut b obj ⟨v, false⟩) unitSync 1 1

theorem setCounted_frame (b : Block) (obj : Nat) (v : Word) : SignalFrame (syncPut b obj ⟨v, false⟩) (setCounted b obj v) :=
  countEvent_signalFrame _ _ _ _

theorem signalSet_frame (b : Block) (obj : Nat) (v : Word) :
    SignalFrame (restartSeq (setCounted b obj v) obj v) (signalSet b obj v) := barrierCheck_signalFrame _ obj

theorem seqAt_setCounted (b : Block) (obj : Nat) (v : Word) (q : Nat) : seqAt (setCounted b obj v) q = seqAt b q :=
  (setCounted_frame b obj v).seqAt q

/-- Whatever it restarts, SIGNAL SET writes one object. -/
theorem syncAt_signalSet (b : Block) (obj : Nat) (v : Word) (k : Nat) :
    syncAt (signalSet b obj v) k = syncAt (syncPut b obj ⟨v, false⟩) k := by
  rw [(signalSet_frame b obj v).syncAt, syncAt, restartSeq_sync]
  exact (setCounted_frame b obj v).syncAt k

/-! ### LAUNCH at a stopped sequencer (R195) -/

theorem launchReady_stopped {b : Block} {q : Nat} (h : (seqAt b q).running = false) : launchReady b q = false := by
  simp [launchReady, h]

/-- What a LAUNCH makes of the module. -/
def launchEffect (q : SeqId) (b : Block) : Block := if launchReady b q then ledgerFlush (takeLaunch b q) else b

theorem answers_launch (q : SeqId) (b : Block) : Answers (.launch q) b (launchEffect q b) := answers_of (fun _ => rfl) b

/-- Settles O10. A SIGNAL writes its object and the launch sequencer of it, or, dropped, the count of OD 0x4330.03; the reports and the
barriers that follow keep `SignalFrame`. -/
theorem signalsActOnTheirObject : Obligations.SignalsActOnTheirObject := by
  refine ⟨fun b obj v h => ⟨?_, (signalAdd_live v h).wraps⟩, fun b obj v h => ⟨(signalAdd_aborted v h).sync, ?_⟩, fun b obj v => ?_,
    fun b obj k v hk => ⟨syncAt_signalAdd_ne b v hk, ?_⟩, fun b obj q v => ⟨seqAt_signalAdd b obj v q, fun hkept => ?_⟩,
    fun b q v hq h => ?_, fun b q h => ?_⟩
  · exact ((signalAdd_live v h).syncAt obj).trans (syncAt_syncPut_same _ obj _)
  · exact (signalAdd_aborted v h).dropped.trans (odNat_odBump_same b 0x4330 3 1)
  · exact (syncAt_signalSet b obj v obj).trans (syncAt_syncPut_same b obj _)
  · exact (syncAt_signalSet b obj v k).trans (syncAt_syncPut_ne b _ hk)
  · rw [← seqAt_setCounted b obj v q] at hkept ⊢
    exact ((signalSet_frame b obj v).seqAt q).trans (seqAt_restartSeq_kept v hkept)
  · rw [← seqAt_setCounted b q v q] at h ⊢
    exact ((signalSet_frame b q v).seqAt q).trans (seqAt_restartSeq_stopped v hq h)
  · have hturned : launchEffect q b = b := if_neg (by simp [launchReady_stopped h])
    simpa only [hturned] using answers_launch q b

end Sys2Proof.Proofs
end

section
/-! SUPPORT. What leaves the harts as they are: packets that leave, events and alarms, the cache, error correction, the operations
of a home and its arbiters. -/

namespace Sys2Proof.Proofs

open Sys2Proof Sys2Proof.Machine Sys2Proof.Laws

theorem foldl_harts {α : Type} {f : Block → α → Block} (hf : ∀ s x, (f s x).harts = s.harts) :
    ∀ (l : List α) (s : Block), (l.foldl f s).harts = s.harts
  | [], _ => rfl
  | x :: l, s => (foldl_harts hf l (f s x)).trans (hf s x)

/-! ### Packets, events and counts -/

@[simp] theorem sendPkt_harts (s : Block) (p : Packet) : (sendPkt s p).harts = s.harts := (sendPkt_frame s p).harts

@[simp] theorem sendCoh_harts (s : Block) (ptype dslot line : Nat) (ext : BitVec 128) (st : Status) (data : List Byte) :
    (sendCoh s ptype dslot line ext st data).harts = s.harts := sendPkt_harts s _

@[simp] theorem respond_harts (s : Block) (p : PktHdr) (ptype seq : Nat) (st : Status) (payload : List (BitVec 128)) :
    (respond s p ptype seq st payload).harts = s.harts := sendPkt_harts s _

@[simp] theorem countEvent_harts (s : Block) (u code n : Nat) : (countEvent s u code n).harts = s.harts :=
  (countEvent_frame s u code n).harts

@[simp] theorem sliceEvent_harts (s : Block) (a code : Nat) : (sliceEvent s a code).harts = s.harts := countEvent_harts s _ _ _

@[simp] theorem stackEvent_harts (s : Block) (a code : Nat) : (stackEvent s a code).harts = s.harts := countEvent_harts s _ _ _

@[simp] theorem tallyAdd_harts (s : Block) (unit : Nat) (k : Tally) (n : Nat) : (tallyAdd s unit k n).harts = s.harts := by
  unfold tallyAdd
  split <;> rfl

@[simp] theorem countArith_harts (s : Block) (unit : Nat) (e : Ev) : (countArith s unit e).harts = s.harts := by
  simp [countArith]

/-! ### The log and the alarms -/

@[simp] theorem logOccur_harts (s : Block) (bucket event unit : Nat) (st : Status) (severity : Nat) (detail : Word) :
    (logOccur s bucket event unit st severity detail).1.harts = s.harts := by
  unfold logOccur
  dsimp only
  split
  · rfl
  · simp

@[simp] theorem ledgerFault_harts (s : Block) (st : Status) (unit detail : Nat) : (ledgerFault s st unit detail).harts = s.harts := by
  unfold ledgerFault ledgerPut
  split <;> rfl

@[simp] theorem raiseAlarm_harts (s : Block) (code unit : Nat) (st : Status) (detail : Nat) :
    (raiseAlarm s code unit st detail).harts = s.harts := by
  simp [raiseAlarm]

@[simp] theorem report_harts (s : Block) (unit code n : Nat) (st : Status) (detail : Nat) :
    (report s unit code n st detail).harts = s.harts := by
  unfold report
  dsimp only
  generalize (if Config.logWarning (unitClass unit) code then 1 else 0) = severity
  split
  · split <;> simp
  · simp

@[simp] theorem sampleTick_harts (s : Block) (cls unit : Nat) : (sampleTick s cls unit).1.harts = s.harts := by
  unfold sampleTick
  split <;> rfl

@[simp] theorem traceInstr_harts (s : Block) (h : Nat) (k : Hart) : (traceInstr s h k).harts = s.harts := by
  unfold traceInstr traceQueue
  dsimp only
  split
  · simp
  · rfl

/-! ### Arbiters, recalls and requests that wait -/

@[simp] theorem arbRaise_harts (s : Block) (p w : Nat) : (arbRaise s p w).harts = s.harts := by
  unfold arbRaise
  dsimp only
  split <;> rfl

@[simp] theorem startRecall_harts (s : Block) (line : Nat) (fwd : Bool) (targets : BitVec 96) :
    (startRecall s line fwd targets).harts = s.harts :=
  foldl_harts (fun s k => by simp) _ _

@[simp] theorem askCopy_harts (s : Block) (j : Nat) : (askCopy s j).harts = s.harts := by
  unfold askCopy
  split
  · split <;> rfl
  · rfl

@[simp] theorem countStall_harts (s : Block) : (countStall s).harts = s.harts := by
  unfold countStall
  dsimp only
  split <;> simp

/-! ### The memory-side cache -/

@[simp] theorem cacheSetPut_harts (s : Block) (line : Nat) (ws : List CLine) : (cacheSetPut s line ws).harts = s.harts := rfl

@[simp] theorem cacheDrop_harts (s : Block) (line : Nat) : (cacheDrop s line).harts = s.harts := by
  unfold cacheDrop
  split
  · rfl
  · dsimp only
    split <;> simp

@[simp] theorem evict_harts (s : Block) (line : Nat) : (evict s line).harts = s.harts := by
  unfold evict
  dsimp only
  split
  · simp
  · split <;> simp

@[simp] theorem cacheFit_harts (s : Block) (line room : Nat) : (cacheFit s line room).harts = s.harts := by
  unfold cacheFit
  dsimp only
  split
  · rfl
  · split <;> simp

@[simp] theorem cacheHit_harts (s : Block) (w : CLine) (hint : Nat) (write : Bool) : (cacheHit s w hint write).harts = s.harts := by
  unfold cacheHit
  dsimp only
  split
  · simp
  · simp
  · split <;> simp

@[simp] theorem cacheFill_harts (s : Block) (line : Nat) (write full : Bool) : (cacheFill s line write full).harts = s.harts := by
  unfold cacheFill
  dsimp only
  split <;> simp

@[simp] theorem cacheTouch_harts (s : Block) (a hint : Nat) (write full : Bool) : (cacheTouch s a hint write full).harts = s.harts := by
  unfold cacheTouch
  dsimp only
  split
  · rfl
  · split
    · simp
    · split <;> simp

@[simp] theorem cacheCombine_harts (s : Block) (a hint : Nat) : (cacheCombine s a hint).harts = s.harts := by
  unfold cacheCombine
  dsimp only
  split
  · rfl
  · split
    · simp
    · split <;> simp

@[simp] theorem cacheLend_harts (s : Block) (line hint : Nat) : (cacheLend s line hint).harts = s.harts := by
  unfold cacheLend
  dsimp only
  split <;> split <;> simp

/-! ### Errors of memory -/

@[simp] theorem markBad_harts (s : Block) (line : Nat) : (markBad s line).harts = s.harts := rfl

@[simp] theorem clearBad_harts (s : Block) (a n : Nat) : (clearBad s a n).harts = s.harts := rfl

@[simp] theorem retirePage_harts (s : Block) (stack : Nat) (p : RetPage) : (retirePage s stack p).harts = s.harts := by
  unfold retirePage
  split
  · rfl
  · split <;> simp

@[simp] theorem rowFailed_harts (s : Block) (stack key : Nat) : (rowFailed s stack key).harts = s.harts := by
  unfold rowFailed
  dsimp only
  split
  · rfl
  · split <;> split <;> simp

@[simp] theorem rowCorrected_harts (s : Block) (stack key : Nat) : (rowCorrected s stack key).harts = s.harts := by
  unfold rowCorrected
  dsimp only
  split <;> simp

/-- What the error code of a word reports leaves the harts as they are (R290, R291). -/
@[simp] theorem eccRead_harts (s : Block) (a : Nat) (e : Ecc) : (eccRead s a e).harts = s.harts := by
  cases e with
  | clean => rfl
  | corrected =>
    simp only [eccRead]
    split <;> simp
  | uncorrectable =>
    simp only [eccRead]
    split
    · rfl
    · split <;> simp

/-! ### Operations at a home -/

@[simp] theorem strictCheck_harts (s : Block) (a who : Nat) : (strictCheck s a who).1.harts = s.harts := by
  unfold strictCheck
  dsimp only
  split_ifs <;> simp

@[simp] theorem combineElem_harts (s : Block) (who : Requester) (tag a n aop x cmp : Nat) :
    (combineElem s who tag a n aop x cmp).1.harts = s.harts := by
  have hcheck : (if aop = 0b00110 then strictCheck s a tag else (s, none)).1.harts = s.harts := by split <;> simp
  unfold combineElem
  dsimp only
  split
  · rfl
  · split
    · exact hcheck
    · split <;> simpa using hcheck

@[simp] theorem combineSeen_harts (s : Block) (a hint : Nat) : (combineSeen s a hint).harts = s.harts := by
  unfold combineSeen
  dsimp only
  split <;> simp

@[simp] theorem combineAt_harts (s : Block) (who : Requester) (tag hint a n aop x cmp : Nat) :
    (combineAt s who tag hint a n aop x cmp).1.harts = s.harts := by
  unfold combineAt
  dsimp only
  split <;> simp

@[simp] theorem combineEach_harts (who : Requester) (tag n aop : Nat) : ∀ (l : List (Nat × Nat)) (s : Block),
    (combineEach who tag n aop l s).1.harts = s.harts
  | [], _ => rfl
  | (a, x) :: t, s => by
    unfold combineEach
    dsimp only
    split
    · simp [combineEach_harts who tag n aop t]
    · simp

@[simp] theorem combineAll_harts (s : Block) (who : Requester) (tag hint n aop : Nat) (es : List (Nat × Nat)) :
    (combineAll s who tag hint n aop es).1.harts = s.harts := by
  unfold combineAll
  split
  · rfl
  · dsimp only
    split <;> simp

@[simp] theorem homeWrite_harts (s : Block) (a hint : Nat) (d : List Byte) : (homeWrite s a hint d).harts = s.harts :=
  foldl_harts (fun s p => by simp) _ _

@[simp] theorem homeRead_harts (s : Block) (a hint n : Nat) : (homeRead s a hint n).1.harts = s.harts :=
  foldl_harts (fun s p => by simp) _ _

@[simp] theorem replayPut_harts (s : Block) (e : RepEnt) : (replayPut s e).harts = s.harts := rfl

@[simp] theorem openTx_harts (s : Block) (o : CohOpen) : (openTx s o).harts = s.harts := rfl

end Sys2Proof.Proofs
end

section
/-! SUPPORT. A hart that does not wait keeps its x registers while a home serves requests, those of other harts among them, and so
through the translation of its own access (R32, R250, R345). -/

namespace Sys2Proof.Proofs

open Sys2Proof Sys2Proof.Machine Sys2Proof.Laws

/-- From `s` to `t` the hart, when it waits for nothing, has gone on waiting for nothing and has kept its x registers. -/
def IdleKept (h : Nat) (s t : Block) : Prop :=
  (hartAt s h).blocked = none → (hartAt t h).blocked = none ∧ (hartAt t h).x = (hartAt s h).x

theorem IdleKept.refl (h : Nat) (s : Block) : IdleKept h s s := fun hb => ⟨hb, rfl⟩

theorem IdleKept.trans {h : Nat} {r s t : Block} (h1 : IdleKept h r s) (h2 : IdleKept h s t) : IdleKept h r t := fun hb =>
  have ⟨hb1, hx1⟩ := h1 hb
  have ⟨hb2, hx2⟩ := h2 hb1
  ⟨hb2, hx2.trans hx1⟩

theorem IdleKept.of_hartAt {h : Nat} {s t : Block} (ht : hartAt t h = hartAt s h) : IdleKept h s t := fun hb => by
  rw [ht]
  exact ⟨hb, rfl⟩

theorem IdleKept.of_harts {h : Nat} {s t : Block} (ht : t.harts = s.harts) : IdleKept h s t :=
  .of_hartAt (by rw [hartAt, ht, hartAt])

/-- A register reads as before. -/
theorem IdleKept.xget {h : Nat} {s t : Block} (hk : IdleKept h s t) (hb : (hartAt s h).blocked = none) (r : RegId) :
    xget (hartAt t h) r = xget (hartAt s h) r := by
  rw [Machine.xget, (hk hb).2, Machine.xget]

/-! ### Writes of a hart -/

@[simp] theorem hartAt_hartPut_same (s : Block) (h : Nat) (k : Hart) : hartAt (hartPut s h k) h = k := tget_tset_self hart0 s.harts h k

theorem hartAt_hartPut_ne (s : Block) {g h : Nat} (k : Hart) (hne : g ≠ h) : hartAt (hartPut s g k) h = hartAt s h :=
  tget_tset_ne hart0 s.harts k hne

/-- A hart's own state changes elsewhere than in its x registers, and it does not begin to wait. -/
theorem hartPut_idleKept (s : Block) (h : Nat) {k : Hart} (hb : k.blocked = (hartAt s h).blocked) (hx : k.x = (hartAt s h).x) :
    IdleKept h s (hartPut s h k) := fun hidle => by
  rw [hartAt_hartPut_same, hb, hx]
  exact ⟨hidle, rfl⟩

/-- What an instruction notes for its trace keeps the registers (R522, R523). -/
theorem noteIssue_idleKept (s : Block) (h : Nat) (w : Issued) : IdleKept h s (noteIssue s h w) := by
  unfold noteIssue
  split
  · exact hartPut_idleKept s h rfl rfl
  · exact .refl h s

theorem noteAccess_idleKept (s : Block) (h a : Nat) : IdleKept h s (noteAccess s h a) := by
  unfold noteAccess
  split
  · split
    · exact hartPut_idleKept s h rfl rfl
    · exact .refl h s
  · exact .refl h s

/-! ### What another hart does when its atomic is answered -/

section
variable {g h : Nat} (hne : g ≠ h)
include hne

theorem hartAt_retire_ne (s : Block) (k : Hart) : hartAt (retire s g k) h = hartAt s h := by
  refine .trans ?_ (hartAt_hartPut_ne s
    { k with pc := k.pc + 4, vstart := 0, blocked := none, lines := [], refused := [], sampling := none } hne)
  unfold retire hartAt
  dsimp only
  split <;> simp

theorem hartAt_retireRd_ne (s : Block) (rd : RegId) (v : Word) : hartAt (retireRd s g rd v) h = hartAt s h :=
  hartAt_retire_ne hne s _

theorem hartAt_noteFailed_ne (s : Block) (st : Status) : hartAt (noteFailed s g st) h = hartAt s h := by
  unfold noteFailed
  dsimp only
  split
  · rfl
  · exact hartAt_hartPut_ne s _ hne

theorem hartAt_trapFabric_ne (s : Block) (st : Status) : hartAt (trapFabric s g st) h = hartAt s h := by
  refine (hartAt_hartPut_ne _ _ hne).trans ?_
  rw [hartAt, report_harts, hartAt]

theorem hartAt_amoRefused_ne (s : Block) (rd : RegId) (st : Status) : hartAt (amoRefused s g rd st) h = hartAt s h :=
  (hartAt_retireRd_ne hne _ rd _).trans (hartAt_noteFailed_ne hne s st)

theorem hartAt_atomDone_ne (s : Block) (st : Status) (old : Nat) : hartAt (atomDone s g st old) h = hartAt s h := by
  unfold atomDone
  dsimp only
  split
  · split
    · exact hartAt_retireRd_ne hne s _ _
    · exact hartAt_trapFabric_ne hne s st
  · split
    · exact hartAt_retireRd_ne hne s _ _
    · exact hartAt_amoRefused_ne hne s _ st
  · split
    · exact hartAt_retireRd_ne hne s _ _
    · exact (hartAt_retireRd_ne hne _ _ _).trans (hartAt_noteFailed_ne hne s st)
  · exact hartAt_retireRd_ne hne s _ _
  · rfl

end

theorem atomDone_idle {s : Block} {h : Nat} (st : Status) (old : Nat) (hb : (hartAt s h).blocked = none) : atomDone s h st old = s := by
  simp [atomDone, hb]

/-- An atomic that is answered acts on the hart that waits for it alone. -/
theorem atomDone_idleKept (s : Block) (g h : Nat) (st : Status) (old : Nat) : IdleKept h s (atomDone s g st old) := by
  by_cases hgh : g = h
  · intro hb
    rw [hgh, atomDone_idle st old hb]
    exact ⟨hb, rfl⟩
  · exact .of_hartAt (hartAt_atomDone_ne hgh s st old)

theorem homeApply_amo (s : Block) (line : Nat) (h : HartId) (who : Requester) (hint op a n x cmp : Nat) :
    homeApply s line (.amo h who hint op a n x cmp) =
      (let r := combineAt s who (strictTag (ownSlot s) h) hint a n op x cmp
       atomDone r.1 h r.2.1 r.2.2) := rfl

/-! ### A home that serves the requests of its lines -/

/-- An entry that a change of a table's values leaves alone reads as before. -/
theorem tget_map_of_fixed {α : Type} {d : α} {f : Nat × α → Nat × α} (hkey : ∀ e, (f e).1 = e.1) {i : Nat} :
    ∀ {t : List (Nat × α)}, f (i, tget d t i) = (i, tget d t i) → tget d (t.map f) i = tget d t i
  | [], _ => rfl
  | (k, v) :: t, hfix => by
    rw [List.map_cons, tget, hkey, tget]
    by_cases hk : k = i
    · rw [tget, if_pos hk] at hfix
      rw [if_pos hk, if_pos hk, hk, hfix]
    · rw [tget, if_neg hk] at hfix
      rw [if_neg hk, if_neg hk, tget_map_of_fixed hkey hfix]

/-- What a line that reaches cluster `c` does to a hart: one of the cluster that waits for it waits for it no longer (R344). -/
def lineFrees (rackLine c : Nat) (e : Nat × Hart) : Nat × Hart :=
  if e.1 / 8 = c then
    match e.2.blocked with
    | some (.lines need) =>
      let left := need.filter (fun l => l != rackLine)
      (e.1, { e.2 with blocked := if left.isEmpty then none else some (.lines left) })
    | _ => e
  else e

theorem deliverLine_harts (s : Block) (rackLine c : Nat) (excl : Bool) (data : List Byte) :
    (deliverLine s rackLine c excl data).harts = s.harts.map (lineFrees rackLine c) := rfl

theorem lineFrees_key (rackLine c : Nat) (e : Nat × Hart) : (lineFrees rackLine c e).1 = e.1 := by
  unfold lineFrees
  split
  · split <;> rfl
  · rfl

theorem lineFrees_idle (rackLine c : Nat) {e : Nat × Hart} (hb : e.2.blocked = none) : lineFrees rackLine c e = e := by
  simp [lineFrees, hb]

theorem deliverLine_idleKept (h : Nat) (s : Block) (rackLine c : Nat) (excl : Bool) (data : List Byte) :
    IdleKept h s (deliverLine s rackLine c excl data) := fun hb => by
  have hsame : hartAt (deliverLine s rackLine c excl data) h = hartAt s h := by
    rw [hartAt, deliverLine_harts]
    exact tget_map_of_fixed (lineFrees_key rackLine c) (lineFrees_idle rackLine c hb)
  exact IdleKept.of_hartAt hsame hb

theorem homeApply_idleKept (h : Nat) (s : Block) (line : Nat) (r : HomeReq) : IdleKept h s (homeApply s line r) := by
  cases r with
  | rd p n => 
    refine .of_harts ?_
    simp only [homeApply]
    split <;> simp
  | wr p d => 
    refine .of_harts ?_
    simp only [homeApply]
    split <;> simp
  | bulk p d => 
    refine .of_harts ?_
    simp only [homeApply]
    split <;> simp
  | atom p x opnd cmp =>
    refine .of_harts ?_
    simp [homeApply]
  | red p x d =>
    refine .of_harts ?_
    simp only [homeApply]
    split <;> simp
  | cget a excl tid hint =>
    simp only [homeApply]
    split
    · split
      · exact deliverLine_idleKept h s _ _ _ _
      · exact .of_harts (by simp)
    · have hlent : (if agentOwns s a line then cacheTouch s (line * 128) hint false false else cacheLend s line hint).harts = s.harts := by
        split <;> simp
      split
      · refine .trans (.of_harts ?_) (deliverLine_idleKept h _ _ _ _ _)
        split_ifs <;> simp
      · refine .of_harts ?_
        split_ifs <;> simp
  | inner who hint a d => 
    refine .of_harts ?_
    simp only [homeApply]
    split <;> simp
  | amo g who hint op a n x cmp =>
    exact .trans (.of_harts (combineAt_harts s who _ hint a n op x cmp)) (atomDone_idleKept _ g h _ _)
  | own slot unit l => exact .refl h s

theorem serveHead_idleKept (h : Nat) (s : Block) (line : Nat) (r : HomeReq) (t : List HomeReq) :
    IdleKept h s (serveHead s line r t) := by
  unfold serveHead
  dsimp only
  refine .trans (.of_harts ?_) (homeApply_idleKept h _ line r)
  split <;> rfl

theorem drainLine_idleKept (h line : Nat) : ∀ (fuel : Nat) (s : Block), IdleKept h s (drainLine line fuel s)
  | 0, s => .refl h s
  | fuel + 1, s => by
    unfold drainLine
    split
    · exact .refl h s
    · split
      · exact .refl h s
      · split
        · exact (serveHead_idleKept h s line _ _).trans (drainLine_idleKept h line fuel _)
        · exact .refl h s
        · exact .of_harts (askCopy_harts s _)
        · exact .of_harts (startRecall_harts s line _ _)

/-- A requester that still waits is raised at its arbiter. -/
theorem arbRaise_unless_harts (served : Bool) (s : Block) (p w : Nat) : (if served then s else arbRaise s p w).harts = s.harts := by
  cases served <;> simp

/-- A home that takes a request keeps the registers of a hart that waits for nothing, whichever requests it serves. -/
theorem homeAdmit_idleKept (h : Nat) (s : Block) (line : Nat) (r : HomeReq) : IdleKept h s (homeAdmit s line r) := by
  refine .trans (.trans (.of_harts ?_) (drainLine_idleKept h line _ _)) (.of_harts (arbRaise_unless_harts _ _ _ _))
  rw [waitingPut_harts]
  split <;> simp

/-! ### Lines of the cluster, and the walk of a page table -/

theorem askOwn_here_idleKept {s t : Block} {h rackLine : Nat} {excl : Bool} {ecc : Ecc} (g : Nat)
    (hgot : askOwn s h rackLine excl ecc = .here t) : IdleKept g s t := by
  unfold askOwn at hgot
  dsimp only at hgot
  split at hgot
  · cases hgot
  · split at hgot
    · cases hgot
    · split at hgot
      · obtain rfl := LineGot.here.inj hgot
        exact .trans (.of_harts (by simp)) (homeAdmit_idleKept g _ _ _)
      · cases hgot

/-- Another module is asked, and the hart waits. -/
theorem askOther_ne_here (s t : Block) (h rackLine : Nat) (excl : Bool) : askOther s h rackLine excl ≠ .here t := by
  unfold askOther
  dsimp only
  split
  · nofun
  · split <;> nofun

theorem ensureLine_here_idleKept {s t : Block} {h rackLine : Nat} {excl : Bool} {ecc : Ecc} (g : Nat)
    (hgot : ensureLine s h rackLine excl ecc = .here t) : IdleKept g s t := by
  unfold ensureLine at hgot
  dsimp only at hgot
  split at hgot
  · obtain rfl := LineGot.here.inj hgot
    exact .refl g s
  · split at hgot
    · cases hgot
    · split at hgot
      · exact .trans (.of_harts (countEvent_harts s _ _ _)) (askOwn_here_idleKept g hgot)
      · exact absurd hgot (askOther_ne_here _ t h rackLine excl)

/-- A place that clusters may cache is read at its home when its line is bad or owned by others in READ, else in the cluster (R291,
R350). -/
theorem plainRoute_of_cached {s : Block} {h a : Nat} (hroute : routeOf s h a = .cached) :
    plainRoute s h a = .direct ∨ plainRoute s h a = .cached := by
  unfold plainRoute
  dsimp only
  rw [hroute]
  split_ifs <;> simp

theorem readPart_bytes_idleKept {s t : Block} {h : HartId} {va a n : Nat} {ecc : Ecc} {bs : List Byte} (g : Nat)
    (hroute : routeOf s h a = .cached) (hgot : readPart s h va a n ecc = .bytes t bs) : IdleKept g s t := by
  unfold readPart at hgot
  obtain hplain | hplain := plainRoute_of_cached hroute
  · simp only [hplain] at hgot
    split at hgot <;> cases hgot
    exact .of_harts (eccRead_harts s _ ecc)
  · simp only [hplain] at hgot
    split at hgot
    · cases hgot
    · split at hgot <;> cases hgot
      exact ensureLine_here_idleKept g ‹_›

theorem walk_found_idleKept {h : HartId} {p : Priv} {f : AccessFor} {va a : Nat} {t : Block} (g : Nat) : ∀ (level base : Nat) (s : Block),
    walk h p f va level base s = .found t a → IdleKept g s t
  | 0, _, _, hgot => by cases hgot
  | level + 1, base, s, hgot => by
    unfold walk at hgot
    dsimp only at hgot
    split at hgot
    · cases hgot
    · rename_i hplace
      split at hgot
      · cases hgot
      · cases hgot
      · rename_i s1 bs hread
        have hs1 : IdleKept g s s1 := readPart_bytes_idleKept g (not_not.mp (not_or.mp hplace).1) hread
        split_ifs at hgot
        · exact hs1.trans (walk_found_idleKept g level _ s1 hgot)
        · cases hgot
          exact hs1

theorem translated_found_idleKept {s t : Block} {h : HartId} {va a : Nat} {f : AccessFor} (g : Nat)
    (hgot : translated s h va f = .found t a) : IdleKept g s t := by
  unfold translated at hgot
  dsimp only at hgot
  split_ifs at hgot
  · cases hgot
    exact .refl g s
  · exact walk_found_idleKept g _ _ s hgot

/-- An address that is found: the hart, if it waits for nothing, still does so, with the x registers it had. -/
theorem translate_found_idleKept {s t : Block} {h : HartId} {va a : Nat} {f : AccessFor}
    (hgot : Machine.translate s h va f = .found t a) : IdleKept h s t := by
  unfold Machine.translate at hgot
  split at hgot
  · rename_i s1 a1 hfound
    have hwalk := translated_found_idleKept h hfound
    split_ifs at hgot
    · cases hgot
      exact hwalk
    · cases hgot
      exact hwalk.trans (noteAccess_idleKept s1 h a)
  · rename_i hnot
    exact absurd hgot (hnot t a)

end Sys2Proof.Proofs
end

section
/-! SUPPORT. The meaning of LR, SC and an AMO case by case (R254), and what an address that is found leaves of the hart's operands. -/

namespace Sys2Proof.Proofs

open Sys2Proof Sys2Proof.Machine Sys2Proof.Laws

/-- What an atomic's translation is for: LR loads, the others store. -/
def amoAccess (op : AmoOp) : AccessFor := if op == .lr then .load else .store

/-- The cause of an atomic's access fault. -/
def amoFault (op : AmoOp) : Nat := if op == .lr then causeLoadFault else causeStoreFault

theorem amoAccess_of_ne_lr {op : AmoOp} (hlr : op ≠ .lr) : amoAccess op = .store := if_neg (mt eq_of_beq hlr)

theorem amoFault_of_ne_lr {op : AmoOp} (hlr : op ≠ .lr) : amoFault op = 7 := if_neg (mt eq_of_beq hlr)

/-- What an atomic of a hart does once it is issued. -/
def amoBody (h : HartId) (op : AmoOp) (wid : Wid) (rl : Bool) (rd rs1 rs2 : RegId) (s : Block) : Block :=
  let k := hartAt s h
  let va := (xget k rs1).toNat
  if rl && storesPending s h then s
  else if va % widBytes wid ≠ 0 then takeTrap s h (if op == .lr then causeLoadMisaligned else causeStoreMisaligned) (BitVec.ofNat 64 va)
  else match Machine.translate s h va (amoAccess op) with
    | .trap s c => takeTrap s h c (BitVec.ofNat 64 va)
    | .wait s b => hartWait s h b
    | .found s a =>
      let route := routeOf s h a
      if route = .bad ∨ route = .window ∨ ¬ sameBay s (rackSlot a) then
        takeTrap s h (amoFault op) (BitVec.ofNat 64 va)
      else amoAt s h op wid rd va a (xget k rs2)

/-- An atomic that its hart issues takes its own effect. -/
theorem answers_coreAmo {b b1 : Block} {h : HartId} (hi : Issues b h ⟨0x2F, 0⟩ b1) (op : AmoOp) (wid : Wid) (aq rl : Bool)
    (rd rs1 rs2 : RegId) :
    Answers (.coreAmo h op wid aq rl rd rs1 rs2) b (ledgerFlush (amoBody h op wid rl rd rs1 rs2 b1)) := by
  rw [← issue_of hi (amoBody h op wid rl rd rs1 rs2)]
  exact answers_of (f := fun s => issue s h ⟨0x2F, 0⟩ (amoBody h op wid rl rd rs1 rs2)) (fun _ => rfl) b

/-- With rl an atomic waits for the hart's earlier stores. -/
theorem amoBody_pending {s : Block} {h : HartId} (op : AmoOp) (wid : Wid) (rd rs1 rs2 : RegId) (hp : storesPending s h = true) :
    amoBody h op wid true rd rs1 rs2 s = s := by
  simp [amoBody, hp]

/-- A hart that issues waits for nothing. -/
theorem blocked_of_issues {b b1 : Block} {h : HartId} {w : Issued} (hi : Issues b h w b1) : (hartAt b1 h).blocked = none := by
  obtain ⟨hready, -, b0, a, hfetch, -, rfl⟩ := hi
  have hb : (hartAt b h).blocked = none := by
    simp only [hartReady, Bool.and_eq_true, Option.isNone_iff_eq_none] at hready
    exact hready.2
  exact ((translate_found_idleKept hfetch).trans (noteIssue_idleKept b0 h w) hb).1

section
variable {b s t : Block} {h : HartId} {op : AmoOp} {wid : Wid} {rl : Bool} {rs1 : RegId} {a : Nat} (hi : Issues b h ⟨0x2F, 0⟩ s)
  (hal : (xget (hartAt s h) rs1).toNat % widBytes wid = 0) (hp : (rl && storesPending s h) = false)
  (hfound : Machine.translate s h (xget (hartAt s h) rs1).toNat (amoAccess op) = .found t a)
include hi hal hp hfound

/-- Outside the bay an atomic faults (R254). -/
theorem answers_outside (aq : Bool) (rd rs2 : RegId) (hbay : sameBay t (rackSlot a) = false) :
    Answers (.coreAmo h op wid aq rl rd rs1 rs2) b
      (ledgerFlush (takeTrap t h (amoFault op) (BitVec.ofNat 64 (xget (hartAt s h) rs1).toNat))) := by
  have hans := answers_coreAmo hi op wid aq rl rd rs1 rs2
  unfold amoBody at hans
  dsimp only at hans
  rw [if_neg (by simp [hp]), if_neg (not_not.mpr hal), hfound] at hans
  simpa only [hbay, Bool.false_eq_true, not_false_eq_true, or_true, if_true] using hans

/-- In the bay an atomic acts at its place, on the operand that the hart had when it issued. -/
theorem answers_inside (aq : Bool) (rd rs2 : RegId) (hbay : sameBay t (rackSlot a) = true)
    (hbad : routeOf t h a ≠ .bad) (hwin : routeOf t h a ≠ .window) :
    Answers (.coreAmo h op wid aq rl rd rs1 rs2) b
      (ledgerFlush (amoAt t h op wid rd (xget (hartAt s h) rs1).toNat a (xget (hartAt t h) rs2))) := by
  have hans := answers_coreAmo hi op wid aq rl rd rs1 rs2
  unfold amoBody at hans
  dsimp only at hans
  rw [if_neg (by simp [hp]), if_neg (not_not.mpr hal), hfound] at hans
  rw [(translate_found_idleKept hfound).xget (blocked_of_issues hi) rs2]
  simpa only [hbay, hbad, hwin, not_true_eq_false, or_false, if_false] using hans

end

/-! ### What an atomic does at its place -/

section
variable {s t : Block} {h : HartId} {a n : Nat}

theorem amoAt_lr_cached (wid : Wid) (rd : RegId) (va : Nat) (x : Word) (hroute : routeOf s h a = .cached)
    (hown : ownDeny s h a false = none) : amoAt s h .lr wid rd va a x = lrCached s h rd va a (widBytes wid) := by
  have hfree : ownDeny s h a (AmoOp.lr != .lr) = none := hown
  unfold amoAt
  rw [hfree]
  exact if_pos (beq_iff_eq.mpr hroute)

theorem amoAt_sc_cached (wid : Wid) (rd : RegId) (va : Nat) (x : Word) (hroute : routeOf s h a = .cached)
    (hown : ownDeny s h a true = none) : amoAt s h .sc wid rd va a x = scCached s h rd a (widBytes wid) x := by
  have hfree : ownDeny s h a (AmoOp.sc != .lr) = none := hown
  unfold amoAt
  rw [hfree]
  exact if_pos (beq_iff_eq.mpr hroute)

/-- An AMO goes to the home of its line (R32, R282). -/
theorem amoAt_amo {op : AmoOp} (wid : Wid) (rd : RegId) (va : Nat) (x : Word) (hlr : op ≠ .lr) (hsc : op ≠ .sc)
    (hown : ownDeny s h a true = none) :
    amoAt s h op wid rd va a x = atomSend s h (.amo rd wid) wid (amoCode op) a (x.toNat % 2 ^ (8 * widBytes wid)) 0 := by
  have hfree : ownDeny s h a (op != .lr) = none := bne_iff_ne.mpr hlr ▸ hown
  unfold amoAt
  rw [hfree]
  cases op
  case lr => exact absurd rfl hlr
  case sc => exact absurd rfl hsc
  all_goals rfl

theorem lrCached_here (rd : RegId) (va : Nat) (hline : ensureLine s h (a / 128) false .clean = .here t) :
    lrCached s h rd va a n = retireRd (hartPut t h { hartAt t h with resv := some (a / 128), resvAt := none }) h rd
      (signExt n (leNat (slice (heldAt t (a / 128) (h.val / 8)).data (a % 128) n))) := by
  unfold lrCached
  rw [hline]

/-- An SC whose reservation does not stand stores nothing. -/
theorem scCached_lost (rd : RegId) (x : Word) (hresv : (hartAt s h).resv ≠ some (a / 128)) :
    scCached s h rd a n x = retireRd (hartPut s h { hartAt s h with resv := none, resvAt := none }) h rd 1 := if_pos hresv

theorem scCached_here (rd : RegId) (x : Word) (hresv : (hartAt s h).resv = some (a / 128))
    (hline : ensureLine s h (a / 128) true .clean = .here t) :
    scCached s h rd a n x =
      (let u := storeCached (scribeAtomic t h 3 n a x.toNat) h a (natLe n x.toNat)
       retireRd (hartPut u h { hartAt u h with resv := none, resvAt := none }) h rd 0) := by
  unfold scCached
  dsimp only
  rw [if_neg (not_not.mpr hresv), hline]

end

/-- What a register takes of the old value of an atomic. -/
def amoOld (wid : Wid) (old : Nat) : Word :=
  match wid with
  | .w32 => signExt 4 old
  | .w64 => BitVec.ofNat 64 old

/-- An AMO that its home has carried out: the hart that waits for it retires with the old value. -/
theorem atomDone_amo_ok {s : Block} {h : Nat} {rd : RegId} {wid : Wid} (old : Nat) (hb : (hartAt s h).blocked = some (.amo rd wid)) :
    atomDone s h .ok old = retireRd s h rd (amoOld wid old) := by
  simp only [atomDone, hb, if_true]
  rfl

/-- Settles O36. An atomic that is issued goes on from its translation, which leaves its operand as it was; what it does then is said
for each of LR, SC and the AMOs apart, and the answer of an AMO's home for the hart that waits for it. -/
theorem atomicsOfTheBay : Obligations.AtomicsOfTheBay := by
  refine ⟨fun b b1 b2 h wid aq rl rd rs1 rs2 a hi => ?_, fun b b1 h op wid aq rd rs1 rs2 hi hp => ?_,
    fun b b3 line h who hint op a n x cmp m rd wid hat hb => ?_⟩
  · intro n va hal hp
    refine ⟨fun b3 hfound hroute hbay hown hline => ?_, fun hfound hroute hbay hown => ?_,
      fun op hlr hsc hfound hbad hwin hbay hown => ?_, fun hbay => ⟨fun hfound => ?_, fun op hlr hfound => ?_⟩⟩
    · have hans := answers_inside (op := .lr) hi hal hp hfound aq rd rs2 hbay (by simp [hroute]) (by simp [hroute])
      rwa [amoAt_lr_cached wid rd _ _ hroute hown, lrCached_here rd _ hline] at hans
    · have hans := answers_inside (op := .sc) hi hal hp hfound aq rd rs2 hbay (by simp [hroute]) (by simp [hroute])
      rw [amoAt_sc_cached wid rd _ _ hroute hown] at hans
      refine ⟨fun hresv => ?_, fun b3 hresv hline => ?_⟩
      · rwa [scCached_lost rd _ hresv] at hans
      · rwa [scCached_here rd _ hresv hline] at hans
    · rw [← amoAccess_of_ne_lr hlr] at hfound
      have hans := answers_inside hi hal hp hfound aq rd rs2 hbay hbad hwin
      rwa [amoAt_amo wid rd _ _ hlr hsc hown] at hans
    · exact answers_outside (op := .lr) hi hal hp hfound aq rd rs2 hbay
    · rw [← amoAccess_of_ne_lr hlr] at hfound
      rw [← amoFault_of_ne_lr hlr]
      exact answers_outside hi hal hp hfound aq rd rs2 hbay
  · have hans := answers_coreAmo hi op wid aq true rd rs1 rs2
    rwa [amoBody_pending op wid rd rs1 rs2 hp] at hans
  · rw [homeApply_amo, hat]
    exact atomDone_amo_ok m hb

end Sys2Proof.Proofs
end

section
/-! SUPPORT. What every command answers, and so every step and every run: a next state, with the queue as the command found it. -/

namespace Sys2Proof.Proofs

open Sys2Proof Sys2Proof.Machine Sys2Proof.Laws

/-! ### Every command answers -/

/-- What a command makes of the module. -/
def effect (i : Instr) (b : Block) : Block :=
  match exec i ⟨b, []⟩ with
  | .next t => t.toBlock
  | _ => b

/-- Every arm of `exec` is a total effect on the module, which neither reads the queue nor writes it. -/
theorem exec_eq_effect (i : Instr) (s : State) : exec i s = .next { s with toBlock := effect i s.toBlock } := by
  cases i <;> rfl

theorem answers_effect (i : Instr) (b : Block) : Answers i b (effect i b) := fun q => exec_eq_effect i ⟨b, q⟩

/-- A command whose meaning is a total effect on the module answers what that effect gives. `e` is its meaning's name, of which `exec`
is an arm. -/
theorem answers_exec {i : Instr} (e : State → Host.Outcome State Fault Refusal) {f : Block → Block} {b t : Block}
    (he : ∀ s : State, exec i s = e s ∧ e s = onBlock s fun s => .next (f s)) (hf : f b = t) : Answers i b t :=
  hf ▸ answers_of (fun s => (he s).1.trans (he s).2) b

/-- Settles O3. -/
theorem everyCommandAnswersNext : Obligations.EveryCommandAnswersNext := fun i s => ⟨_, exec_eq_effect i s⟩

/-! ### Steps and runs -/

/-- Settles O1: `step` takes the queue apart. -/
theorem stepRunsTheFrontCommand : Obligations.StepRunsTheFrontCommand := by
  intro c rest s h
  unfold step
  rw [h]

/-- A step takes the front command off the queue, and on an empty one leaves it empty. -/
theorem step_eq_next (s : State) : ∃ t : State, step s = .next t ∧ t.pending = s.pending.tail := by
  cases h : s.pending with
  | nil => exact ⟨{ s with toBlock := tick s.toBlock }, by unfold step; rw [h], h⟩
  | cons c rest =>
    rw [stepRunsTheFrontCommand c rest s h]
    exact ⟨_, exec_eq_effect c _, rfl⟩

theorem run_succ {M : Host.Core} {s t : M.State} (k : Nat) (h : M.step s = .next t) : M.run (k + 1) s = M.run k t := by
  rw [Host.Core.run, h]

/-- What is left of a queue holds no other command. -/
theorem queueOk_of_subset {s t : State} (h : t.pending ⊆ s.pending) (hs : queueOk s) : queueOk t := fun c hc => hs c (h hc)

/-- Settles O4: every command is a total effect, and the queue that is left is a part of the one before. -/
theorem stepsKeepTheQueueAndComplete : Obligations.StepsKeepTheQueueAndComplete := by
  intro s
  obtain ⟨t, hstep, hpending⟩ := step_eq_next s
  refine ⟨t, hstep, hpending, queueOk_of_subset ?_⟩
  rw [hpending]
  exact List.tail_subset s.pending

/-- Settles O5, by induction on the number of steps. -/
theorem runsNeverStop : Obligations.RunsNeverStop := by
  intro k
  induction k with
  | zero => exact fun s => ⟨s, rfl, rfl⟩
  | succ k ih =>
    intro s
    obtain ⟨t, hstep, hpending⟩ := step_eq_next s
    obtain ⟨u, hrun, hdrop⟩ := ih t
    refine ⟨u, (run_succ (M := Sys2Proof.core) k hstep).trans hrun, ?_⟩
    rw [hdrop, hpending, List.drop_tail]

/-- Settles O6: every table is empty at reset, so each place reads its default. -/
theorem resetHoldsTheDefaults : Obligations.ResetHoldsTheDefaults :=
  ⟨⟨fun _ hc => absurd hc List.not_mem_nil, rfl, rfl, fun _ => rfl⟩,
    fun _ => rfl, fun _ => ⟨rfl, rfl, rfl⟩, fun _ => ⟨rfl, rfl, rfl⟩, fun _ _ => rfl, by decide⟩

end Sys2Proof.Proofs
end

section
/-! SUPPORT. Streams: how they start and end, their waits, and the commands that their sequencers carry out. -/

namespace Sys2Proof.Proofs

open Sys2Proof Sys2Proof.Machine Sys2Proof.Laws

/-! ### LAUNCH and HALT -/

/-- Settles O7: none of the entry's refusals applies, so the stream that it names starts. -/
theorem launchTakesTheEntry : Obligations.LaunchTakesTheEntry := by
  intro b0 q hready w a b v base ncmd record habsent hfree haccess hres1 hres2 halign hmem hrecord
  have htaken : takeLaunch b0 q = settled (seqPut b q { seqAt w q with
      stream := some ⟨base, ncmd, BitVec.ofNat 14 (bits v 72 14), bit v 86, record, [], 0, none, .ok, none⟩ }) q := by
    have hbad : ¬ (base % 16 ≠ 0 ∨ (!seqMem b q base 16) = true ∨
        (record ≠ 0 ∧ (record % 32 ≠ 0 ∨ (!seqMem b q record 32) = true))) := by
      rcases hrecord with h | ⟨h1, h2⟩
      · simp [halign, hmem, h]
      · simp [halign, hmem, h1, h2]
    unfold takeLaunch
    dsimp only
    rw [if_neg (by simpa using habsent), if_neg (by simpa using hfree)]
    simp only [w, a, haccess]
    rw [if_neg (by simpa using ⟨hres1, hres2⟩), if_neg hbad]
    rfl
  refine answers_exec (execLaunch q) (fun _ => ⟨rfl, rfl⟩) ?_
  rw [if_pos hready, htaken]

/-- Settles O8. -/
theorem haltEndsTheStream : Obligations.HaltEndsTheStream := by
  constructor
  · intro b q st c hst hfirst hstop hwait hdone hres
    refine answers_exec (execHalt q) (fun _ => ⟨rfl, rfl⟩) ?_
    simp only [doHalt, hst, hfirst, hstop, hwait, hdone, hres, Option.isNone_none, Bool.and_self, if_true, Bool.false_eq_true, if_false]
  · intro b q idx st hst
    refine ⟨seqPut (writeRecord b q st .ok idx (seqAt b q).n 0) q
      { seqAt b q with stream := none, n := (seqAt b q).n + 1, lines := [], refused := [] }, ?_, ?_⟩
    · simp only [endStreamOk, hst]
    · rw [seqAt_seqPut_same]
      exact ⟨rfl, rfl, rfl⟩

/-! ### The commands that are carried out as their streams start them -/

theorem beginSignal_here {b : Block} {q : SeqId} {c : CmdSlot} (set : Bool) (h : signalRemote b c.word = false) :
    beginSignal set q b c = .go (if set then signalSet b (signalObj c.word) (signalValue c.word)
      else signalAdd b (signalObj c.word) (signalValue c.word)) .ok true := by
  cases set <;> simp [beginSignal, h]

/-- Settles O9. -/
theorem plainCommandsRun : Obligations.PlainCommandsRun :=
  ⟨⟨fun _ => runsAs fun _ => rfl, fun _ => runsAs fun _ => rfl, fun _ => runsAs fun _ => rfl, fun _ => runsAs fun _ => rfl,
      fun _ => runsAs fun _ => rfl, fun _ => runsAs fun _ => rfl, fun _ => runsAs fun _ => rfl⟩,
    fun _ _ _ h => ⟨beginSignal_here false h, beginSignal_here true h⟩⟩

/-- Settles O13: each of these commands starts as the next of its queue, with its own effect. -/
theorem queuedTileCommandsRun : Obligations.QueuedTileCommandsRun := by
  intro t
  refine ⟨?_, ?_, ?_, ?_, fun e => ?_, fun e => ?_, ?_, fun r => ?_, fun e => ?_, fun r => ?_, ?_, ?_, ?_, ?_, ?_, ?_, ?_⟩
  all_goals exact runsAs fun _ => rfl

/-- Settles O14. -/
theorem queuedUnitCommandsRun : Obligations.QueuedUnitCommandsRun := by
  refine ⟨fun g => ?_, fun e => ⟨?_, ?_, ?_, ?_, ?_⟩, ?_, fun f => ?_⟩
  all_goals exact runsAs fun _ => rfl

/-! ### WAIT -/

section
variable {b : Block} {q : Nat} {c : CmdSlot} (hres : cmdReserved c.word = false)
include hres

theorem issueWait_met (hflag : (syncAt b (waitObj c.word).toNat).aborted = false)
    (hcount : (waitValue c.word).toNat ≤ (syncAt b (waitObj c.word).toNat).count.toNat) :
    issueWait b q c = completeSlot (countEvent b unitSync 2 1) q c.idx := by
  simp [issueWait, hres, hflag, hcount]

theorem issueWait_aborted (hflag : (syncAt b (waitObj c.word).toNat).aborted = true) : issueWait b q c = stopSlot b q c ⟨.aborted, 0⟩ := by
  simp [issueWait, hres, hflag]

theorem issueWait_pending {st : StreamSt} (hst : (seqAt b q).stream = some st)
    (hflag : (syncAt b (waitObj c.word).toNat).aborted = false)
    (hcount : (syncAt b (waitObj c.word).toNat).count.toNat < (waitValue c.word).toNat) :
    issueWait b q c = seqPut b q { seqAt b q with
      stream := some { st with waiting := some ⟨c.idx, waitObj c.word, waitValue c.word, hallNow b⟩ } } := by
  simp [issueWait, hres, hflag, hst, Nat.not_le.mpr hcount]

end

/-- Settles O11. -/
theorem waitsAreReleasedAbortedOrPending : Obligations.WaitsAreReleasedAbortedOrPending := by
  refine ⟨fun b q c hnext => ?_, fun b q c hres hflag hcount => issueWait_met hres hflag hcount,
    fun b q c hres hflag => issueWait_aborted hres hflag, fun b q c st hres hst hflag hcount => ?_⟩
  · refine answers_exec (execWait q) (fun _ => ⟨rfl, rfl⟩) ?_
    simp only [hnext]
  · rw [issueWait_pending hres hst hflag hcount, pendingWait, seqAt_seqPut_same]
    rfl

/-- Settles O12. -/
theorem pendingWaitsEnd : Obligations.PendingWaitsEnd := by
  refine ⟨fun b q w hw hmet => ⟨answers_exec (execWaitRelease q) (fun _ => ⟨rfl, rfl⟩) ?_, ?_⟩, fun b q w hw hmet hlimit => answers_exec (execWaitTimeout (.stream q)) (fun _ => ⟨rfl, rfl⟩) ?_,
    fun b h rd obj v since hb hmet hlimit => answers_exec (execWaitTimeout (.hart h)) (fun _ => ⟨rfl, rfl⟩) ?_⟩
  · simp only [hw, hmet, if_true]
  · rw [pendingWait, seqAt_seqPut_same]
    cases (seqAt b q).stream <;> rfl
  · simp [hw, hmet, hlimit]
  · simp [hb, hmet, hlimit, statusCode]

/-! ### The ends of started commands -/

/-- Settles O16. -/
theorem startedTileCommandsComplete : Obligations.StartedTileCommandsComplete := by
  refine ⟨fun b q i st c hst hc hawaits => answers_exec (execCommandCompletion q i) (fun _ => ⟨rfl, rfl⟩) ?_, fun b t st c w hload hst hc => answers_exec (execWeightLoadDone t) (fun _ => ⟨rfl, rfl⟩) ?_,
    fun b t st c hload hst hc => answers_exec (execWeightLoadDone t) (fun _ => ⟨rfl, rfl⟩) ?_⟩
  · simp [hst, hc, hawaits]
  · simp only [hload, hst, Option.bind_some, hc]
  · simp only [hload, hst, Option.bind_some, hc]

end Sys2Proof.Proofs
end

section
/-! SUPPORT. What accesses at homes and reports of events leave as it was, beyond what packets do (`PortFrame`). -/

namespace Sys2Proof.Proofs

open Sys2Proof Sys2Proof.Machine Sys2Proof.Laws

/-! ### Accesses at homes -/

/-- From `s` to `t` nothing has changed but what packets that leave change, the cache, and the directory with its recalls. -/
def CacheFrame (s t : Block) : Prop :=
  t = { s with counters := t.counters, fab := t.fab, arbs := t.arbs, tx := t.tx, power := t.power, cache := t.cache, coh := t.coh }

theorem CacheFrame.refl (s : Block) : CacheFrame s s := rfl

theorem CacheFrame.trans {r s t : Block} (h1 : CacheFrame r s) (h2 : CacheFrame s t) : CacheFrame r t := by
  unfold CacheFrame at *
  rw [h2, h1]

theorem CacheFrame.of_portFrame {s t : Block} (h : PortFrame s t) : CacheFrame s t := by
  unfold PortFrame at h
  rw [h]
  rfl

theorem CacheFrame.mem {s t : Block} (h : CacheFrame s t) : t.mem = s.mem := by rw [h]
theorem CacheFrame.od {s t : Block} (h : CacheFrame s t) : t.od = s.od := by rw [h]

/-- What is this module's own is so after an access. -/
theorem CacheFrame.isOwn {s t : Block} (h : CacheFrame s t) (a : Nat) : isOwn t a = isOwn s a := by rw [h]; rfl

/-- A change that a fold makes step by step. -/
theorem CacheFrame.foldl {α : Type} {f : Block → α → Block} (h : ∀ s x, CacheFrame s (f s x)) :
    ∀ (l : List α) (s : Block), CacheFrame s (l.foldl f s)
  | [], s => .refl s
  | x :: l, s => (h s x).trans (.foldl h l (f s x))

theorem sliceEvent_cacheFrame (s : Block) (a code : Nat) : CacheFrame s (sliceEvent s a code) := .of_portFrame (countEvent_frame s _ _ _)

theorem stackEvent_cacheFrame (s : Block) (a code : Nat) : CacheFrame s (stackEvent s a code) := .of_portFrame (countEvent_frame s _ _ _)

theorem sendCoh_cacheFrame (s : Block) (ptype dslot line : Nat) (ext : BitVec 128) (st : Status) (data : List Byte) :
    CacheFrame s (sendCoh s ptype dslot line ext st data) := .of_portFrame (sendPkt_frame s _)

theorem startRecall_cacheFrame (s : Block) (line : Nat) (fwd : Bool) (targets : BitVec 96) :
    CacheFrame s (startRecall s line fwd targets) := by
  unfold startRecall
  refine .trans (s := dirPut { s with coh := { s.coh with nextTid := s.coh.nextTid + 1 } } line _) rfl (.foldl (fun s k => ?_) _ _)
  exact (sliceEvent_cacheFrame s _ _).trans (sendCoh_cacheFrame _ _ _ _ _ _ _)

theorem cacheSetPut_cacheFrame (s : Block) (line : Nat) (ws : List CLine) : CacheFrame s (cacheSetPut s line ws) := rfl

/-- A line that is dirty is written back, which is counted. -/
theorem writeBack_cacheFrame (dirty : Bool) (s : Block) (a : Nat) : CacheFrame s (if dirty then stackEvent s a 2 else s) := by
  cases dirty
  · exact .refl s
  · exact stackEvent_cacheFrame s a 2

theorem cacheDrop_cacheFrame (s : Block) (line : Nat) : CacheFrame s (cacheDrop s line) := by
  unfold cacheDrop
  split
  · exact .refl s
  · exact (writeBack_cacheFrame _ s _).trans (cacheSetPut_cacheFrame _ _ _)

theorem evict_cacheFrame (s : Block) (line : Nat) : CacheFrame s (evict s line) := by
  unfold evict
  dsimp only
  split
  · exact cacheDrop_cacheFrame s line
  · split
    · rfl
    · exact (cacheSetPut_cacheFrame s line _).trans (startRecall_cacheFrame _ _ _ _)

theorem cacheFit_cacheFrame (s : Block) (line room : Nat) : CacheFrame s (cacheFit s line room) := by
  unfold cacheFit
  dsimp only
  split
  · exact .refl s
  · split
    · exact evict_cacheFrame s _
    · exact .refl s

theorem cacheHit_cacheFrame (s : Block) (w : CLine) (hint : Nat) (write : Bool) : CacheFrame s (cacheHit s w hint write) := by
  unfold cacheHit
  refine (sliceEvent_cacheFrame s (w.line * 128) 1).trans ?_
  dsimp only
  split
  · rfl
  · rfl
  · refine .trans ?_ (evict_cacheFrame _ _)
    exact .trans (writeBack_cacheFrame _ _ _) (cacheSetPut_cacheFrame _ _ _)

theorem cacheFill_cacheFrame (s : Block) (line : Nat) (write full : Bool) : CacheFrame s (cacheFill s line write full) := by
  unfold cacheFill
  refine .trans ?_ (cacheFit_cacheFrame _ _ _)
  split
  · exact cacheSetPut_cacheFrame s _ _
  · exact (stackEvent_cacheFrame s _ 1).trans (cacheSetPut_cacheFrame _ _ _)

theorem cacheTouch_cacheFrame (s : Block) (a hint : Nat) (write full : Bool) : CacheFrame s (cacheTouch s a hint write full) := by
  unfold cacheTouch
  dsimp only
  split
  · exact .refl s
  · split
    · exact cacheHit_cacheFrame s _ _ _
    · split
      · exact (sliceEvent_cacheFrame s a 2).trans (cacheFill_cacheFrame _ _ _ _)
      · exact (sliceEvent_cacheFrame s a 2).trans (stackEvent_cacheFrame _ _ _)

/-! ### Reports of events -/

/-- From `s` to `t` nothing has changed but what accesses at homes change, the dictionary with its subscriptions, the logs and the
ledger. -/
def ReportFrame (s t : Block) : Prop :=
  t = { s with counters := t.counters, fab := t.fab, arbs := t.arbs, tx := t.tx, power := t.power, cache := t.cache, coh := t.coh, od := t.od,
               sess := t.sess, logs := t.logs, ledger := t.ledger }

theorem ReportFrame.refl (s : Block) : ReportFrame s s := rfl

theorem ReportFrame.trans {r s t : Block} (h1 : ReportFrame r s) (h2 : ReportFrame s t) : ReportFrame r t := by
  unfold ReportFrame at *
  rw [h2, h1]

theorem ReportFrame.of_cacheFrame {s t : Block} (h : CacheFrame s t) : ReportFrame s t := by
  unfold CacheFrame at h
  rw [h]
  rfl

theorem ReportFrame.of_portFrame {s t : Block} (h : PortFrame s t) : ReportFrame s t := .of_cacheFrame (.of_portFrame h)

theorem ReportFrame.mem {s t : Block} (h : ReportFrame s t) : t.mem = s.mem := by rw [h]
theorem ReportFrame.sync {s t : Block} (h : ReportFrame s t) : t.sync = s.sync := by rw [h]
theorem ReportFrame.seqs {s t : Block} (h : ReportFrame s t) : t.seqs = s.seqs := by rw [h]
theorem ReportFrame.tiles {s t : Block} (h : ReportFrame s t) : t.tiles = s.tiles := by rw [h]
theorem ReportFrame.harts {s t : Block} (h : ReportFrame s t) : t.harts = s.harts := by rw [h]
theorem ReportFrame.hbm {s t : Block} (h : ReportFrame s t) : t.hbm = s.hbm := by rw [h]

theorem odPut_reportFrame (s : Block) (i j v : Nat) : ReportFrame s (odPut s i j v) := rfl

theorem odBump_reportFrame (s : Block) (i j n : Nat) : ReportFrame s (odBump s i j n) := odPut_reportFrame s i j _

theorem odSetBit_reportFrame (s : Block) (i j k : Nat) (v : Bool) : ReportFrame s (odSetBit s i j k v) := odPut_reportFrame s i j _

theorem logs_reportFrame (s : Block) (l : LogSt) : ReportFrame s { s with logs := l } := rfl

theorem logOccur_reportFrame (s : Block) (bucket event unit : Nat) (st : Status) (severity : Nat) (detail : Word) :
    ReportFrame s (logOccur s bucket event unit st severity detail).1 := by
  unfold logOccur
  dsimp only
  split
  · exact (odPut_reportFrame s _ _ _).trans (logs_reportFrame _ _)
  · exact (odPut_reportFrame s _ _ _).trans (.trans (logs_reportFrame _ _) (odBump_reportFrame _ _ _ _))

theorem ledgerFault_reportFrame (s : Block) (st : Status) (unit detail : Nat) : ReportFrame s (ledgerFault s st unit detail) := by
  unfold ledgerFault ledgerPut
  split
  · rfl
  · exact .refl s

theorem raiseAlarm_reportFrame (s : Block) (code unit : Nat) (st : Status) (detail : Nat) :
    ReportFrame s (raiseAlarm s code unit st detail) := by
  unfold raiseAlarm
  refine .trans ?_ (ledgerFault_reportFrame _ _ _ _)
  refine .trans ?_ (logOccur_reportFrame _ _ _ _ _ _ _)
  refine .trans ?_ (odSetBit_reportFrame _ _ _ _ _)
  exact (logs_reportFrame s _).trans (odBump_reportFrame _ _ _ _)

theorem report_reportFrame (s : Block) (unit code n : Nat) (st : Status) (detail : Nat) :
    ReportFrame s (report s unit code n st detail) := by
  refine (ReportFrame.of_portFrame (countEvent_frame s unit code n)).trans ?_
  unfold report
  dsimp only
  generalize (if Config.logWarning (unitClass unit) code then 1 else 0) = severity
  split
  · have hlog := logOccur_reportFrame (countEvent s unit code n) (unitClass unit) code unit st severity (BitVec.ofNat 64 detail)
    split
    · exact hlog.trans (raiseAlarm_reportFrame _ _ _ _ _)
    · exact hlog
  · exact .refl _

/-! ### Requests that leave -/

theorem fab_reportFrame (s : Block) (f : FabricSt) : ReportFrame s { s with fab := f } := rfl

theorem setStreamPlane_reportFrame (s : Block) (key k : Nat) : ReportFrame s (setStreamPlane s key k) := by
  unfold setStreamPlane
  dsimp only
  split
  · exact fab_reportFrame s _
  · exact (fab_reportFrame s _).trans (.trans (odBump_reportFrame _ _ _ _) (report_reportFrame _ _ _ _ _ _))

theorem launchReq_reportFrame (s : Block) (o : Outst) : ReportFrame s (launchReq s o) := by
  unfold launchReq
  split
  · exact fab_reportFrame s _
  · exact (setStreamPlane_reportFrame s _ _).trans (.trans (fab_reportFrame _ _) (.of_portFrame (sendPkt_frame _ _)))

theorem sendReq_reportFrame (s : Block) (ptype d req addr hint szst : Nat) (payload : List (BitVec 128)) (whom : OutFor) :
    ReportFrame s (sendReq s ptype d req addr hint szst payload whom).1 := by
  unfold sendReq
  dsimp only
  split
  · exact .refl s
  · split
    · exact .refl s
    · generalize (if isTagged ptype = true then tget 0 s.fab.nextSeq (req * 128 + d) else 0) = seq
      generalize hs : (if isTagged ptype = true then _ else s) = s1
      have hs1 : ReportFrame s s1 := by
        rw [← hs]
        split
        · exact fab_reportFrame s _
        · exact .refl s
      split
      · exact hs1.trans (fab_reportFrame _ _)
      · exact hs1.trans (launchReq_reportFrame _ _)

theorem sendWrite_reportFrame (s : Block) (d req addr hint : Nat) (data : List Byte) (whom : OutFor) :
    ReportFrame s (sendWrite s d req addr hint data whom).1 := sendReq_reportFrame s _ _ _ _ _ _ _ _

end Sys2Proof.Proofs
end

section
/-! SUPPORT. Bits of a value after some of them are replaced. -/

namespace Sys2Proof.Proofs

open Sys2Proof Sys2Proof.Machine

theorem bit_eq_testBit (v k : Nat) : bit v k = v.testBit k := by
  rw [bit, Nat.shiftRight_eq_div_pow, Nat.testBit_eq_decide_div_mod_eq, beq_eq_decide]

/-- Each bit of a value after a field of it is replaced. -/
theorem testBit_setBits (v lo n x j : Nat) :
    (setBits v lo n x).testBit j = if j < lo then v.testBit j else if j < lo + n then x.testBit (j - lo) else v.testBit j := by
  have hform : setBits v lo n x = 2 ^ lo * (2 ^ n * (v >>> (lo + n)) + x % 2 ^ n) + v % 2 ^ lo := by
    rw [setBits, pow_add]
    ring
  rw [hform, Nat.testBit_two_pow_mul_add _ (Nat.mod_lt _ (by positivity))]
  by_cases h1 : j < lo
  · rw [if_pos h1, if_pos h1, Nat.testBit_mod_two_pow, decide_eq_true h1, Bool.true_and]
  · rw [if_neg h1, if_neg h1, Nat.testBit_two_pow_mul_add _ (Nat.mod_lt _ (by positivity))]
    by_cases h2 : j < lo + n
    · have hlt : j - lo < n := by omega
      rw [if_pos hlt, if_pos h2, Nat.testBit_mod_two_pow, decide_eq_true hlt, Bool.true_and]
    · rw [if_neg (show ¬ j - lo < n by omega), if_neg h2, Nat.testBit_shiftRight, show lo + n + (j - lo - n) = j by omega]

theorem bit_setBit (v k j : Nat) (b : Bool) : bit (setBit v k b) j = if j = k then b else bit v j := by
  rw [bit_eq_testBit, bit_eq_testBit, setBit, testBit_setBits]
  by_cases hjk : j = k
  · subst hjk
    cases b <;> simp
  · by_cases hlt : j < k
    · rw [if_pos hlt, if_neg hjk]
    · rw [if_neg hlt, if_neg (by omega), if_neg hjk]

theorem bit_mod_two_pow {w k : Nat} (v : Nat) (h : k < w) : bit (v % 2 ^ w) k = bit v k := by
  rw [bit_eq_testBit, bit_eq_testBit, Nat.testBit_mod_two_pow, decide_eq_true h, Bool.true_and]

/-- A register's bit after a write of one bit. -/
theorem bit_ofNat_setBit {w j : Nat} (v k : Nat) (b : Bool) (h : j < w) :
    bit (BitVec.ofNat w (setBit v k b)).toNat j = if j = k then b else bit v j := by
  rw [BitVec.toNat_ofNat, bit_mod_two_pow _ h, bit_setBit]

/-! ### Bytes of a value -/

theorem leNat_natLe (n v : Nat) : leNat (natLe n v) = v % 256 ^ n := by
  induction n generalizing v with
  | zero => rw [pow_zero, Nat.mod_one]; rfl
  | succ n ih =>
    rw [natLe, leNat, ih, BitVec.toNat_ofNat, Nat.shiftRight_eq_div_pow, pow_succ' 256 n, Nat.mod_mul (a := 256)]

theorem natLe_length (n v : Nat) : (natLe n v).length = n := by
  induction n generalizing v with
  | zero => rfl
  | succ n ih => rw [natLe, List.length_cons, ih]

end Sys2Proof.Proofs
end

section
/-! SUPPORT. Tiles: reloads of their tables, their replacement, and what their commands write to memory. -/

namespace Sys2Proof.Proofs

open Sys2Proof Sys2Proof.Machine Sys2Proof.Laws

@[simp] theorem tileAt_tilePut_same (s : Block) (t : Nat) (x : TileSt) : tileAt (tilePut s t x) t = x := tget_tset_self tile0 s.tiles t x

theorem tileAt_tilePut_ne (s : Block) {t k : Nat} (x : TileSt) (h : k ≠ t) : tileAt (tilePut s t x) k = tileAt s k :=
  tget_tset_ne tile0 s.tiles x h.symm

/-! ### Reloads -/

/-- A count that follows a tile's change: the tile is as it was put, the others and memory are as before. -/
theorem odBump_tilePut (b : Block) (t : Nat) (x : TileSt) (i j n : Nat) :
    let t1 := odBump (tilePut b t x) i j n
    tileAt t1 t = x ∧ odNat t1 i j = (odNat b i j + n) % 2 ^ (8 * odLen i j) ∧ (∀ k : Nat, k ≠ t → tileAt t1 k = tileAt b k) ∧
      SameMemory b t1 := by
  have htile (k : Nat) : tileAt (odBump (tilePut b t x) i j n) k = tileAt (tilePut b t x) k := by rw [tileAt, odBump_tiles, tileAt]
  refine ⟨(htile t).trans (tileAt_tilePut_same b t x), odNat_odBump_same _ _ _ _, fun k hk => (htile k).trans (tileAt_tilePut_ne b x hk),
    fun a => ?_⟩
  rw [memByte, odBump_mem, tilePut_mem, memByte]

/-- A tile whose stencil table `f` needs no reload any more, and one whose piecewise table does not. -/
def stencilReloaded (b : Block) (t : Nat) (f : BitVec 5) : TileSt :=
  { tileAt b t with stReload := BitVec.ofNat 32 (setBit (tileAt b t).stReload.toNat f.toNat false) }
def glazeReloaded (b : Block) (t : Nat) (f : BitVec 5) : TileSt :=
  { tileAt b t with pwpReload := BitVec.ofNat 32 (setBit (tileAt b t).pwpReload.toNat f.toNat false) }

theorem bit_setBit_false {f : BitVec 5} (v : Nat) : bit (BitVec.ofNat 32 (setBit v f.toNat false)).toNat f.toNat = false := by
  rw [bit_ofNat_setBit _ _ _ f.isLt, if_pos rfl]

/-- Settles O17. -/
theorem tableReloadsEnd : Obligations.TableReloadsEnd := by
  constructor
  · intro b t f hreload
    obtain ⟨htile, hcount, hothers, hmem⟩ := odBump_tilePut b t (stencilReloaded b t f) 0x4310 4 1
    refine ⟨odBump (tilePut b t (stencilReloaded b t f)) 0x4310 4 1, answers_exec (execStencilTableReloadDone t f) (fun _ => ⟨rfl, rfl⟩) ?_, ?_, hcount, hothers, hmem⟩
    · rw [if_pos hreload]
      rfl
    · rw [htile]
      exact bit_setBit_false _
  · intro b t f hreload
    obtain ⟨htile, hcount, hothers, hmem⟩ := odBump_tilePut b t (glazeReloaded b t f) 0x4320 1 1
    refine ⟨odBump (tilePut b t (glazeReloaded b t f)) 0x4320 1 1, answers_exec (execGlazeTableReloadDone t f) (fun _ => ⟨rfl, rfl⟩) ?_, ?_, hcount, hothers, hmem⟩
    · rw [if_pos hreload]
      rfl
    · rw [htile]
      exact bit_setBit_false _

/-! ### Replacement -/

/-- Settles O18. -/
theorem failedTilesAreReplaced : Obligations.FailedTilesAreReplaced := by
  refine ⟨fun b t hon hphys htest => answers_exec (execTileInternalError t) (fun _ => ⟨rfl, rfl⟩) ?_,
    fun b t k hon hphys htest => answers_exec (execTileInternalError t) (fun _ => ⟨rfl, rfl⟩) ?_, fun b t k hnext => ?_, fun b t hnext => ?_,
    fun b t k htest => answers_exec (execSpareSelfTestDone t .pass) (fun _ => ⟨rfl, rfl⟩) ?_, fun b t k htest => answers_exec (execSpareSelfTestDone t .fail) (fun _ => ⟨rfl, rfl⟩) ?_⟩
  · simp [hon, hphys, htest]
  · simp [hon, hphys, htest]
  · simp only [trySpare, hnext]
  · simp only [trySpare, hnext]
  · simp only [htest]
  · simp only [htest]

/-! ### What a command writes (R210, R293) -/

/-- One byte of a command's writes. -/
def writeOne (s : Block) (w : WByte) : Block :=
  if isOwn s w.addr then { s with mem := Memory.set s.mem (rackLocal w.addr) (mergeByte (memByte s (rackLocal w.addr)) w) } else s

theorem writeOwn_cons (s : Block) (w : WByte) (ws : List WByte) : writeOwn s (w :: ws) = writeOwn (writeOne s w) ws := rfl

theorem writeOwn_concat (s : Block) (ws : List WByte) (w : WByte) : writeOwn s (ws ++ [w]) = writeOne (writeOwn s ws) w :=
  List.foldl_concat _ s w ws

theorem isOwn_writeOne (s : Block) (w : WByte) (a : Nat) : isOwn (writeOne s w) a = isOwn s a := by
  unfold writeOne
  split <;> rfl

theorem isOwn_writeOwn (a : Nat) : ∀ (ws : List WByte) (s : Block), isOwn (writeOwn s ws) a = isOwn s a
  | [], _ => rfl
  | w :: ws, s => (isOwn_writeOwn a ws _).trans (isOwn_writeOne s w a)

theorem memByte_writeOne (s : Block) (w : WByte) (x : Nat) :
    memByte (writeOne s w) x = if isOwn s w.addr = true ∧ rackLocal w.addr = x then mergeByte (memByte s x) w else memByte s x := by
  unfold writeOne
  by_cases hown : isOwn s w.addr = true
  · rw [if_pos hown, memByte, byte_set]
    by_cases hx : rackLocal w.addr = x
    · rw [if_pos hx, if_pos ⟨hown, hx⟩, hx]
    · rw [if_neg hx, if_neg (fun h => hx h.2), memByte]
  · rw [if_neg hown, if_neg (fun h => hown h.1)]

theorem memoryOk_writeOne {s : Block} (w : WByte) (h : memoryOk s = true) : memoryOk (writeOne s w) = true := by
  unfold writeOne
  split
  · exact wf_set _ _ _ h
  · exact h

theorem memByte_writeOwn_of_ne {a : Nat} : ∀ (ws : List WByte) (s : Block), (∀ w ∈ ws, isOwn s w.addr = true → rackLocal w.addr ≠ a) →
    memByte (writeOwn s ws) a = memByte s a
  | [], _, _ => rfl
  | w :: ws, s, h => by
    have hrest : ∀ v ∈ ws, isOwn (writeOne s w) v.addr = true → rackLocal v.addr ≠ a := fun v hv hown =>
      h v (List.mem_cons_of_mem w hv) ((isOwn_writeOne s w v.addr).symm.trans hown)
    rw [writeOwn_cons, memByte_writeOwn_of_ne ws _ hrest, memByte_writeOne, if_neg]
    exact fun hw => h w List.mem_cons_self hw.1 hw.2

theorem memoryOk_writeOwn : ∀ (ws : List WByte) (s : Block), memoryOk s = true → memoryOk (writeOwn s ws) = true
  | [], _, h => h
  | w :: ws, _, h => memoryOk_writeOwn ws _ (memoryOk_writeOne w h)

/-- Writes to other modules leave as packets. -/
theorem writeForeign_reportFrame (s : Block) (q idx hint : Nat) (ws : List WByte) : ReportFrame s (writeForeign s q idx hint ws).1 := by
  unfold writeForeign
  suffices h : ∀ (l : List (Nat × List Byte)) (acc : Block × Option Stop), ReportFrame acc.1 (l.foldl _ acc).1 from h _ (s, none)
  intro l
  induction l with
  | nil => exact fun acc => .refl acc.1
  | cons r l ih =>
    intro acc
    refine .trans ?_ (ih _)
    dsimp only
    split
    · exact .refl _
    · split
      · exact sendWrite_reportFrame acc.1 _ _ _ _ _ _
      · exact .refl _

theorem clearBad_mem (s : Block) (a n : Nat) : (clearBad s a n).mem = s.mem := rfl

theorem foldl_clearBad_mem : ∀ (l : List (Nat × List Byte)) (s : Block),
    (l.foldl (fun s r => clearBad s r.1 r.2.length) s).mem = s.mem
  | [], _ => rfl
  | _ :: l, s => (foldl_clearBad_mem l _).trans (clearBad_mem s _ _)

/-- The writes that a command makes: those before the first that its home refuses. -/
def madeWrites (s : Block) (q : Nat) (ws : List WByte) : List WByte :=
  if (refusedLines s q ws).isEmpty then ws else ws.takeWhile (fun w => (byteRefusal s (refusedLines s q ws) w).isNone)

theorem madeWrites_subset (s : Block) (q : Nat) (ws : List WByte) : madeWrites s q ws ⊆ ws := by
  unfold madeWrites
  split
  · exact List.Subset.refl ws
  · exact List.takeWhile_subset _

/-- The state in which a command writes its own bytes: the cache has seen the access of each line. -/
def linesSeen (s : Block) (hint : Nat) (ws : List WByte) : Block :=
  (ownLines s ws).foldl (fun s l => cacheTouch s (128 * l) hint true false) s

theorem linesSeen_cacheFrame (s : Block) (hint : Nat) (ws : List WByte) : CacheFrame s (linesSeen s hint ws) :=
  .foldl (fun s _ => cacheTouch_cacheFrame s _ _ _ _) _ s

/-- Memory after a command's writes is memory with the own bytes written. -/
theorem applyWrites_mem (s : Block) (q idx hint : Nat) (ws : List WByte) :
    (applyWrites s q idx hint ws).1.mem = (writeOwn (linesSeen s hint (madeWrites s q ws)) (madeWrites s q ws)).mem :=
  (writeForeign_reportFrame _ q idx hint _).mem.trans (foldl_clearBad_mem _ _)

/-- Settles O19: only the own bytes reach memory, and each of them is one write of its list. -/
theorem commandWritesTouchOnlyTheirBytes : Obligations.CommandWritesTouchOnlyTheirBytes := by
  constructor
  · intro b q idx hint ws a hne
    have hseen := linesSeen_cacheFrame b hint (madeWrites b q ws)
    rw [memByte, applyWrites_mem]
    refine (memByte_writeOwn_of_ne _ _ fun w hw hown => ?_).trans (congrArg (Memory.byte · a) hseen.mem)
    rw [hseen.isOwn] at hown
    exact hne w (madeWrites_subset b q ws hw) hown
  · intro b q idx hint ws hok
    have hseen := linesSeen_cacheFrame b hint (madeWrites b q ws)
    have hstart : memoryOk (linesSeen b hint (madeWrites b q ws)) = true := by rw [memoryOk, hseen.mem]; exact hok
    rw [memoryOk, applyWrites_mem]
    exact memoryOk_writeOwn _ _ hstart

/-! ### COUNTER STAMP (R199, R214) -/

/-- A byte that is written whole. -/
theorem mergeByte_whole (old : Byte) (a v : Nat) : mergeByte old ⟨a, 255, v⟩ = BitVec.ofNat 8 v := by
  apply BitVec.eq_of_toNat_eq
  simp only [mergeByte, Nat.sub_self, Nat.and_zero, Nat.zero_or, BitVec.toNat_ofNat]
  rw [show (255 : Nat) = 2 ^ 8 - 1 by norm_num, Nat.and_two_pow_sub_one_eq_mod, Nat.mod_mod]

/-- The bytes of a value at places that lie together in this module's memory. -/
theorem memByte_writeOwn_wBytes (s : Block) (a v x : Nat) : ∀ n : Nat,
    (∀ k < n, isOwn s (a + k) = true ∧ rackLocal (a + k) = rackLocal a + k) →
    memByte (writeOwn s (wBytes a n v)) x =
      if rackLocal a ≤ x ∧ x < rackLocal a + n then BitVec.ofNat 8 (v / 256 ^ (x - rackLocal a)) else memByte s x
  | 0, _ => by
    rw [if_neg (by omega)]
    rfl
  | n + 1, h => by
    obtain ⟨hown, hloc⟩ := h n (by omega)
    have ih := memByte_writeOwn_wBytes s a v x n fun k hk => h k (by omega)
    have hsplit : wBytes a (n + 1) v = wBytes a n v ++ [⟨a + n, 255, bits v (8 * n) 8⟩] := by
      rw [wBytes, List.range_succ, List.map_append, wBytes]
      rfl
    have hbyte : BitVec.ofNat 8 (bits v (8 * n) 8) = BitVec.ofNat 8 (v / 256 ^ n) := by
      apply BitVec.eq_of_toNat_eq
      rw [BitVec.toNat_ofNat, BitVec.toNat_ofNat, bits, Nat.mod_mod, Nat.shiftRight_eq_div_pow, pow_mul]
      norm_num
    rw [hsplit, writeOwn_concat, memByte_writeOne, isOwn_writeOwn, ih]
    simp only [hown, hloc, true_and, mergeByte_whole, hbyte]
    by_cases hx : rackLocal a + n = x
    · rw [if_pos hx, if_pos (by omega), show x - rackLocal a = n by omega]
    · rw [if_neg hx]
      by_cases hin : rackLocal a ≤ x ∧ x < rackLocal a + n
      · rw [if_pos hin, if_pos (by omega)]
      · rw [if_neg hin, if_neg (by omega)]

/-- A place that a sequencer may write lies whole in one slot's memory. -/
theorem seqMem_bytes {s : Block} {q a n : Nat} (h : seqMem s q a n = true) :
    ∀ k < n, isOwn s (a + k) = true ∧ rackLocal (a + k) = rackLocal a + k := by
  intro k hk
  have hfits : isOwn s a = true ∧ rackLocal a + n ≤ 2 ^ 41 := by
    unfold seqMem at h
    simp only [Bool.and_eq_true, Bool.or_eq_true, inHbm, inScratch, isTileSeq, isPlumbSeq, decide_eq_true_eq] at h
    simp only [scratchBase, hbmEnd, plumbBase, plumbTableBase] at h
    exact ⟨h.1, by omega⟩
  obtain ⟨hown, hend⟩ := hfits
  simp only [isOwn, rackSlot, bits, Nat.shiftRight_eq_div_pow, Bool.and_eq_true, beq_iff_eq, decide_eq_true_eq, rackLocal] at *
  omega

theorem refusedLines_nil_madeWrites {s : Block} {q : Nat} {ws : List WByte} (h : refusedLines s q ws = []) : madeWrites s q ws = ws := by
  rw [madeWrites, h]
  rfl

/-- Writes of this module's own bytes alone send nothing. -/
theorem foreignBytes_own (s : Block) (q : Nat) (ws : List WByte) (h : ∀ w ∈ ws, isOwn s w.addr = true) : foreignBytes s q ws = [] := by
  unfold foreignBytes
  induction ws with
  | nil => rfl
  | cons w ws ih =>
    rw [List.foldl_cons, if_pos (h w List.mem_cons_self)]
    exact ih fun v hv => h v (List.mem_cons_of_mem w hv)

theorem writeForeign_own {s : Block} (q idx hint : Nat) {ws : List WByte} (h : ∀ w ∈ ws, isOwn s w.addr = true) :
    writeForeign s q idx hint ws = (s, none) := by
  rw [writeForeign, foreignBytes_own s q ws h]
  rfl

theorem isOwn_foldl_clearBad (a : Nat) : ∀ (l : List (Nat × List Byte)) (s : Block),
    isOwn (l.foldl (fun s r => clearBad s r.1 r.2.length) s) a = isOwn s a
  | [], _ => rfl
  | _ :: l, _ => isOwn_foldl_clearBad a l _

/-- Writes of this module's own bytes that no home refuses are all made. -/
theorem applyWrites_own {s : Block} (q idx hint : Nat) {ws : List WByte} (hgood : refusedLines s q ws = [])
    (hown : ∀ w ∈ ws, isOwn s w.addr = true) : (applyWrites s q idx hint ws).2 = none := by
  unfold applyWrites
  simp only [hgood, List.isEmpty_nil, if_true]
  rw [writeForeign_own]
  · rfl
  · intro w hw
    rw [isOwn_foldl_clearBad, isOwn_writeOwn]
    exact ((linesSeen_cacheFrame s hint ws).isOwn w.addr).trans (hown w hw)

/-- Writes that no home refuses, of a value at places that lie together in this module's memory. -/
theorem memByte_applyWrites_wBytes {s : Block} {q a n v : Nat} (idx hint : Nat) (hgood : refusedLines s q (wBytes a n v) = [])
    (hbytes : ∀ k < n, isOwn s (a + k) = true ∧ rackLocal (a + k) = rackLocal a + k) (x : Nat) :
    memByte (applyWrites s q idx hint (wBytes a n v)).1 x =
      if rackLocal a ≤ x ∧ x < rackLocal a + n then BitVec.ofNat 8 (v / 256 ^ (x - rackLocal a)) else memByte s x := by
  have hseen := linesSeen_cacheFrame s hint (wBytes a n v)
  have hmem : memByte (linesSeen s hint (wBytes a n v)) x = memByte s x := by rw [memByte, hseen.mem, memByte]
  rw [memByte, applyWrites_mem, refusedLines_nil_madeWrites hgood, ← hmem]
  exact memByte_writeOwn_wBytes _ a v x n fun k hk => ⟨(hseen.isOwn (a + k)).trans (hbytes k hk).1, (hbytes k hk).2⟩

/-- Settles O20. -/
theorem stampStoresHallTime : Obligations.StampStoresHallTime := by
  intro b q c a halign hmem hpop hfree hgood
  have hbytes := seqMem_bytes hmem
  have hown : ∀ w ∈ wBytes a 8 (hallNat b), isOwn b w.addr = true := by
    intro w hw
    obtain ⟨k, hk, rfl⟩ := List.mem_map.mp hw
    exact (hbytes k (List.mem_range.mp hk)).1
  have hvalue : leNat (natLe 8 (hallNat b)) = hallNat b := (leNat_natLe 8 _).trans (Nat.mod_eq_of_lt b.clk.hall.isLt)
  have hread := memByte_applyWrites_wBytes c.idx 0 hgood hbytes
  refine ⟨(applyWrites b q c.idx 0 (wBytes a 8 (hallNat b))).1, ?_, fun k hk => ?_, fun x hx => ?_⟩
  · have hrun : ¬ (a % 8 ≠ 0 ∨ (!seqMem b q a (natLe 8 (hallNat b)).length) = true ∨ (!rackPopulated b a) = true) := by
      simp [halign, natLe_length, hmem, hpop]
    have hdone := applyWrites_own q c.idx 0 hgood hown
    rw [beginCounter, if_pos rfl, streamStore, if_neg hrun, natLe_length, if_neg (by simpa using hfree), hvalue]
    split
    · rename_i hs
      rw [hs] at hdone
      cases hdone
    · rename_i hs
      rw [hs]
  · rw [hread, if_pos (by omega), Nat.add_sub_cancel_left]
  · rw [hread, if_neg (by omega)]

/-! ### SWATCH (R425) -/

/-- A partial that is delivered reaches the ledger alone. -/
theorem deliverSwatch_ledger (s : Block) (w : SwatchSt) : deliverSwatch s w = { s with ledger := (deliverSwatch s w).ledger } := by
  unfold deliverSwatch
  split
  · rfl
  · split <;> rfl

theorem tileAt_deliverSwatch (s : Block) (w : SwatchSt) (k : Nat) : tileAt (deliverSwatch s w) k = tileAt s k := by
  rw [deliverSwatch_ledger]
  rfl

/-- Settles O21. -/
theorem swatchesBeginAndEnd : Obligations.SwatchesBeginAndEnd := by
  constructor
  · intro b t c
    refine ⟨_, rfl, ?_, fun k hk => tileAt_tilePut_ne b _ hk, fun _ => rfl⟩
    rw [startSwatch, tileAt_tilePut_same]
  · intro b t c haddr
    refine ⟨endSwatch b t, if_pos haddr, ?_, fun k hk => ?_, fun a => ?_⟩
    · rw [endSwatch, tileAt_tilePut_same]
    · rw [endSwatch, tileAt_tilePut_ne _ _ hk, tileAt_deliverSwatch]
    · rw [memByte, endSwatch, tilePut_mem, deliverSwatch_ledger, memByte]

/-! ### MOVE (R202) -/

/-- Settles O22. -/
theorem moveCopiesItsSource : Obligations.MoveCopiesItsSource := by
  intro q b c n src dst hhint1 hhint2 hsrc hdst
  have hfields : ¬ (cmdBits c.word 8 2 = 3 ∨ cmdBits c.word 10 2 = 3) := not_or.mpr ⟨hhint1, hhint2⟩
  have hplaces : ¬ (!seqMem b q src n || !seqMem b q dst n) = true := by simp [hsrc, hdst]
  have hbegins : beginMove q b c = (if src = dst then .go b .ok false
      else if meets (spanAt src n) (spanAt dst n) then .stop b ⟨.layoutOverlap, 0⟩
      else (operandWait b q (cmdBits c.word 8 2) c [(src, n)] [(dst, n)]).getD
        (finishWrites q c (cmdBits c.word 10 2) (touchPieces b (cmdBits c.word 8 2) [(src, n)])
          ((moveBytes b q 0 (linePieces src n)).1.map (fun x => { x with addr := dst + (x.addr - src) }))
          (moveBytes b q 0 (linePieces src n)).2)) := by
    unfold beginMove
    dsimp only
    rw [if_neg hfields, if_neg hplaces]
    cases operandWait b q (cmdBits c.word 8 2) c [(src, n)] [(dst, n)] <;> rfl
  refine ⟨fun hsame => ?_, fun hne hmeet => ?_, fun hne hmeet hready => ?_⟩
  · rw [hbegins, if_pos hsame]
  · rw [hbegins, if_neg hne, if_pos hmeet]
  · rw [hbegins, if_neg hne, if_neg (by simp [hmeet]), hready]
    rfl

end Sys2Proof.Proofs
end

section
/-! SUPPORT. Plumb: the ends of problems, and of a SOLVE with its last one. -/

namespace Sys2Proof.Proofs

open Sys2Proof Sys2Proof.Machine Sys2Proof.Laws

/-! ### Commands of Plumb with a SOLVE in progress -/

section
variable {b : Block} {g : Fin 16} {i : Nat} {x : SolveSt} (hx : solveAt b g = some x)
include hx

theorem answers_problemEnded_deadline (hcls : x.desc.cls ≠ 7) (hfly : inFlight x i = true) (hdue : deadlineDue b x.desc = true) :
    Answers (.problemEnded g i) b (ledgerFlush (missDeadline b g x)) := by
  refine answers_exec (execProblemEnded g i) (fun _ => ⟨rfl, rfl⟩) ?_
  simp [hx, hcls, hfly, hdue]

theorem answers_problemEnded_finishes (hcls : x.desc.cls ≠ 7) (hfly : inFlight x i = true) (hdue : deadlineDue b x.desc = false)
    (hreplay : replayEnding b g i = none) (hfree : probFree b x.desc i = true) (hgood : probRefusal b x.desc i = none) :
    Answers (.problemEnded g i) b (ledgerFlush (solveSettle (finishProblem b g i x) g none)) := by
  refine answers_exec (execProblemEnded g i) (fun _ => ⟨rfl, rfl⟩) ?_
  simp [hx, hcls, hfly, hdue, hreplay, hfree, hgood]

theorem answers_qpCommit_deadline (hcls : x.desc.cls = 7) (hfly : inFlight x i = true) (hpast : deadlinePast b x.desc = true) :
    Answers (.qpCommit g i) b (ledgerFlush (solveSettle (qpDeadline b g i) g none)) := by
  refine answers_exec (execQpCommit g i) (fun _ => ⟨rfl, rfl⟩) ?_
  simp [hx, hcls, hfly, hpast]

theorem answers_plumbDeadline (hdue : deadlineDue b x.desc = true) :
    Answers (.plumbDeadline g) b
      (if x.desc.cls = 7 then ledgerFlush (qpDeadlines g (x.desc.count + 1) b) else ledgerFlush (missDeadline b g x)) := by
  refine answers_exec (execPlumbDeadline g) (fun _ => ⟨rfl, rfl⟩) ?_
  simp [hx, hdue]

end

/-- What a commit of a QP makes, once nothing keeps it from its data. -/
def qpCommitted (b : Block) (g i : Nat) (x : SolveSt) : Block :=
  let p := probAt x i
  let data := qpData b x.desc i
  if p.begun then
    let r := qpIterateOnce b g i x p data
    ledgerFlush (if r.2.2 then qpAfter r.1 g i x r.2.1 data else solveSettle (endQp r.1 g i x r.2.1 .nonfinite 3) g none)
  else if qpBadData x.desc data then
    ledgerFlush (solveSettle (endQp b g i x { p with begun := true, hash := BitVec.ofNat 64 (qpHash x.desc data) } .nonfinite 3) g none)
  else
    let r := qpStart b g i x data
    ledgerFlush (qpAfter r.1 g i x r.2 data)

theorem answers_qpCommit {b : Block} {g : Fin 16} {i : Nat} {x : SolveSt} (hx : solveAt b g = some x) (hcls : x.desc.cls = 7)
    (hfly : inFlight x i = true) (hpast : deadlinePast b x.desc = false) (hfree : probFree b x.desc i = true)
    (hgood : probRefusal b x.desc i = none) (hwork : accessStatus b none .read (rackLocal (workAt b g x.desc i)) (footprint x.desc) = none) :
    Answers (.qpCommit g i) b (qpCommitted b g i x) := by
  refine answers_exec (execQpCommit g i) (fun _ => ⟨rfl, rfl⟩) ?_
  simp only [hx, hcls, hfly, hpast, hfree, hgood, hwork, Option.map_none, Option.or_none, ne_eq, not_true_eq_false, Bool.not_true,
    Bool.false_eq_true, or_self, if_false]
  rfl

/-! ### The end of a SOLVE -/

/-- A SOLVE whose problems have all ended leaves, and its stream goes on or stops by its endings. -/
theorem solveSettle_ended {b : Block} {g : Nat} {x : SolveSt} {st : StreamSt} {c : CmdSlot} (hx : solveAt b g = some x)
    (hended : ∀ i : Nat, i < x.desc.count → (probAt x i).ended.isSome = true) (hst : (seqAt b (512 + g)).stream = some st)
    (hc : st.win.find? (fun y => y.idx == x.idx) = some c) :
    solveSettle b g none = ((endings x).find? (fun e => !goesOn x.desc e.2)).elim
      (completeSlot (warnStream (solvePut b g none) (512 + g)
        ((((endings x).find? (fun e => e.2 != .ok)).map (·.2)).getD .ok)) (512 + g) x.idx)
      fun e => stopSlot (solvePut b g none) (512 + g) c ⟨e.2, e.1⟩ := by
  have hrest : (List.range x.desc.count).filter (fun i => (probAt x i).ended.isNone && !(probAt x i).started) = [] := by
    refine List.filter_eq_nil_iff.mpr fun i hi => ?_
    simp [Option.isNone_eq_false_iff.mpr (hended i (List.mem_range.mp hi))]
  have hnone : (List.range x.desc.count).any (fun i => (probAt x i).ended.isNone) = false := by
    refine List.any_eq_false.mpr fun i hi => ?_
    simp [Option.isNone_eq_false_iff.mpr (hended i (List.mem_range.mp hi))]
  have hseq : seqAt (solvePut b g none) (512 + g) = seqAt b (512 + g) := rfl
  unfold solveSettle
  simp only [hx, hrest, List.foldl_nil, List.isEmpty_nil, if_true, ite_self, hnone, Bool.false_eq_true, if_false, hseq, hst, Option.bind_some, hc,
    Option.getD_none]
  cases (endings x).find? (fun e => !goesOn x.desc e.2) with
  | none => rfl
  | some e => rfl

/-- Settles O25. -/
theorem plumbProblemsEnd : Obligations.PlumbProblemsEnd := by
  refine ⟨⟨fun b g i x hx hcls hfly => ⟨answers_problemEnded_deadline hx hcls hfly, answers_problemEnded_finishes hx hcls hfly⟩,
    fun b g i x hx hcls hfly => ⟨answers_qpCommit_deadline hx hcls hfly, fun hpast hfree hgood hwork => ?_⟩,
    fun b g x hx hdue => ⟨fun hcls => ?_, fun hcls => ?_⟩⟩, fun b g x st c hx hended hst hc => ⟨fun hgood => ?_, fun i e hbad => ?_⟩⟩
  · have hcommit := answers_qpCommit hx hcls hfly hpast hfree hgood hwork
    unfold qpCommitted at hcommit
    refine ⟨fun hbegun => ⟨fun hdone => ?_, fun hdone => ?_⟩, fun hbegun hdata => ?_, fun hbegun hdata => ?_⟩
    · simpa only [hbegun, hdone, if_true] using hcommit
    · simpa only [hbegun, hdone, if_true, Bool.false_eq_true, if_false] using hcommit
    · simpa only [hbegun, hdata, Bool.false_eq_true, if_false] using hcommit
    · simpa only [hbegun, hdata, if_true, Bool.false_eq_true, if_false] using hcommit
  · simpa only [hcls, if_true] using answers_plumbDeadline hx hdue
  · simpa only [hcls, if_false] using answers_plumbDeadline hx hdue
  · rw [solveSettle_ended hx hended hst hc, hgood, Option.elim_none]
  · rw [solveSettle_ended hx hended hst hc, hbad, Option.elim_some]

end Sys2Proof.Proofs
end

section
/-! SUPPORT. Control cores: what an instruction does once it is issued, what retiring and a trap change, and the instructions one by
one. -/

namespace Sys2Proof.Proofs

open Sys2Proof Sys2Proof.Machine Sys2Proof.Laws

/-- An instruction that its hart issues answers what its own effect gives. `e` is its meaning's name. -/
theorem answers_issue {i : Instr} {b b1 t : Block} {h : HartId} {w : Issued} (hi : Issues b h w b1)
    (e : State → Host.Outcome State Fault Refusal) {body : Block → Block}
    (he : ∀ s : State, exec i s = e s ∧ e s = onBlock s fun s => .next (issue s h w body)) (hb : body b1 = t) : Answers i b (ledgerFlush t) :=
  answers_exec e he (by rw [issue_of hi, hb])

/-! ### Ordering points (R263) -/

section
variable {s : Block} {h : Nat} (body : Block → Block)

theorem orderingPoint_waits (hp : storesPending s h = true) : orderingPoint s h body = s := if_pos hp

theorem orderingPoint_effect (hp : storesPending s h = false) (hf : (hartAt s h).failed = none) : orderingPoint s h body = body s := by
  simp [orderingPoint, hp, hf]

theorem orderingPoint_reports {st : Status} (hp : storesPending s h = false) (hf : (hartAt s h).failed = some st) :
    orderingPoint s h body = trapFabric (hartPut s h { hartAt s h with failed := none }) h st := by
  simp [orderingPoint, hp, hf]

end

/-- Settles O29. -/
theorem orderingPointsReportFailedStores : Obligations.OrderingPointsReportFailedStores := by
  intro b b1 h succ pred hi
  refine ⟨fun hw => ?_, fun hw hp => ?_, fun hw hp hf => ?_, fun st hw hp hf => ?_⟩ <;>
    refine answers_issue hi (execCoreFence h pred succ) (fun _ => ⟨rfl, rfl⟩) ?_
  · exact if_neg (by simp [hw])
  · exact (if_pos hw).trans (orderingPoint_waits _ hp)
  · exact (if_pos hw).trans (orderingPoint_effect _ hp hf)
  · exact (if_pos hw).trans (orderingPoint_reports _ hp hf)

/-! ### SYNC instructions (R266) -/

theorem statusWord_malformed : statusWord .malformed = 1 := rfl
theorem statusWord_aborted : statusWord .aborted = 3 := rfl

/-- What SYNC.ADD and SYNC.SET do to a local object where no earlier store keeps them from it. -/
theorem answers_syncStore {b b1 : Block} {h : HartId} {rd rs1 rs2 : RegId} (hi : Issues b h ⟨0x0B, 0⟩ b1)
    (hp : storesPending b1 h = false) (hf : (hartAt b1 h).failed = none) :
    let w := xget (hartAt b1 h) rs1
    let v := xget (hartAt b1 h) rs2
    (objReserved w = true → Answers (.syncAdd h rd rs1 rs2) b (ledgerFlush (retireRd b1 h rd 1)) ∧
      Answers (.syncSet h rd rs1 rs2) b (ledgerFlush (retireRd b1 h rd 1))) ∧
    (objReserved w = false → objRmt w = false →
      Answers (.syncAdd h rd rs1 rs2) b (ledgerFlush (retireRd (signalAdd (scribeSync b1 h 0 w v) (objOf w).toNat v) h rd 0)) ∧
      Answers (.syncSet h rd rs1 rs2) b (ledgerFlush (retireRd (signalSet (scribeSync b1 h 1 w v) (objOf w).toNat v) h rd 0))) := by
  refine ⟨fun hres => ⟨answers_issue hi (execSyncAdd h rd rs1 rs2) (fun _ => ⟨rfl, rfl⟩) ?_, answers_issue hi (execSyncSet h rd rs1 rs2) (fun _ => ⟨rfl, rfl⟩) ?_⟩,
    fun hres hrmt => ⟨answers_issue hi (execSyncAdd h rd rs1 rs2) (fun _ => ⟨rfl, rfl⟩) ?_, answers_issue hi (execSyncSet h rd rs1 rs2) (fun _ => ⟨rfl, rfl⟩) ?_⟩⟩
  all_goals refine (orderingPoint_effect _ hp hf).trans ?_
  · exact if_pos hres
  · exact if_pos hres
  · simp [hres, hrmt]
  · simp [hres, hrmt]

/-- Settles O28. -/
theorem syncInstructionsAct : Obligations.SyncInstructionsAct := by
  constructor
  · intro b b1 h rd rs1 rs2 hi w v o hres hrmt
    refine ⟨answers_issue hi (execSyncRead h rd rs1) (fun _ => ⟨rfl, rfl⟩) ?_, answers_issue hi (execSyncAbort h rd rs1) (fun _ => ⟨rfl, rfl⟩) ?_,
      fun hab => answers_issue hi (execSyncWait h rd rs1 rs2) (fun _ => ⟨rfl, rfl⟩) ?_, fun hab hcount => answers_issue hi (execSyncWait h rd rs1 rs2) (fun _ => ⟨rfl, rfl⟩) ?_,
      fun hab hcount => answers_issue hi (execSyncWait h rd rs1 rs2) (fun _ => ⟨rfl, rfl⟩) ?_,
      fun hp hf => (answers_syncStore hi hp hf).2 hres hrmt⟩
    all_goals simp only [w, v, o] at *
    · simp [hres, hrmt]
    · simp [hres, hrmt]
    · simp [hres, hrmt, hab, statusWord_aborted]
    · simp [hres, hrmt, hab, hcount]
    · simp [hres, hrmt, hab, Nat.not_le.mpr hcount]
  · intro b b1 h rd rs1 rs2 hi w
    refine ⟨fun hbad => ?_, fun hres hp hf => (answers_syncStore hi hp hf).1 hres⟩
    have hrefused : (objReserved w || objRmt w) = true := by simpa using hbad
    refine ⟨answers_issue hi (execSyncAbort h rd rs1) (fun _ => ⟨rfl, rfl⟩) ?_, answers_issue hi (execSyncWait h rd rs1 rs2) (fun _ => ⟨rfl, rfl⟩) ?_⟩
    · exact if_pos hrefused
    · exact if_pos hrefused

/-! ### Waits and hall time (R266, R268) -/

/-- Settles O30. -/
theorem blockedInstructionsEnd : Obligations.BlockedInstructionsEnd := by
  refine ⟨fun b h rd obj v since hb hmet => answers_exec (execSyncWaitRelease h) (fun _ => ⟨rfl, rfl⟩) ?_, fun b h rd v hb hdue => answers_exec (execHtwaitRelease h) (fun _ => ⟨rfl, rfl⟩) ?_,
    fun b b1 h rd rs1 hi => ⟨fun hdue => answers_issue hi (execHtwait h rd rs1) (fun _ => ⟨rfl, rfl⟩) ?_, fun hdue => answers_issue hi (execHtwait h rd rs1) (fun _ => ⟨rfl, rfl⟩) ?_⟩⟩
  · simp only [hb, hmet, if_true]
  · simp only [hb, hdue, if_true]
  · exact if_pos hdue
  · exact if_neg (Nat.not_le.mpr hdue)

/-- Settles O31: the free value is below 21. -/
theorem htimeReadsWithinTenNanoseconds : Obligations.HtimeReadsWithinTenNanoseconds := by
  intro b b1 h rd hi hp
  refine ⟨Config.freeValue b1.free % 21, by omega, answers_issue hi (execHtime h rd) (fun _ => ⟨rfl, rfl⟩) ?_⟩
  exact if_neg (by simp [hp])

/-! ### The custom CSRs (R253, R268) -/

/-- Settles O32. -/
theorem customCsrsAreWritten : Obligations.CustomCsrsAreWritten := by
  constructor
  · intro b b1 h rd rs1 hi v
    refine ⟨fun hv => answers_issue hi (execOtnhint h ⟨rd, rs1⟩) (fun _ => ⟨rfl, rfl⟩) ?_, fun hv => answers_issue hi (execOtnhint h ⟨rd, rs1⟩) (fun _ => ⟨rfl, rfl⟩) ?_,
      fun hmode => answers_issue hi (execOtnmtcmp h ⟨rd, rs1⟩) (fun _ => ⟨rfl, rfl⟩) ?_, fun hmode => answers_issue hi (execOtnmtcmp h ⟨rd, rs1⟩) (fun _ => ⟨rfl, rfl⟩) ?_⟩
    · exact if_neg (Nat.not_le.mpr hv)
    · exact if_pos hv
    · exact if_neg (not_not.mpr hmode)
    · exact if_pos hmode
  · intro b h hdue k1
    refine ⟨fun htake => answers_exec (execMtip h) (fun _ => ⟨rfl, rfl⟩) ?_, fun htake => answers_exec (execMtip h) (fun _ => ⟨rfl, rfl⟩) ?_⟩
    · exact (if_neg (Nat.not_lt.mpr hdue)).trans (if_neg (by simpa using htake))
    · exact (if_neg (Nat.not_lt.mpr hdue)).trans (if_pos htake)

/-! ### Vectors (R255 to R257) -/

theorem vlFor_le {avl m : Nat} (h : avl ≤ m) : vlFor avl m = avl := if_pos h

theorem vlFor_half {avl m : Nat} (h1 : m < avl) (h2 : avl < 2 * m) : vlFor avl m = (avl + 1) / 2 := by
  rw [vlFor, if_neg (by omega), if_pos h2]

theorem vlFor_max {avl m : Nat} (hm : 0 < m) (h : 2 * m ≤ avl) : vlFor avl m = m := by
  rw [vlFor, if_neg (by omega), if_neg (by omega)]

section
variable (h : HartId) (v : VAccess) (n i : Nat) {b b2 : Block}

theorem segments_inactive (hmask : v.masked = true) (hbit : bit (vget (hartAt b h) 0).toNat i = false) :
    segments h v (n + 1) i b = segments h v n (i + 1) b := by
  simp [segments, hmask, hbit]

theorem segments_load (hact : (v.masked && !bit (vget (hartAt b h) 0).toNat i) = false) (hload : v.isStore = false)
    (hdone : loadSegment h v i b = .done b2) : segments h v (n + 1) i b = segments h v n (i + 1) b2 := by
  simp [segments, hact, hload, hdone]

theorem segments_store (hact : (v.masked && !bit (vget (hartAt b h) 0).toNat i) = false) (hstore : v.isStore = true)
    (hdone : storeSegment h v i b = .done b2) : segments h v (n + 1) i b = segments h v n (i + 1) b2 := by
  simp [segments, hact, hstore, hdone]

end

/-- Settles O33. -/
theorem vectorInstructionsAct : Obligations.VectorInstructionsAct := by
  refine ⟨⟨fun b b1 h rd rs1 u vtype hi hok => ⟨fun hrs1 => answers_issue hi (execVsetvl h rd (.reg rs1) vtype) (fun _ => ⟨rfl, rfl⟩) ?_,
      answers_issue hi (execVsetvl h rd (.imm u) vtype) (fun _ => ⟨rfl, rfl⟩) ?_⟩,
    fun b b1 h rd avl vtype hi hbad => answers_issue hi (execVsetvl h rd avl vtype) (fun _ => ⟨rfl, rfl⟩) ?_,
    fun avl m hm => ⟨vlFor_le, fun h1 h2 => ?_, vlFor_max hm⟩⟩,
    fun b b1 v hi => ⟨fun hbad => answers_issue hi (execVectorAccess v) (fun _ => ⟨rfl, rfl⟩) ?_, fun hok hdone => answers_issue hi (execVectorAccess v) (fun _ => ⟨rfl, rfl⟩) ?_,
      fun hok => answers_issue hi (execVectorAccess v) (fun _ => ⟨rfl, rfl⟩) ?_⟩,
    fun b b2 h v n i => ⟨segments_inactive h v n i, segments_load h v n i, segments_store h v n i⟩⟩
  · simp only [hok, ne_eq, hrs1, not_false_eq_true, if_true, Bool.not_true, Bool.false_eq_true, if_false]
  · simp [hok]
  · simp [hbad]
  · rw [vlFor_half h1 h2]
    omega
  · simp [hbad, causeIllegal]
  · have hnone : min 128 (hartAt b1 v.hart).vl.toNat - (hartAt b1 v.hart).vstart.toNat = 0 := by omega
    simp [hok, hnone, segments]
  · simp [hok]

/-! ### Retiring (R255) -/

/-- From `s` to `t` nothing has changed but the counters and the dictionary with its subscriptions. -/
def CountFrame (s t : Block) : Prop := t = { s with counters := t.counters, od := t.od, sess := t.sess }

theorem CountFrame.refl (s : Block) : CountFrame s s := rfl

theorem CountFrame.trans {r s t : Block} (h1 : CountFrame r s) (h2 : CountFrame s t) : CountFrame r t := by
  unfold CountFrame at *
  rw [h2, h1]

/-- A change that a fold makes step by step. -/
theorem CountFrame.foldl {α : Type} {f : Block → α → Block} (h : ∀ s x, CountFrame s (f s x)) :
    ∀ (l : List α) (s : Block), CountFrame s (l.foldl f s)
  | [], s => .refl s
  | x :: l, s => (h s x).trans (.foldl h l (f s x))

theorem CountFrame.harts {s t : Block} (h : CountFrame s t) : t.harts = s.harts := by rw [h]
theorem CountFrame.mem {s t : Block} (h : CountFrame s t) : t.mem = s.mem := by rw [h]
theorem CountFrame.sync {s t : Block} (h : CountFrame s t) : t.sync = s.sync := by rw [h]
theorem CountFrame.tiles {s t : Block} (h : CountFrame s t) : t.tiles = s.tiles := by rw [h]
theorem CountFrame.seqs {s t : Block} (h : CountFrame s t) : t.seqs = s.seqs := by rw [h]
theorem CountFrame.coh {s t : Block} (h : CountFrame s t) : t.coh = s.coh := by rw [h]
theorem CountFrame.own {s t : Block} (h : CountFrame s t) : t.own = s.own := by rw [h]

theorem CountFrame.hartAt {s t : Block} (h : CountFrame s t) (k : Nat) : hartAt t k = hartAt s k := by
  rw [Machine.hartAt, h.harts, Machine.hartAt]

theorem counters_countFrame (s : Block) (c : CounterSt) : CountFrame s { s with counters := c } := rfl

theorem counterAdd_countFrame (s : Block) (key n : Nat) : CountFrame s (counterAdd s key n).1 := rfl

theorem counterEvent_countFrame (s : Block) (u code n k : Nat) : CountFrame s (counterEvent s u code n k) := by
  unfold counterEvent
  dsimp only
  split
  · split
    · exact counterAdd_countFrame s _ _
    · split
      · exact (counterAdd_countFrame s _ _).trans (counterAdd_countFrame _ _ _)
      · exact counterAdd_countFrame s _ _
  · exact .refl s

theorem countEvent_countFrame (s : Block) (u code n : Nat) : CountFrame s (countEvent s u code n) := by
  unfold countEvent
  split
  · exact .refl s
  · exact .foldl (fun s k => counterEvent_countFrame s u code n k) _ s

theorem odBump_countFrame (s : Block) (i j n : Nat) : CountFrame s (odBump s i j n) := rfl

theorem sampleTick_countFrame (s : Block) (cls unit : Nat) : CountFrame s (sampleTick s cls unit).1 := by
  unfold sampleTick
  split
  · exact counters_countFrame s _
  · exact .refl s

theorem traceQueue_countFrame (s : Block) (unit : Nat) (bs : List Byte) : CountFrame s (traceQueue s unit bs) := by
  unfold traceQueue
  dsimp only
  split
  · exact odBump_countFrame s _ _ _
  · exact counters_countFrame s _

/-- What retiring leaves of a hart. -/
def retired (k : Hart) : Hart := { k with pc := k.pc + 4, vstart := 0, blocked := none, lines := [], refused := [], sampling := none }

theorem retire_countFrame (s : Block) (h : Nat) (k : Hart) : CountFrame (hartPut s h (retired k)) (retire s h k) := by
  have hcount := (countEvent_countFrame (hartPut s h (retired k)) (unitHart h) 1 1).trans (sampleTick_countFrame _ 1 (unitHart h))
  unfold retire
  dsimp only
  split
  · exact hcount.trans (traceQueue_countFrame _ _ _)
  · exact hcount

theorem hartAt_retire_same (s : Block) (h : Nat) (k : Hart) : hartAt (retire s h k) h = retired k :=
  ((retire_countFrame s h k).hartAt h).trans (hartAt_hartPut_same s h (retired k))

theorem hartAt_retireRd_same (s : Block) (h : Nat) (rd : RegId) (v : Word) :
    hartAt (retireRd s h rd v) h = retired (xset (hartAt s h) rd v) := hartAt_retire_same s h _

/-- A write of a register changes the registers alone. -/
theorem xset_x (k : Hart) (r : RegId) (v : Word) : xset k r v = { k with x := (xset k r v).x } := by
  unfold xset
  split <;> rfl

theorem xget_xset (k : Hart) (rd r : RegId) (v : Word) : xget (xset k rd v) r = if r = rd ∧ r ≠ 0 then v else xget k r := by
  by_cases hr : r = 0
  · simp [xget, hr]
  by_cases hrd : rd = 0
  · subst hrd
    rw [xset, if_pos rfl, if_neg (fun h => hr h.1)]
  · rw [xset, if_neg hrd, xget, if_neg hr]
    by_cases heq : r = rd
    · subst heq
      rw [if_pos ⟨rfl, hr⟩]
      exact tget_tset_self 0 _ _ v
    · rw [if_neg (fun h => heq h.1), xget, if_neg hr]
      exact tget_tset_ne 0 _ v fun h => heq (BitVec.eq_of_toNat_eq h.symm)

/-- Settles O26: retiring counts and samples, which leaves all but the hart's own registers as it was. -/
theorem retiringWritesRdAlone : Obligations.RetiringWritesRdAlone := by
  intro b h rd v t
  have hframe : CountFrame (hartPut b h (retired (xset (hartAt b h) rd v))) t := retire_countFrame b h _
  have hhart : hartAt t h = retired { hartAt b h with x := (xset (hartAt b h) rd v).x } := by
    rw [← xset_x]
    exact hartAt_retireRd_same b h rd v
  have hfield {α : Type} (f : Hart → α) : f (hartAt t h) = f (retired { hartAt b h with x := (xset (hartAt b h) rd v).x }) :=
    congrArg f hhart
  have hx (r : RegId) : xget (hartAt t h) r = xget (xset (hartAt b h) rd v) r := hfield (xget · r)
  refine ⟨?_, hfield Hart.pc, fun r hr => ?_, hfield Hart.csr, hfield Hart.v, hfield Hart.priv, hfield Hart.vl, hfield Hart.vtype,
    hfield Hart.vstart, hfield Hart.otnhint, hfield Hart.otnmtcmp, hfield Hart.blocked, fun k hk => hartAt_retireRd_ne hk.symm b rd v,
    hfield Hart.f, hframe.mem, hframe.sync, hframe.tiles, hframe.seqs, hframe.coh, hframe.own⟩
  · rw [hx, xget_xset]
    by_cases hrd : rd = 0
    · rw [if_neg (fun h => h.2 hrd), if_pos hrd, xget, if_pos hrd]
    · rw [if_pos ⟨rfl, hrd⟩, if_neg hrd]
  · rw [hx, xget_xset, if_neg (fun h => hr h.1)]

/-! ### Traps (R270) -/

/-- A trap changes its hart alone. -/
theorem takeTrap_harts (s : Block) (h cause : Nat) (tval : Word) :
    takeTrap s h cause tval = { s with harts := (takeTrap s h cause tval).harts } := rfl

theorem hartAt_takeTrap_ne (s : Block) {h k : Nat} (cause : Nat) (tval : Word) (hne : h ≠ k) :
    hartAt (takeTrap s h cause tval) k = hartAt s k := hartAt_hartPut_ne s _ hne

/-- mstatus once machine mode has taken an exception: MIE moves to MPIE and clears, MPP takes the mode. -/
def trapStatus (k : Hart) : Word :=
  let ms := (csrGet k 0x300).toNat
  BitVec.ofNat 64 (setBits (setBit (setBit ms 7 (bit ms 3)) 3 false) 11 2 (privNum k.priv))

/-- A hart that has taken an exception in machine mode. -/
def trapped (k : Hart) (cause : Nat) (tval : Word) : Hart :=
  { csrSet (csrSet (csrSet (csrSet k 0x341 k.pc) 0x342 (BitVec.ofNat 64 cause)) 0x343 tval) 0x300 (trapStatus k) with
    priv := .machine, pc := csrGet k 0x305 &&& ~~~3#64, blocked := none, lines := [], refused := [], sampling := none }

theorem hartAt_takeTrap_machine {s : Block} {h cause : Nat} (tval : Word)
    (hmode : (hartAt s h).priv = .machine ∨ bit (csrGet (hartAt s h) 0x302).toNat cause = false) :
    hartAt (takeTrap s h cause tval) h = trapped (hartAt s h) cause tval := by
  have hnot : ¬ ((hartAt s h).priv ≠ .machine ∧ bit (csrGet (hartAt s h) 0x302).toNat cause = true) := by
    rintro ⟨h1, h2⟩
    rcases hmode with h | h
    · exact h1 h
    · rw [h] at h2
      exact Bool.false_ne_true h2
  rw [takeTrap, hartAt_hartPut_same]
  dsimp only
  rw [if_neg hnot]
  rfl

theorem csrGet_csrSet_same (k : Hart) (n : Nat) (v : Word) : csrGet (csrSet k n v) n = v := tget_tset_self 0 k.csr n v

theorem csrGet_csrSet_ne (k : Hart) {m n : Nat} (v : Word) (h : m ≠ n) : csrGet (csrSet k m v) n = csrGet k n :=
  tget_tset_ne 0 k.csr v h

theorem bits_eq_of_testBit {v lo n x : Nat} (hx : x < 2 ^ n) (h : ∀ j < n, v.testBit (lo + j) = x.testBit j) : bits v lo n = x := by
  apply Nat.eq_of_testBit_eq
  intro j
  rw [bits, Nat.testBit_mod_two_pow, Nat.testBit_shiftRight]
  by_cases hj : j < n
  · rw [decide_eq_true hj, Bool.true_and, h j hj]
  · rw [decide_eq_false hj, Bool.false_and, Nat.testBit_lt_two_pow (hx.trans_le (Nat.pow_le_pow_right two_pos (Nat.not_lt.mp hj)))]

theorem testBit_trapStatus (k : Hart) {j : Nat} (hj : j < 64) : (trapStatus k).toNat.testBit j =
    if 11 ≤ j ∧ j < 13 then (privNum k.priv).testBit (j - 11)
    else if j = 3 then false else if j = 7 then bit (csrGet k 0x300).toNat 3 else bit (csrGet k 0x300).toNat j := by
  rw [trapStatus, BitVec.toNat_ofNat, Nat.testBit_mod_two_pow, decide_eq_true hj, Bool.true_and, testBit_setBits]
  by_cases h1 : j < 11
  · rw [if_pos h1, if_neg (by omega), ← bit_eq_testBit, bit_setBit, bit_setBit]
  · rw [if_neg h1]
    by_cases h2 : j < 11 + 2
    · rw [if_pos h2, if_pos (by omega)]
    · rw [if_neg h2, if_neg (by omega), ← bit_eq_testBit, bit_setBit, bit_setBit]

theorem privNum_lt (p : Priv) : privNum p < 2 ^ 2 := by cases p <;> decide

/-- Settles O27. -/
theorem exceptionsEnterMachineMode : Obligations.ExceptionsEnterMachineMode := by
  intro b h cause tval hmode k t
  have hhart : hartAt t h = trapped k cause tval := hartAt_takeTrap_machine tval hmode
  have hcsr (n : Nat) : csrGet (hartAt t h) n = csrGet (csrSet (csrSet (csrSet (csrSet k 0x341 k.pc) 0x342 (BitVec.ofNat 64 cause)) 0x343 tval)
    0x300 (trapStatus k)) n := (congrArg (csrGet · n) hhart).trans rfl
  have hstatus : csrGet (hartAt t h) 0x300 = trapStatus k := (hcsr _).trans (csrGet_csrSet_same _ _ _)
  refine ⟨?_, ?_, ?_, ?_, ?_, ?_, congrArg Hart.priv hhart, congrArg Hart.pc hhart, fun r => (congrArg (xget · r) hhart).trans rfl,
    fun j hj => hartAt_takeTrap_ne b cause tval hj.symm, takeTrap_harts b h cause tval⟩
  · rw [hcsr, csrGet_csrSet_ne _ _ (by decide), csrGet_csrSet_ne _ _ (by decide), csrGet_csrSet_ne _ _ (by decide), csrGet_csrSet_same]
  · rw [hcsr, csrGet_csrSet_ne _ _ (by decide), csrGet_csrSet_ne _ _ (by decide), csrGet_csrSet_same]
  · rw [hcsr, csrGet_csrSet_ne _ _ (by decide), csrGet_csrSet_same]
  · rw [hstatus, bit_eq_testBit, testBit_trapStatus k (by decide)]
    rfl
  · rw [hstatus, bit_eq_testBit, testBit_trapStatus k (by decide)]
    rfl
  · rw [hstatus]
    refine bits_eq_of_testBit (privNum_lt k.priv) fun j hj => ?_
    rw [testBit_trapStatus k (by omega), if_pos (by omega), Nat.add_sub_cancel_left]

end Sys2Proof.Proofs
end

section
/-! SUPPORT. Tagged atomics, the results of the atomic operations, and the block port with OWN_CMD. -/

namespace Sys2Proof.Proofs

open Sys2Proof Sys2Proof.Machine Sys2Proof.Laws

/-! ### Results of the atomic operations (R269) -/

/-- Settles O38: the operand is of the element's width, so nothing of it is cut off. -/
theorem atomicOperationsGiveTheirResults : Obligations.AtomicOperationsGiveTheirResults := by
  intro n m x c hn hm hx hc
  have hxw : x % 2 ^ (8 * n) = x := Nat.mod_eq_of_lt hx
  have hcw : c % 2 ^ (8 * n) = c := Nat.mod_eq_of_lt hc
  simp only [aopResult, hxw, hcw]
  refine ⟨trivial, trivial, trivial, trivial, trivial, trivial, ?_, ?_, ?_, ?_⟩
  · rw [min_def]
  · rw [max_comm, max_def]
  · refine ⟨_, rfl, ite_eq_or_eq _ _ _, ?_⟩
    rw [min_def, apply_ite (sx (8 * n))]
  · refine ⟨_, rfl, ite_eq_or_eq _ _ _, ?_⟩
    rw [max_comm, max_def, apply_ite (sx (8 * n))]

/-! ### Tagged atomics (R269, R270) -/

/-- The eleven tagged atomics, each with the code of its operation. -/
def tamoCodes (t : TamoArgs) : List (Instr × Nat) :=
  [(.tamoAdd t, 0), (.tamoSwap t, 1), (.tamoXor t, 4), (.tamoCas t, 5), (.tamoFadd t, 6), (.tamoOr t, 8), (.tamoAnd t, 12),
    (.tamoMin t, 16), (.tamoMax t, 20), (.tamoMinu t, 24), (.tamoMaxu t, 28)]

theorem exec_tamo {t : TamoArgs} {i : Instr} {op : Nat} (h : (i, op) ∈ tamoCodes t) (s : State) :
    exec i s = onBlock s fun s => .next (tamo op t s) := by
  simp only [tamoCodes, List.mem_cons, Prod.mk.injEq, List.not_mem_nil, or_false] at h
  rcases h with h | h | h | h | h | h | h | h | h | h | h
  all_goals
    obtain ⟨rfl, rfl⟩ := h
    rfl

/-- What a tagged atomic does once nothing earlier keeps it from its effect. -/
def tamoBody (op : Nat) (t : TamoArgs) (va : Nat) (s : Block) : Block :=
  if va % widBytes t.wid ≠ 0 then takeTrap s t.hart causeStoreMisaligned (BitVec.ofNat 64 va)
  else match translate s t.hart va .store with
    | .trap s c => takeTrap s t.hart c (BitVec.ofNat 64 va)
    | .wait s b => hartWait s t.hart b
    | .found s a => tamoAt s t op va a

theorem tamo_issued {b b1 : Block} {t : TamoArgs} (hi : Issues b t.hart ⟨0x2B, 0⟩ b1)
    (hready : t.rl = true → storesPending b1 t.hart = false ∧ (hartAt b1 t.hart).failed = none) (op : Nat) :
    tamo op t b = ledgerFlush (tamoBody op t (xget (hartAt b1 t.hart) t.rs1).toNat b1) := by
  rw [tamo, issue_of hi]
  congr 1
  by_cases hrl : t.rl = true
  · obtain ⟨hp, hf⟩ := hready hrl
    exact (if_pos hrl).trans (orderingPoint_effect _ hp hf)
  · exact if_neg hrl

theorem tamoAt_sends {s : Block} {t : TamoArgs} {a : Nat} (op va : Nat) (hbad : routeOf s t.hart a ≠ .bad)
    (hwin : routeOf s t.hart a ≠ .window) (hown : ownDeny s t.hart a true = none) :
    tamoAt s t op va a = atomSend s t.hart (.tagged t.rd t.wid) t.wid op a ((xget (hartAt s t.hart) t.rs2).toNat % 2 ^ (8 * widBytes t.wid))
      ((xget (hartAt s t.hart) t.rd).toNat % 2 ^ (8 * widBytes t.wid)) := by
  simp [tamoAt, hbad, hwin, hown]

/-- An atomic whose home is this module joins the requests of its line. -/
theorem atomSend_own {s : Block} {h : HartId} {a : Nat} (w : Blocked) (wid : Wid) (op x cmp : Nat) (hown : isOwn s a = true)
    (hflush : flushOwned s h a = s) :
    atomSend s h w wid op a x cmp = (let s := hartWait s h (some w)
      homeAdmit (scribeAtomic s h op (widBytes wid) a x) (lineOf (rackLocal a))
        (.amo h (hartOwner s h) (hartHint s h) op (rackLocal a) (widBytes wid) x cmp)) := by
  have hwait : isOwn (hartWait s h (some w)) a = true := hown
  simp only [atomSend, hflush, hwait, if_true]

theorem atomDone_tagged_ok {s : Block} {h : Nat} {rd : RegId} {wid : Wid} (old : Nat) (hb : (hartAt s h).blocked = some (.tagged rd wid)) :
    atomDone s h .ok old = retireRd s h rd (amoOld wid old) := by
  simp only [atomDone, hb, if_true]
  rfl

theorem atomDone_tagged_refused {s : Block} {h : Nat} {rd : RegId} {wid : Wid} {st : Status} (old : Nat)
    (hb : (hartAt s h).blocked = some (.tagged rd wid)) (hst : st ≠ .ok) : atomDone s h st old = trapFabric s h st := by
  simp only [atomDone, hb, hst, if_false]

/-- Settles O37. -/
theorem taggedAtomicsOfTheOwnHome : Obligations.TaggedAtomicsOfTheOwnHome := by
  refine ⟨fun b b1 b2 t a hi hready => ?_, fun b h w wid op a x cmp hown hflush => atomSend_own w wid op x cmp hown hflush,
    fun b b3 line h who hint op a n x cmp m st rd wid hat hb => ⟨fun hst => ?_, fun hst => ?_⟩⟩
  · intro n va x cmp hal hfound hbad hwin hown i op hmem
    have hsent : tamoBody op t va b1 = atomSend b2 t.hart (.tagged t.rd t.wid) t.wid op a x cmp := by
      rw [tamoBody, if_neg (not_not.mpr hal), hfound]
      exact tamoAt_sends op va hbad hwin hown
    rw [← hsent, ← tamo_issued hi hready op]
    exact answers_of (exec_tamo hmem) b
  · rw [homeApply_amo, hat, hst]
    exact atomDone_tagged_ok m hb
  · rw [homeApply_amo, hat]
    exact atomDone_tagged_refused m hb hst

/-! ### Refusals of the dictionary (R479) -/

/-- A choice between two checks refuses with a status of its own where both do. -/
theorem ite_ne_ok {p : Prop} [Decidable p] {x y : Option Status} (hx : x ≠ some .ok) (hy : y ≠ some .ok) : (if p then x else y) ≠ some .ok := by
  by_cases h : p
  · rwa [if_pos h]
  · rwa [if_neg h]

theorem ite_refusal_ne_ok {p : Prop} [Decidable p] {st : Status} (h : st ≠ .ok) : (if p then some st else none) ≠ some .ok :=
  ite_ne_ok (mt Option.some.inj h) (Option.some_ne_none _).symm

theorem powerCheck_ne_ok (s : Block) (v : Nat) : powerCheck s v ≠ some .ok := ite_refusal_ne_ok (by decide)

theorem funcCheck_ne_ok (s : Block) (v : Nat) : funcCheck s v ≠ some .ok := by
  unfold funcCheck
  dsimp only
  iterate 6 refine ite_ne_ok (by decide) ?_
  exact ite_refusal_ne_ok (by decide)

theorem manifestCheck_ne_ok (s : Block) (data : List Byte) : manifestCheck s data ≠ some .ok := by
  unfold manifestCheck
  iterate 3 refine ite_ne_ok (by decide) ?_
  exact ite_refusal_ne_ok (by decide)

theorem odStateCheck_ne_ok (s : Block) (index sub v : Nat) : odStateCheck s index sub v ≠ some .ok := by
  unfold odStateCheck
  split
  case h_1 => exact powerCheck_ne_ok s v
  case h_3 => exact funcCheck_ne_ok s v
  case h_4 => exact ite_ne_ok (by decide) (ite_refusal_ne_ok (by decide))
  case h_5 => exact ite_ne_ok (by decide) (ite_refusal_ne_ok (by decide))
  case h_13 => exact (Option.some_ne_none _).symm
  all_goals exact ite_refusal_ne_ok (by decide)

/-- A refused write says why. -/
theorem odCheck_ne_ok (s : Block) (o : Origin) (index sub : Nat) (typ : Option Nat) (data : List Byte) :
    odCheck s o index sub typ data ≠ some .ok := by
  unfold odCheck
  refine ite_ne_ok (by decide) ?_
  split
  · decide
  · dsimp only
    iterate 5 refine ite_ne_ok (by decide) ?_
    split
    next st hst =>
      rw [← hst]
      exact ite_ne_ok (manifestCheck_ne_ok s data) (odStateCheck_ne_ok s index sub _)
    next => exact ite_refusal_ne_ok (by decide)

/-! ### The block port and OWN_CMD (R354, R484) -/

/-- A window write that a hart issues takes its effect and retires. -/
theorem windowRow_issued {b b1 : Block} {h : HartId} {w : Issued} {index sub : Nat} (hi : Issues b h w b1)
    (hw : w = ⟨0x23, windowAddr b index sub⟩) (v : Word) :
    windowRow b h index sub v = ledgerFlush (retire (windowStore b1 h index sub v) h (hartAt (windowStore b1 h index sub v) h)) := by
  subst hw
  exact issue_of hi _

section
variable {s t : Block} {h index sub : Nat} {v : Word}

theorem windowStore_ok (hw : windowWrite s h index sub v = (t, .ok)) : windowStore s h index sub v = t := by
  simp [windowStore, hw]

/-- A refused window write is kept for the hart's next ordering point (R485). -/
theorem windowStore_refused {st : Status} (hw : windowWrite s h index sub v = (t, st)) (hst : st ≠ .ok) :
    windowStore s h index sub v = noteFailed t h st := by
  simp [windowStore, hw, hst]

theorem hartOdWrite_open {data : List Byte} (hopen : ¬ (index = 0x6110 ∧ sub = 1 ∧ (hartAt s h).priv ≠ .machine)) :
    hartOdWrite s h index sub data = odWrite s (hartOrigin h) index sub none data := if_neg hopen

end

/-- The window is open while a job is assigned. -/
theorem windowOpen {s : Block} (hjob : jobAssigned s = true) : (!pathOpen s .window) = false := by
  rw [pathOpen, hjob]
  rfl

section
variable {s : Block} {h : Nat} (hjob : jobAssigned s = true) (v : Word)
include hjob

theorem windowWrite_cursor : windowWrite s h 0x1030 1 v = portCursor s h v := by
  simp [windowWrite, windowOpen hjob]

theorem windowWrite_data : windowWrite s h 0x1030 2 v = portData s h v := by
  simp [windowWrite, windowOpen hjob]

theorem windowWrite_commit : windowWrite s h 0x1030 3 v = portCommit s h v := by
  simp [windowWrite, windowOpen hjob]

/-- OWN_CMD is as long as its slot, so a write of it leaves nothing out. -/
theorem windowWrite_ownCmd : windowWrite s h 0x6110 1 v = hartOdWrite s h 0x6110 1 (natLe 8 v.toNat) := by
  have hlen : odLen 0x6110 1 = 8 := by decide
  have hfits : decide (2 ^ (8 * min 8 8) ≤ v.toNat) = false := decide_eq_false (Nat.not_le.mpr v.isLt)
  unfold windowWrite
  simp only [windowOpen hjob, hlen, hfits]
  rfl

theorem windowRead_data : windowRead s h 0x1030 2 = portRead s h := by
  simp [windowRead, windowOpen hjob]

end

theorem portCursor_ok {v : Word} (s : Block) (h : Nat) (hres : bits v.toNat 56 8 = 0) (hoff : cursorOff v % 8 = 0) :
    portCursor s h v = (hartPut s h { hartAt s h with
      cursor := v, staged := [], latch := if cursorIndex v = 0xB010 ∧ cursorSub v = 1 then some (leNat (counterBytes s)) else none }, .ok) := by
  simp [portCursor, hres, hoff]

/-- COMMIT writes the entry from its staged bytes. -/
theorem portCommit_staged {s : Block} {h : Nat} {d : List Byte}
    (hopen : ¬ (cursorIndex (hartAt s h).cursor = 0x6110 ∧ cursorSub (hartAt s h).cursor = 1))
    (hd : stagedValue (hartAt s h).staged (roundUp 8 (odLen (cursorIndex (hartAt s h).cursor) (cursorSub (hartAt s h).cursor))) = some d) :
    portCommit s h 1 = odWrite (hartPut s h { hartAt s h with staged := [] }) (hartOrigin h) (cursorIndex (hartAt s h).cursor)
      (cursorSub (hartAt s h).cursor) none (d.take (odLen (cursorIndex (hartAt s h).cursor) (cursorSub (hartAt s h).cursor))) := by
  unfold portCommit
  dsimp only
  rw [if_neg (by decide), if_neg (by decide), hd, hartOdWrite_open (fun h => hopen ⟨h.1, h.2.1⟩)]

section
variable {s : Block} {h : Nat} (hmode : modeDenied s h (cursorIndex (hartAt s h).cursor) (cursorSub (hartAt s h).cursor) = false)
include hmode

theorem portRead_value (hok : odReadCheck s (hartOrigin h) (cursorIndex (hartAt s h).cursor) (cursorSub (hartAt s h).cursor) = none) :
    portRead s h = .value (hartPut s h { hartAt s h with cursor := cursorNext (hartAt s h).cursor })
      (leNat (slice (portBytes s (hartAt s h) (cursorIndex (hartAt s h).cursor) (cursorSub (hartAt s h).cursor))
        (cursorOff (hartAt s h).cursor) 8)) := by
  simp only [portRead, hmode, hok, Bool.false_eq_true, if_false]

theorem portRead_refused {st : Status}
    (hbad : odReadCheck s (hartOrigin h) (cursorIndex (hartAt s h).cursor) (cursorSub (hartAt s h).cursor) = some st) :
    portRead s h = .refused st := by
  simp only [portRead, hmode, hbad, Bool.false_eq_true, if_false]

end

theorem ownCmdValue_toNat (op : Nat) (slot : BitVec 7) (region : BitVec 18) (hop : op ≤ 3) :
    (ownCmdValue op slot.toNat region.toNat).toNat = op + slot.toNat * 2 ^ 2 + region.toNat * 2 ^ 9 := by
  rw [ownCmdValue, BitVec.toNat_ofNat, Nat.mod_eq_of_lt]
  omega

/-- The three commands of ownership, each with its operation. -/
def ownCodes (h : HartId) (slot : BitVec 7) (region : BitVec 18) : List (Instr × Nat) :=
  [(.acquireExcl h slot region, 1), (.acquireRead h slot region, 2), (.ownRelease h slot region, 3)]

theorem ownCodes_le {h : HartId} {slot : BitVec 7} {region : BitVec 18} {i : Instr} {op : Nat} (hmem : (i, op) ∈ ownCodes h slot region) :
    op ≤ 3 := by
  simp only [ownCodes, List.mem_cons, Prod.mk.injEq, List.not_mem_nil, or_false] at hmem
  omega

theorem exec_own {h : HartId} {slot : BitVec 7} {region : BitVec 18} {i : Instr} {op : Nat} (hmem : (i, op) ∈ ownCodes h slot region)
    (s : State) : exec i s = onBlock s fun s => .next (windowRow s h 0x6110 1 (ownCmdValue op slot.toNat region.toNat)) := by
  simp only [ownCodes, List.mem_cons, Prod.mk.injEq, List.not_mem_nil, or_false] at hmem
  rcases hmem with hmem | hmem | hmem
  all_goals
    obtain ⟨rfl, rfl⟩ := hmem
    rfl

/-- A command of ownership that its hart issues writes OWN_CMD. -/
theorem answers_own {b b1 : Block} {h : HartId} {slot : BitVec 7} {region : BitVec 18} {i : Instr} {op : Nat}
    (hi : Issues b h ⟨0x23, windowAddr b 0x6110 1⟩ b1) (hmem : (i, op) ∈ ownCodes h slot region) :
    let t := windowStore b1 h 0x6110 1 (ownCmdValue op slot.toNat region.toNat)
    Answers i b (ledgerFlush (retire t h (hartAt t h))) := by
  intro t
  rw [← windowRow_issued hi rfl]
  exact answers_of (exec_own hmem) b

/-- Settles O39. -/
theorem blockPortInstructionsAct : Obligations.BlockPortInstructionsAct := by
  intro b b1 h w hi hjob k index sub port go
  refine ⟨fun v hw hres hoff => ?_, fun v hw => ?_, fun d hw hopen hd => ?_, fun rd hw hmode => ?_, fun i op slot region hw hmem => ?_⟩
  · refine answers_exec (execCursor h v) (fun _ => ⟨rfl, rfl⟩) ?_
    rw [windowRow_issued hi hw, windowStore_ok ((windowWrite_cursor hjob v).trans (portCursor_ok b1 h hres hoff))]
  · refine answers_exec (execDataWrite h v) (fun _ => ⟨rfl, rfl⟩) ?_
    rw [windowRow_issued hi hw, windowStore_ok (windowWrite_data hjob v)]
  · have hwrite := (windowWrite_commit hjob 1).trans (portCommit_staged hopen hd)
    refine ⟨fun hok => answers_exec (execCommit h 1) (fun _ => ⟨rfl, rfl⟩) ?_, fun st hbad => answers_exec (execCommit h 1) (fun _ => ⟨rfl, rfl⟩) ?_⟩
    · rw [windowRow_issued hi hw, windowStore_ok (hwrite.trans (odWrite_ok hok))]
    · have hst : st ≠ .ok := fun h => odCheck_ne_ok _ _ _ _ _ _ (hbad.trans (congrArg some h))
      rw [windowRow_issued hi hw, windowStore_refused (hwrite.trans (odWrite_refused hbad)) hst]
  · have hread : w = ⟨0x03, windowAddr b 0x1030 2⟩ := hw
    rw [hread] at hi
    refine ⟨fun hok => answers_exec (execDataRead h rd) (fun _ => ⟨rfl, rfl⟩) ?_, fun st hbad => answers_exec (execDataRead h rd) (fun _ => ⟨rfl, rfl⟩) ?_⟩
    · rw [issue_of hi, windowRead_data hjob, portRead_value hmode hok]
    · rw [issue_of hi, windowRead_data hjob, portRead_refused hmode hbad]
      rfl
  · rw [hw] at hi
    have hans := answers_own hi hmem
    have hwrite := windowWrite_ownCmd (h := h) hjob (ownCmdValue op slot.toNat region.toNat)
    rw [ownCmdValue_toNat op slot region (ownCodes_le hmem)] at hwrite
    refine ⟨fun hmode hok => ?_, fun hmode _ => ?_⟩
    · rwa [windowStore_ok (hwrite.trans ((hartOdWrite_open (fun h => h.2.2 hmode)).trans (odWrite_ok hok)))] at hans
    · rwa [windowStore_refused (hwrite.trans (if_pos ⟨rfl, rfl, hmode⟩)) (by decide)] at hans

end Sys2Proof.Proofs
end

section
/-! SUPPORT. Writes of the dictionary whose answer waits for a function to start or stop (R508, R510). -/

namespace Sys2Proof.Proofs

open Sys2Proof Sys2Proof.Machine Sys2Proof.Laws

/-- An answer that a function owes is not sent with its request. -/
theorem tx_answerWrite_owed {s : Block} {o : Origin} {k : Nat} (st : Status) (hpath : o.path ≠ .window) (howed : owedKey s = some k) :
    (answerWrite s o st).tx = s.tx := by
  simp [answerWrite, originHart, hpath, replyOrOwe, howed]

theorem emit_tx_ne (s : Block) (m : Tx) : (emit s m).tx ≠ s.tx := by
  simp [emit]

/-- So a request whose answer a function owes does not answer at once. -/
theorem not_answers_emit {i : Instr} {b s : Block} {o : Origin} {st : Status} {k : Nat} (hans : Answers i b (answerWrite s o st))
    (hpath : o.path ≠ .window) (howed : owedKey s = some k) (m : Tx) : ¬ Answers i b (emit s m) := by
  intro hsent
  have htx := congrArg (fun s => s.toBlock.tx) (Host.Outcome.next.inj ((hsent []).symm.trans (hans [])))
  exact emit_tx_ne s m (htx.trans (tx_answerWrite_owed st hpath howed))

/-- The module in READY with its input held and tile 3 disabled; the operator, on T1S. -/
def tileOff : Block :=
  let b := odPut (odPut State.reset.toBlock 0x2000 1 2) 0x2101 1 (2 ^ 3)
  { b with power := { b.power with inputHeld := true } }
def operatorT1s : Origin := ⟨.operator, .t1s, 0, 0⟩

/-- FUNC_CONTROL as an enable of tile 3 carries it. -/
def enableTile : List Byte := natLe 4 (1 + 2 ^ 4 + 3 * 2 ^ 16)

/-- OD_WRITE of FUNC_CONTROL and what it leaves once it is accepted. -/
def enableWrite : Instr := .odWrite operatorT1s 0x2100 1 4 enableTile
def enableAccepted : Block := odAccept tileOff operatorT1s (0x2100 : BitVec 16).toNat (1 : BitVec 8).toNat enableTile

theorem enableTile_accepted :
    odCheck tileOff operatorT1s (0x2100 : BitVec 16).toNat (1 : BitVec 8).toNat (some (4 : BitVec 8).toNat) enableTile = none := by
  decide +kernel

/-- Its answer waits for tile 3's self-test. -/
theorem enableAccepted_owed : owedKey enableAccepted = some (funcKey 1 3) := by decide +kernel

/-- A write by OD_WRITE is checked, takes its effect when it is accepted, and is answered. -/
theorem answers_odWrite {b : Block} {o : Origin} (hopen : pathOpen b o.path = true) (hwin : o.path ≠ .window)
    (hallow : pathAllows o.path o.role = true) (index : BitVec 16) (sub typ : BitVec 8) (data : List Byte) :
    Answers (.odWrite o index sub typ data) b (answerWrite (odWrite b o index.toNat sub.toNat (some typ.toNat) data).1 o
      (odWrite b o index.toNat sub.toNat (some typ.toNat) data).2) := by
  refine answers_exec (execOdWrite o index sub typ data) (fun _ => ⟨rfl, rfl⟩) ?_
  simp [hopen, hwin, hallow]

/-- Refutes O40: the write of FUNC_CONTROL that enables a disabled function is accepted, and its answer is not sent with it but follows
when the self-test has ended (R510), so no answer has left. -/
theorem not_dictionaryRequestsAct : ¬ Obligations.DictionaryRequestsAct := by
  rintro ⟨-, hrequests⟩
  have hopen : pathOpen tileOff operatorT1s.path = true := by decide +kernel
  have hwin : operatorT1s.path ≠ .window := by decide
  have hallow : pathAllows operatorT1s.path operatorT1s.role = true := by decide
  have howed : Answers enableWrite tileOff (answerWrite enableAccepted operatorT1s .ok) := by
    have hans := answers_odWrite hopen hwin hallow 0x2100 1 4 enableTile
    rwa [odWrite_ok enableTile_accepted] at hans
  exact not_answers_emit howed hwin enableAccepted_owed _
    (((hrequests tileOff operatorT1s hopen hwin hallow).1 0x2100 1 4 enableTile).1 enableTile_accepted)

end Sys2Proof.Proofs
end

section
/-! SUPPORT. The dictionary's entries and the alarms after a report of an event; the temperature of a stack. -/

namespace Sys2Proof.Proofs

open Sys2Proof Sys2Proof.Machine Sys2Proof.Laws

/-! ### Bytes of an entry -/

theorem bits_setBits_same (v lo n x : Nat) : bits (setBits v lo n x) lo n = x % 2 ^ n := by
  refine bits_eq_of_testBit (Nat.mod_lt _ (Nat.two_pow_pos n)) fun j hj => ?_
  rw [testBit_setBits, if_neg (by omega), if_pos (by omega), Nat.add_sub_cancel_left, Nat.testBit_mod_two_pow, decide_eq_true hj,
    Bool.true_and]

theorem odByte_odSetByte_same (s : Block) (i j k v : Nat) : odByte (odSetByte s i j k v) i j k = v % 256 := by
  rw [odByte, odSetByte, odNat_odPut_same, bits_setBits_same]
  rfl

theorem odNat_odSetByte_ne (s : Block) {i j i' j' : Nat} (k v : Nat) (h : odKey i j ≠ odKey i' j') :
    odNat (odSetByte s i j k v) i' j' = odNat s i' j' := odNat_odPut_ne s _ h

theorem odNat_of_od {s t : Block} (h : t.od = s.od) (i j : Nat) : odNat t i j = odNat s i j := by rw [odNat, h, odNat]

theorem odNat_ledgerFault (s : Block) (i j : Nat) (st : Status) (unit detail : Nat) : odNat (ledgerFault s st unit detail) i j = odNat s i j := by
  unfold ledgerFault ledgerPut
  split <;> rfl

/-! ### What a report leaves of the dictionary: every entry below those of the log and the alarms -/

section
variable {i j : Nat} (hlow : odKey i j < odKey 0xB040 0)
include hlow

theorem odNat_odPut_high (s : Block) {i' j' : Nat} (v : Nat) (h : odKey 0xB040 0 ≤ odKey i' j') :
    odNat (odPut s i' j' v) i j = odNat s i j := odNat_odPut_ne s v (by omega)

theorem odNat_logOccur (s : Block) (bucket event unit : Nat) (st : Status) (severity : Nat) (detail : Word) :
    odNat (logOccur s bucket event unit st severity detail).1 i j = odNat s i j := by
  have hseq (v : Nat) : odNat (odPut s 0xB040 5 v) i j = odNat s i j := odNat_odPut_high hlow s v (by decide)
  unfold logOccur
  dsimp only
  split
  · exact hseq _
  · exact (odNat_odPut_high hlow _ _ (by decide)).trans (hseq _)

theorem odNat_raiseAlarm (s : Block) (code unit : Nat) (st : Status) (detail : Nat) :
    odNat (raiseAlarm s code unit st detail) i j = odNat s i j := by
  unfold raiseAlarm
  refine (odNat_ledgerFault _ _ _ _ _ _).trans ((odNat_logOccur hlow _ _ _ _ _ _ _).trans ?_)
  exact (odNat_odPut_high hlow _ _ (by decide)).trans (odNat_odPut_high hlow _ _ (by decide))

theorem odNat_report (s : Block) (unit code n : Nat) (st : Status) (detail : Nat) :
    odNat (report s unit code n st detail) i j = odNat s i j := by
  have hcount : odNat (countEvent s unit code n) i j = odNat s i j := odNat_of_od (countEvent_frame s unit code n).od i j
  unfold report
  dsimp only
  generalize (if Config.logWarning (unitClass unit) code then 1 else 0) = severity
  split
  · split
    · exact (odNat_raiseAlarm hlow _ _ _ _ _).trans ((odNat_logOccur hlow _ _ _ _ _ _ _).trans hcount)
    · exact (odNat_logOccur hlow _ _ _ _ _ _ _).trans hcount
  · exact hcount

end

/-! ### Alarms -/

theorem logOccur_alarms (s : Block) (bucket event unit : Nat) (st : Status) (severity : Nat) (detail : Word) :
    (logOccur s bucket event unit st severity detail).1.logs.alarms = s.logs.alarms := by
  unfold logOccur
  dsimp only
  split <;> rfl

theorem ledgerFault_logs (s : Block) (st : Status) (unit detail : Nat) : (ledgerFault s st unit detail).logs = s.logs := by
  unfold ledgerFault ledgerPut
  split <;> rfl

/-- An alarm that is raised is active. -/
theorem raiseAlarm_active (s : Block) (code unit : Nat) (st : Status) (detail : Nat) :
    (tget alarm0 (raiseAlarm s code unit st detail).logs.alarms code).active = true := by
  unfold raiseAlarm
  rw [ledgerFault_logs, logOccur_alarms]
  simp only [odSetBit_logs, odBump_logs, tget_tset_self]

/-! ### The temperature of a stack (R285 to R287) -/

@[simp] theorem stackAt_stackPut_same (s : Block) (k : Nat) (x : StackSt) : stackAt (stackPut s k x) k = x := tget_tset_self stack0 s.hbm k x

theorem stackAt_stackPut_ne (s : Block) {k n : Nat} (x : StackSt) (h : n ≠ k) : stackAt (stackPut s k x) n = stackAt s n :=
  tget_tset_ne stack0 s.hbm x h.symm

theorem ReportFrame.stackAt {s t : Block} (h : ReportFrame s t) (k : Nat) : stackAt t k = stackAt s k := by
  rw [Machine.stackAt, h.hbm, Machine.stackAt]

theorem ReportFrame.sameMemory {s t : Block} (h : ReportFrame s t) : SameMemory s t := fun a => by rw [memByte, h.mem, memByte]

theorem odSetByte_reportFrame (s : Block) (i j k v : Nat) : ReportFrame s (odSetByte s i j k v) := odPut_reportFrame s i j _

theorem setStep_reportFrame (s : Block) (k old new : Nat) : ReportFrame s (setStep s k old new) := by
  have hstep := (odSetByte_reportFrame s 0x3010 6 k new).trans (report_reportFrame _ (unitHbm k) 5 1 .ok new)
  unfold setStep
  split
  · exact .refl s
  · dsimp only
    split
    · exact hstep.trans (raiseAlarm_reportFrame _ _ _ _ _)
    · exact hstep

/-- A change of step publishes OD 0x3010.06 alone. -/
theorem odNat_setStep (s : Block) (k old new : Nat) : odNat (setStep s k old new) 0x3010 7 = odNat s 0x3010 7 := by
  have hstep : odNat (report (odSetByte s 0x3010 6 k new) (unitHbm k) 5 1 .ok new) 0x3010 7 = odNat s 0x3010 7 :=
    (odNat_report (by decide) _ _ _ _ _ _).trans (odNat_odSetByte_ne s k new (by decide))
  unfold setStep
  split
  · rfl
  · dsimp only
    split
    · exact (odNat_raiseAlarm (by decide) _ _ _ _ _).trans hstep
    · exact hstep

/-- A stack whose third sample in a row has failed, and one that has been read. -/
def stackMissed (b : Block) (stack : Nat) : StackSt := { stackAt b stack with missed := 3, step := 4, doubled := true }
def stackRead (b : Block) (stack t : Nat) : StackSt :=
  { stackAt b stack with
    missed := 0, step := throttleStep b (stackAt b stack).step t,
    doubled := if 85 < t then true else if t ≤ 82 then false else (stackAt b stack).doubled }

/-- What the samples make of the module: the stack, the byte of OD 0x3010.07 that reads it, and the reports of its step. -/
def missedThrice (b : Block) (stack : Nat) : Block :=
  raiseAlarm (setStep (odSetByte (stackPut (stackPut b stack { stackAt b stack with missed := (stackAt b stack).missed + 1 }) stack
    (stackMissed b stack)) 0x3010 7 stack 0xFF) stack (stackAt b stack).step 4) 0x05 (unitHbm stack) .ok stack
def sampled (b : Block) (stack t : Nat) : Block :=
  setStep (odSetByte (stackPut b stack (stackRead b stack t)) 0x3010 7 stack t) stack (stackAt b stack).step
    (throttleStep b (stackAt b stack).step t)

theorem answers_stackTempSample {b : Block} {stack : Fin 16} {reading : Option (BitVec 8)} (hcool : ∀ t : BitVec 8, reading = some t → t.toNat < 105) :
    Answers (.stackTempSample stack reading) b (tripWatch (stackSample stack reading b)) := by
  refine answers_exec (execStackTempSample stack reading) (fun _ => ⟨rfl, rfl⟩) ?_
  cases reading with
  | none => simp
  | some t => simp [Nat.not_le.mpr (hcool t rfl)]

section
variable {b : Block} {stack : Fin 16} (hon : 2 ≤ powerState b)
include hon

theorem stackSample_missed (hmissed : (stackAt b stack).missed = 2) : stackSample stack none b = ledgerFlush (missedThrice b stack) := by
  simp only [stackSample, Nat.not_lt.mpr hon, hmissed, if_false, if_true, missedThrice]
  rfl

theorem stackSample_missing (hmissed : (stackAt b stack).missed ≠ 2) :
    stackSample stack none b = stackPut b stack { stackAt b stack with missed := (stackAt b stack).missed + 1 } := by
  have hthree : ¬ (stackAt b stack).missed + 1 = 3 := by omega
  simp only [stackSample, Nat.not_lt.mpr hon, hthree, if_false]

theorem stackSample_read (t : BitVec 8) : stackSample stack (some t) b = ledgerFlush (sampled b stack t.toNat) := by
  simp only [stackSample, Nat.not_lt.mpr hon, if_false]
  rfl

end

/-- Settles O44. -/
theorem stacksThatCannotBeReadTakeStepFour : Obligations.StacksThatCannotBeReadTakeStepFour := by
  intro b stack hon
  refine ⟨fun hmissed => ⟨missedThrice b stack, ?_, ?_⟩, fun hmissed => ?_, fun t ht => ⟨sampled b stack t.toNat, ?_, ?_⟩⟩
  · rw [← stackSample_missed hon hmissed]
    exact answers_stackTempSample nofun
  · have hframe : ReportFrame _ (missedThrice b stack) := (odSetByte_reportFrame (stackPut (stackPut b stack _) stack (stackMissed b stack)) 0x3010 7 stack 0xFF).trans
      ((setStep_reportFrame _ stack (stackAt b stack).step 4).trans (raiseAlarm_reportFrame _ 0x05 (unitHbm stack) .ok stack))
    have hstack : stackAt (missedThrice b stack) stack = stackMissed b stack :=
      (hframe.stackAt stack).trans (stackAt_stackPut_same _ _ _)
    refine ⟨by rw [hstack]; rfl, by rw [hstack]; rfl, ?_, raiseAlarm_active _ _ _ _ _, fun k hk => ?_, hframe.sameMemory⟩
    · rw [odByte, missedThrice, odNat_raiseAlarm (by decide), odNat_setStep]
      exact odByte_odSetByte_same _ _ _ _ _
    · rw [hframe.stackAt, stackAt_stackPut_ne _ _ hk, stackAt_stackPut_ne _ _ hk]
  · rw [← stackSample_missing hon hmissed]
    exact answers_stackTempSample nofun
  · rw [← stackSample_read hon]
    refine answers_stackTempSample fun u hu => ?_
    rwa [← Option.some.inj hu]
  · have hframe : ReportFrame _ (sampled b stack t.toNat) :=
      (odSetByte_reportFrame (stackPut b stack (stackRead b stack t.toNat)) 0x3010 7 stack t.toNat).trans (setStep_reportFrame _ _ _ _)
    have hstack : stackAt (sampled b stack t.toNat) stack = stackRead b stack t.toNat :=
      (hframe.stackAt stack).trans (stackAt_stackPut_same _ _ _)
    have hdoubled : (stackAt (sampled b stack t.toNat) stack).doubled =
        (if 85 < t.toNat then true else if t.toNat ≤ 82 then false else (stackAt b stack).doubled) := congrArg StackSt.doubled hstack
    refine ⟨congrArg StackSt.missed hstack, congrArg StackSt.step hstack, ?_, fun h => ?_, fun h => ?_, fun h1 h2 => ?_, fun k hk => ?_,
      hframe.sameMemory⟩
    · rw [odByte, sampled, odNat_setStep]
      exact (odByte_odSetByte_same _ _ _ _ _).trans (Nat.mod_eq_of_lt t.isLt)
    · rw [hdoubled, if_pos h]
    · rw [hdoubled, if_neg (by omega), if_pos h]
    · rw [hdoubled, if_neg (by omega), if_neg (by omega)]
    · rw [hframe.stackAt, stackAt_stackPut_ne _ _ hk]

end Sys2Proof.Proofs
end

section
/-! SUPPORT. Tenon: the planes of requests, requests at their home, and responses at their requester. -/

namespace Sys2Proof.Proofs

open Sys2Proof Sys2Proof.Machine Sys2Proof.Laws

/-! ### Planes (R320 to R324) -/

theorem planeFor_some {s : Block} {a d k : Nat} (h : planeFor s a d = some k) :
    planeUsable s k d = true ∧ ∃ i : Nat, i < 18 ∧ k = (nominalPlane a d + i) % 18 ∧
      ∀ j : Nat, j < i → planeUsable s ((nominalPlane a d + j) % 18) d = false := by
  rw [planeFor, List.find?_map, Option.map_eq_some_iff] at h
  obtain ⟨i, hi, rfl⟩ := h
  obtain ⟨husable, hlt, hfirst⟩ := List.find?_range_eq_some.mp hi
  refine ⟨husable, i, List.mem_range.mp hlt, rfl, fun j hj => ?_⟩
  simpa using hfirst j hj

theorem planeFor_none (s : Block) (a d : Nat) : planeFor s a d = none ↔ ∀ k : Nat, k < 18 → planeUsable s k d = false := by
  rw [planeFor, List.find?_eq_none]
  simp only [List.mem_map, List.mem_range, forall_exists_index, and_imp, forall_apply_eq_imp_iff₂, Bool.not_eq_true]
  refine ⟨fun h k hk => ?_, fun h i _ => h _ (Nat.mod_lt _ (by decide))⟩
  have hk' := h ((k + 18 - nominalPlane a d % 18) % 18) (Nat.mod_lt _ (by decide))
  rwa [show (nominalPlane a d + (k + 18 - nominalPlane a d % 18) % 18) % 18 = k by omega] at hk'

/-- Settles O46. -/
theorem requestsTakeTheFirstUsablePlane : Obligations.RequestsTakeTheFirstUsablePlane := by
  refine ⟨fun b a d => ⟨?_, fun k => planeFor_some, planeFor_none b a d⟩, fun b k mapSeq map hup hlater => answers_exec (execReach k mapSeq map) (fun _ => ⟨rfl, rfl⟩) ?_,
    fun b k hlost => answers_exec (execReachLost k) (fun _ => ⟨rfl, rfl⟩) ?_, fun b req slot line k hidle hmoved hplane => answers_exec (execPlaneReturn req slot line) (fun _ => ⟨rfl, rfl⟩) ?_⟩
  · simp only [nominalPlane, bits, Nat.shiftRight_eq_div_pow]
  · rcases hlater with h | ⟨m, h, h1, h2⟩
    · simp only [hup, h, Bool.not_true, Bool.false_eq_true, if_false, if_true]
    · simp only [hup, h, h1, h2, decide_true, Bool.and_self, Bool.not_true, Bool.false_eq_true, if_false, if_true]
  · simp [hlost]
  · simp [hidle, hmoved, hplane]

/-! ### Requests at their home (R325, R326, R329, R330) -/

theorem arbDrop_arbs (s : Block) (p w : Nat) : arbDrop s p w = { s with arbs := (arbDrop s p w).arbs } := rfl

/-- The state in which the only request of a line is served: it waits no longer, and its source leaves the round. -/
def taken (s : Block) (line : Nat) (r : HomeReq) : Block :=
  let p := pointChannel (channelOf s (128 * line))
  let w := reqSource s r
  let u := waitingPut (waitingPut s line [r]) line []
  let more := u.coh.waiting.any (fun e => channelOf u (128 * e.1) == channelOf u (128 * line) && e.2.any (fun x => reqSource u x == w))
  if tget 0 (arbAt u p).since w = 0 ∨ more then u else arbDrop u p w

theorem taken_frame (s : Block) (line : Nat) (r : HomeReq) :
    taken s line r = { s with coh := { s.coh with waiting := (taken s line r).coh.waiting }, arbs := (taken s line r).arbs } := by
  unfold taken
  dsimp only
  split <;> rfl

theorem waitingAt_waitingPut_same (s : Block) (line : Nat) (l : List HomeReq) : waitingAt (waitingPut s line l) line = l :=
  tget_tset_self [] s.coh.waiting line l

/-! ### Places of HBM, which the interleave map gives (R274 to R277) -/

section
variable {s t : Block} (hod : t.od = s.od)
include hod

theorem regionMode_of_od (r : Nat) : regionMode t r = regionMode s r := by
  rw [regionMode, odByte, odNat_of_od hod, regionMode, odByte]

theorem channelOf_of_od (a : Nat) : channelOf t a = channelOf s a := by
  simp only [channelOf, regionMode_of_od hod]

theorem framesBelow_of_od (p : Nat) : ∀ r : Nat, framesBelow t p r = framesBelow s p r
  | 0 => rfl
  | r + 1 => by simp only [framesBelow, framesBelow_of_od p r, framesOn, regionMode_of_od hod]

theorem physOf_of_od (a : Nat) : physOf t a = physOf s a := by
  simp only [physOf, regionMode_of_od hod, channelOf_of_od hod, framesBelow_of_od hod]

theorem rowKey_of_od (a : Nat) : rowKey t a = rowKey s a := by
  simp only [rowKey, pageOf, physOf_of_od hod, channelOf_of_od hod]

theorem setKey_of_od (line : Nat) : setKey t line = setKey s line := by
  simp only [setKey, dieOf, channelOf_of_od hod]

end

/-- Who waits for a line says nothing of what stands in the way of a request. -/
theorem blockerOf_waitingPut (s : Block) (l : Nat) (x : List HomeReq) (line : Nat) (r : HomeReq) :
    blockerOf (waitingPut s l x) line r = blockerOf s line r := by
  have hgranule : protectedGranule (waitingPut s l x) (line * 128) = protectedGranule s (line * 128) := rfl
  have hdir : dirAt (waitingPut s l x) line = dirAt s line := rfl
  have hbank : bankBusy (waitingPut s l x) line = bankBusy s line := by
    simp only [bankBusy, cacheSet, rowKey_of_od (waitingPut_od s l x), setKey_of_od (waitingPut_od s l x), waitingPut_ecc, waitingPut_cache]
  simp only [blockerOf, bankBlocker, hgranule, hdir, hbank]

/-- A request that finds its line free is served at once (R32, R345). -/
theorem homeAdmit_free {s : Block} {line : Nat} {r : HomeReq} (hnone : waitingAt s line = []) (hfree : blockerOf s line r = .free)
    (hb : (dirAt s line).st ≠ .b) (hzero : s.launch.zeroing = false) :
    homeAdmit s line r = (let t := drainLine line 1 (homeApply (taken s line r) line r)
      if waitingAt t line = [] then t else arbRaise t (pointChannel (channelOf t (128 * line))) (reqSource t r)) := by
  have hserve : drainLine line 2 (waitingPut s line [r]) = drainLine line 1 (homeApply (taken s line r) line r) := by
    have hgo : ¬ ((dirAt (waitingPut s line [r]) line).st = .b ∨ (waitingPut s line [r]).launch.zeroing = true) := by
      rintro (h | h)
      · exact hb h
      · exact Bool.false_ne_true (hzero.symm.trans h)
    rw [drainLine, if_neg hgo, waitingAt_waitingPut_same]
    dsimp only
    rw [blockerOf_waitingPut, hfree]
    rfl
  unfold homeAdmit
  simp only [hnone, hfree, List.nil_append, List.length_nil, Nat.zero_add, hserve, List.isEmpty_iff]

theorem homeRead_refused_none {s : Block} {p : PktHdr} {n : Nat} (line : Nat)
    (hok : accessStatus s (requesterOf p.sslot p.req.toNat) .read p.addr.toNat n = none) :
    homeApply s line (.rd p n) = respond (homeRead s p.addr.toNat p.hint.toNat n).1 p 0x02 0 .ok (payloadSlots (memRead s p.addr.toNat n)) := by
  simp only [homeApply, hok]
  rfl

theorem homeWrite_seen_cacheFrame (s : Block) (hint : Nat) (l : List (Nat × Nat)) :
    CacheFrame s (l.foldl (fun s p => cacheTouch s p.1 hint true (p.2 == 128)) s) :=
  .foldl (fun s _ => cacheTouch_cacheFrame s _ _ _ _) l s

/-- What a byte reads after a write at the home. -/
theorem memByte_homeWrite (s : Block) (a hint : Nat) (d : List Byte) (x : Nat) :
    memByte (homeWrite s a hint d) x = if a ≤ x ∧ x < a + d.length then d.getD (x - a) 0 else memByte s x := by
  have hseen := homeWrite_seen_cacheFrame s hint (linePieces a d.length)
  have hbyte := memByte_memWrite ((linePieces a d.length).foldl (fun s p => cacheTouch s p.1 hint true (p.2 == 128)) s) a x d
  rw [show memByte ((linePieces a d.length).foldl (fun s p => cacheTouch s p.1 hint true (p.2 == 128)) s) x = memByte s x by
    rw [memByte, hseen.mem, memByte]] at hbyte
  exact hbyte

theorem respond_frame (s : Block) (p : PktHdr) (ptype seq : Nat) (st : Status) (payload : List (BitVec 128)) :
    PortFrame s (respond s p ptype seq st payload) := sendPkt_frame s _

/-- Settles O47. -/
theorem requestsAreServedAtTheirHome : Obligations.RequestsAreServedAtTheirHome := by
  refine ⟨fun b b1 p size e harr hline => answers_exec (execRd p size e) (fun _ => ⟨rfl, rfl⟩) ?_, fun b b1 p d harr hdata hline => answers_exec (execWr p d) (fun _ => ⟨rfl, rfl⟩) ?_,
    fun b b1 p d harr hdata hhint hline hok => answers_exec (execBulk p d) (fun _ => ⟨rfl, rfl⟩) ?_,
    fun b b1 p x v c harr => ⟨fun hop ha => answers_exec (execAtom p x v c) (fun _ => ⟨rfl, rfl⟩) ?_, fun hop ha => answers_exec (execAtom p x v c) (fun _ => ⟨rfl, rfl⟩) ?_,
      fun hop hal hhint => answers_exec (execAtom p x v c) (fun _ => ⟨rfl, rfl⟩) ?_⟩,
    fun b b1 p x d harr hdata hop hal hlen hline => answers_exec (execRed p x d) (fun _ => ⟨rfl, rfl⟩) ?_,
    fun b b1 p x harr ha hop hw => answers_exec (execAbort p x) (fun _ => ⟨rfl, rfl⟩) ?_,
    fun b b0 p x v c e harr hkept => answers_exec (execAtom p x v c) (fun _ => ⟨rfl, rfl⟩) (tagged_again harr hkept 0x06 _),
    fun b sslot req seq hpeer => answers_exec (execAtomack sslot req seq) (fun _ => ⟨rfl, rfl⟩) ?_,
    fun b line r hnone hfree hb hzero => ⟨taken b line r, taken_frame b line r, homeAdmit_free hnone hfree hb hzero⟩,
    fun b line p n hok => homeRead_refused_none line hok, fun b line p d hok a => ?_⟩
  · rw [hline, serve_of harr]
  · rw [hdata, hline, Bool.and_self, serve_of harr]
  · have hfits : (someData d && decide (p.addr.toNat % 256 + d.length ≤ 256) && p.hint.toNat != 3) = true := by
      simp only [hdata, Bool.true_and, Bool.and_eq_true, decide_eq_true_eq, bne_iff_ne]
      exact ⟨by omega, hhint⟩
    have hpiece : d.length ≤ 128 - p.addr.toNat % 128 := by omega
    rw [hfits, serve_of harr]
    simp only [hok, hpiece, if_true]
  · rw [tagged_of harr]
    simp [hop, Nat.not_le.mpr ha]
  · rw [tagged_of harr]
    simp [hop, Nat.not_le.mpr ha]
  · have hnot : ¬ (x.aop.toNat = 0b11110 ∨ x.aop.toNat = 0b11111) := by
      rintro (h | h) <;> rw [h] at hop <;> revert hop <;> decide
    rw [tagged_of harr, if_neg hnot, if_neg]
    simp [hop, hal, hhint]
  · rw [tagged_of harr, if_neg]
    simp [hdata, hop, hal, hlen, hline]
  · rw [tagged_of harr, if_neg]
    simp [hop, hw, Nat.not_le.mpr ha]
  · exact if_pos hpeer
  · have hwrite : homeApply b line (.wr p d) = respond (homeWrite b p.addr.toNat p.hint.toNat d) p 0x04 0 .ok [] := by
      simp only [homeApply, hok]
    rw [hwrite, memByte, (respond_frame _ p 0x04 0 .ok []).mem]
    exact memByte_homeWrite b p.addr.toNat p.hint.toNat d a

end Sys2Proof.Proofs
end

section
/-! SUPPORT. Responses that end the requests of this module. -/

namespace Sys2Proof.Proofs

open Sys2Proof Sys2Proof.Machine Sys2Proof.Laws

/-! ### The ends of requests (R325, R330, R333) -/

section
variable {s : Block} {r : RspHdr} {types : List Nat} {o : Outst} (hpeer : peerOk s r.sslot = true)
include hpeer

theorem endPlain_answered (ho : answered s r types = some o) (st : Status) (data : List Byte) :
    endPlain s r types st data =
      ledgerFlush (sendReleases (releaseHeld (deliverTo (dropOutst s o) o.forWhom o.pkt.dslot o.pkt.addr st data 0))) := by
  simp only [endPlain, peerOnly, hpeer, ho, if_true]

theorem endPlain_unanswered (ho : answered s r types = none) (st : Status) (data : List Byte) :
    endPlain s r types st data = discardPkt s := by
  simp only [endPlain, peerOnly, hpeer, ho, if_true]

/-- The outcome of a tagged request is delivered, and answered with ATOMACK. -/
theorem endTagged_answered {hepoch : BitVec 32}
    (ho : answered { s with fab := { s.fab with hepoch := tset 0 s.fab.hepoch r.sslot hepoch.toNat } } r types = some o)
    (htime : o.timedOut = false) (st : Status) (old : Nat) :
    endTagged s r types st old hepoch =
      (let b1 := { s with fab := { s.fab with hepoch := tset 0 s.fab.hepoch r.sslot hepoch.toNat } }
       let s := sendAtomAck (dropOutst b1 o) o.pkt.dslot o.pkt.req o.pkt.seq o.pkt.addr
       let s := lateOutcome (if st = .outcomeUnknown then odBump s 0x6030 6 1 else s) o st
       ledgerFlush (releaseHeld (deliverTo s o.forWhom o.pkt.dslot o.pkt.addr st [] old))) := by
  unfold endTagged peerOnly
  dsimp only
  rw [if_pos hpeer, ho]
  simp only [htime, Bool.false_eq_true, if_false]

end

/-- A response from a slot outside the peer map applies nothing and is counted (R316). -/
theorem endPlain_stranger {s : Block} {r : RspHdr} (hpeer : peerOk s r.sslot = false) (types : List Nat) (st : Status) (data : List Byte) :
    endPlain s r types st data = odBump s 0x6030 7 1 := if_neg (by simp [hpeer])

/-- Settles O48. -/
theorem responsesEndTheirRequests : Obligations.ResponsesEndTheirRequests := by
  refine ⟨fun b r st data o hpeer => ⟨fun hdata ho => answers_exec (execRdrsp r st data) (fun _ => ⟨rfl, rfl⟩) ?_, fun hdata ho => answers_exec (execWrack r st) (fun _ => ⟨rfl, rfl⟩) ?_,
      fun hdata ho => answers_exec (execBulkack r st) (fun _ => ⟨rfl, rfl⟩) ?_⟩,
    fun b r st data hpeer hdata => ⟨answers_exec (execRdrsp r st data) (fun _ => ⟨rfl, rfl⟩) ?_, answers_exec (execWrack r st) (fun _ => ⟨rfl, rfl⟩) ?_⟩,
    fun b r st hpeer => ⟨fun ho => answers_exec (execRdrsp r st []) (fun _ => ⟨rfl, rfl⟩) ?_, fun ho => answers_exec (execWrack r st) (fun _ => ⟨rfl, rfl⟩) ?_,
      fun ho => answers_exec (execBulkack r st) (fun _ => ⟨rfl, rfl⟩) ?_⟩,
    fun b r st old e i types v hmem hpeer o ho htime => ?_, fun b r o ho htime hlimit => answers_exec (execFabricTimeout r) (fun _ => ⟨rfl, rfl⟩) ?_⟩
  · rw [if_pos hdata, endPlain_answered hpeer ho]
  · rw [hdata, endPlain_answered hpeer ho]
  · rw [hdata, endPlain_answered hpeer ho]
  · rw [if_pos hdata, endPlain_stranger hpeer]
  · exact endPlain_stranger hpeer _ _ _
  · exact (if_pos rfl).trans (endPlain_unanswered hpeer ho _ _)
  · exact endPlain_unanswered hpeer ho _ _
  · exact endPlain_unanswered hpeer ho _ _
  · simp only [List.mem_cons, Prod.mk.injEq, List.not_mem_nil, or_false] at hmem
    rcases hmem with ⟨rfl, rfl, rfl⟩ | ⟨rfl, rfl, rfl⟩
    · exact answers_exec (execAtomrsp r st old e) (fun _ => ⟨rfl, rfl⟩) (endTagged_answered hpeer ho htime st _)
    · exact answers_exec (execRedrsp r st e) (fun _ => ⟨rfl, rfl⟩) (endTagged_answered hpeer ho htime st _)
  · have hnot : ¬ (o.timedOut = true ∨ hallNat b < o.since.toNat + reqLimit b o.pkt.dslot) := by
      simp [htime, hlimit]
    simp only [ho, hnot, if_false]

end Sys2Proof.Proofs
end

section
/-! SUPPORT. Coherence of the bay and the ownership of regions. -/

namespace Sys2Proof.Proofs

open Sys2Proof Sys2Proof.Machine Sys2Proof.Laws

/-! ### Requests of caching agents (R344, R348) -/

section
variable {s : Block} {a : Agent} {line : Nat} {tid : BitVec 16} {hint : BitVec 2} (hon : 2 ≤ powerState s)
  (hnew : cgetAgain s a line tid = none) (hpeer : peerOk s a.slot = true)
include hon hnew hpeer

theorem takeCget_admitted (hline : line < hbmLines) (hbay : sameBay s a.slot = true ∨ agentOwns s a line = true) (hhint : hint ≠ 3) (excl : Bool) :
    takeCget s a line tid hint excl = ledgerFlush (homeAdmit s line (.cget a excl tid hint.toNat)) := by
  have hmay : (!sameBay s a.slot && !agentOwns s a line) = false := by
    rcases hbay with h | h <;> simp [h]
  unfold takeCget
  rw [if_neg (Nat.not_lt.mpr hon), hnew]
  dsimp only
  rw [if_neg (by simp [hpeer]), if_neg hhint, if_neg (Nat.not_le.mpr hline), if_neg (by simp [hmay])]

theorem takeCget_reserved (excl : Bool) : takeCget s a line tid 3 excl = refuseCget s a line tid .malformed := by
  simp [takeCget, Nat.not_lt.mpr hon, hnew, hpeer]

end

/-! ### Lines put back (R344) -/

/-- The bit of an agent lies in SHARERS. -/
theorem sharerBit_lt (a : Agent) : sharerBit a < 96 := by
  have hslot := Nat.mod_lt a.slot.val (show 0 < 8 by decide)
  have hcluster := a.cluster.isLt
  rw [sharerBit]
  omega

theorem sharer_ne_zero (a : Agent) : BitVec.ofNat 96 (2 ^ sharerBit a) ≠ 0 := by
  intro h
  have hval : (2 ^ sharerBit a) % 2 ^ 96 = 0 := congrArg BitVec.toNat h
  rw [Nat.mod_eq_of_lt (Nat.pow_lt_pow_right (by decide) (sharerBit_lt a))] at hval
  exact absurd hval (Nat.two_pow_pos _).ne'

/-! ### Recalls at a cluster (R344, R348) -/

/-- A cluster's answer to a recall, which it keeps. -/
def recallReply (b s : Block) (home : SlotId) (c : ClusterId) (line : BitVec 34) (tid : BitVec 16) (data : Option (List Byte)) : Block :=
  let keep := b.coh.answered.filter (fun x => !(x.home == home.val && x.c == c.val && x.line == line.toNat))
  sendCoh { s with coh := { s.coh with answered := keep ++ [⟨home, c, line.toNat, tid, data⟩] } } 0x15 home line.toNat
    (cohExt b tid.toNat c 0 0 0 data.isSome) .ok (data.getD [])

section
variable {b : Block} {home : SlotId} {c : ClusterId} {line : BitVec 34} {tid : BitVec 16} (hon : 2 ≤ powerState b) (hpeer : peerOk b home = true)
include hon hpeer

/-- A line that the cluster's reset has lost gets no answer (R369). -/
theorem takeRecall_lost (hlost : ((heldAt b (rackAddr home (line.toNat * 128) / 128) c).excl &&
    (heldAt b (rackAddr home (line.toNat * 128) / 128) c).data.isEmpty) = true) (fwd : Bool) :
    takeRecall b home c line.toNat tid fwd = b := by
  unfold takeRecall
  dsimp only
  rw [if_neg (Nat.not_lt.mpr hon), if_neg (by simp [hpeer]), if_pos hlost]

variable (hnew : b.coh.answered.find? (fun x => x.home == home.val && x.c == c.val && x.line == line.toNat && x.tid == tid) = none)
  (hheld : ((heldAt b (rackAddr home (line.toNat * 128) / 128) c).excl &&
    (heldAt b (rackAddr home (line.toNat * 128) / 128) c).data.isEmpty) = false)
include hnew hheld

theorem takeRecall_inv :
    takeRecall b home c line.toNat tid false =
      (let rackLine := rackAddr home (line.toNat * 128) / 128
       let h := heldAt b rackLine c
       recallReply b (dropResv (heldPut b rackLine c held0) c rackLine) home c line tid
         (if h.data.isEmpty then none else if h.dirty then some h.data else none)) := by
  unfold takeRecall
  dsimp only
  rw [if_neg (Nat.not_lt.mpr hon), if_neg (by simp [hpeer]), if_neg (by simp [hheld]), hnew]
  rfl

theorem takeRecall_fwd (hdata : (heldAt b (rackAddr home (line.toNat * 128) / 128) c).data.isEmpty = false) :
    takeRecall b home c line.toNat tid true =
      (let rackLine := rackAddr home (line.toNat * 128) / 128
       let h := heldAt b rackLine c
       recallReply b (heldPut b rackLine c { h with excl := false, dirty := false }) home c line tid (if h.excl then some h.data else none)) := by
  unfold takeRecall
  dsimp only
  rw [if_neg (Nat.not_lt.mpr hon), if_neg (by simp [hpeer]), if_neg (by simp [hheld]), hnew, hdata]
  rfl

end

/-- Settles O50. -/
theorem coherenceMessagesAct : Obligations.CoherenceMessagesAct := by
  refine ⟨fun b a line tid hon hnew hpeer hline hbay hint => ⟨fun hhint => ⟨?_, ?_⟩, fun hhint => ⟨?_, ?_⟩⟩,
    fun b a line tid d hlen hon hpeer hbay hst hme => answers_exec (execCput a line tid (some d)) (fun _ => ⟨rfl, rfl⟩) ?_,
    fun b home c line tid hon hpeer hnew => ⟨fun hdata hdirty => answers_exec (execCrecallInv home c line tid) (fun _ => ⟨rfl, rfl⟩) ?_,
      fun hdirty hdata => answers_exec (execCrecallInv home c line tid) (fun _ => ⟨rfl, rfl⟩) ?_, fun hdata hexcl => answers_exec (execCrecallFwd home c line tid) (fun _ => ⟨rfl, rfl⟩) ?_,
      fun hdata hexcl => answers_exec (execCrecallInv home c line tid) (fun _ => ⟨rfl, rfl⟩) ?_⟩,
    fun b home c line tid excl d hlen hpeer hasked => answers_exec (execCdata home c line tid excl .ok d) (fun _ => ⟨rfl, rfl⟩) ?_,
    fun b a line tid hpeer hopen => answers_exec (execCack a line tid none) (fun _ => ⟨rfl, rfl⟩) ?_,
    fun b a line tid d hlen hst hpeer htid hbay hbit => answers_exec (execCack a line tid (some d)) (fun _ => ⟨rfl, rfl⟩) ?_,
    fun b line hst => ⟨fun hfirst => answers_exec (execRecallTimeout line) (fun _ => ⟨rfl, rfl⟩) ?_, fun hagain => answers_exec (execRecallTimeout line) (fun _ => ⟨rfl, rfl⟩) ?_⟩⟩
  · exact answers_exec (execCgets a line ⟨tid, hint⟩) (fun _ => ⟨rfl, rfl⟩) (takeCget_admitted hon hnew hpeer hline hbay hhint false)
  · exact answers_exec (execCgetm a line ⟨tid, hint⟩) (fun _ => ⟨rfl, rfl⟩) (takeCget_admitted hon hnew hpeer hline hbay hhint true)
  · rw [hhint]
    exact answers_exec (execCgets a line ⟨tid, 3⟩) (fun _ => ⟨rfl, rfl⟩) (takeCget_reserved hon hnew hpeer false)
  · rw [hhint]
    exact answers_exec (execCgetm a line ⟨tid, 3⟩) (fun _ => ⟨rfl, rfl⟩) (takeCget_reserved hon hnew hpeer true)
  · have hholder : (BitVec.ofNat 96 (2 ^ sharerBit a) &&& BitVec.ofNat 96 (2 ^ sharerBit a) != 0) = true := by
      simpa using sharer_ne_zero a
    have hleft : BitVec.ofNat 96 (2 ^ sharerBit a) &&& ~~~BitVec.ofNat 96 (2 ^ sharerBit a) = 0 := by simp
    have hopt : optLine (some d) = true := decide_eq_true hlen
    simp only [Nat.not_lt.mpr hon, hopt, hpeer, hbay, hme, hholder, hleft, hst, Bool.true_and, Bool.true_or, Bool.not_true,
      Bool.false_eq_true, if_true, if_false, reduceCtorEq]
  · rw [takeRecall_inv hon hpeer hnew (by simp [hdata])]
    simp [hdata, hdirty, recallReply]
  · rw [takeRecall_inv hon hpeer hnew (by rcases hdata with h | h <;> simp [h])]
    simp [hdirty, recallReply]
  · rw [takeRecall_fwd hon hpeer hnew (by simp [hdata]) (by simp [hdata])]
    simp [hexcl, recallReply]
  · exact takeRecall_lost hon hpeer (by simp [hdata, hexcl]) false
  · simp [hlen, hpeer, hasked, peerOnly]
  · simp [hpeer, hopen, optLine]
  · simp [hlen, hst, hpeer, htid, hbay, hbit, optLine]
  · simp [hst, hfirst]
  · simp [hst, hagain]

/-! ### Ownership of regions (R351 to R356) -/

/-- An acquisition as its home keeps it: the owner's epoch stands above bit 16 of its TID. -/
def acqReq (o : OwnerId) (region tid : Nat) (read : Bool) : OwnReq :=
  ⟨tid + 65536 * o.epoch.toNat, o.unit.toNat, o.slot, region, read, false, false, none⟩

/-- An acquisition that is new and may be made is answered with what it meets, or waits for its recalls. -/
theorem takeAcq_new {s : Block} {o : OwnerId} {region tid : Nat} {read : Bool} (hon : 2 ≤ powerState s) (hpeer : peerOk s o.slot = true)
    (hregion : region < 196608) (hunit : ownerUnit o.unit.toNat = true) (hnew : s.own.reqs.any (fun y => y == acqReq o region tid read) = false) :
    takeAcq s o region tid read = (acqStatus s (acqReq o region tid read) o.epoch.toNat).elim
      (ledgerFlush (ownProgress { s with own := { s.own with reqs := s.own.reqs ++ [acqReq o region tid read] } }))
      fun st => sendCownrsp s o.slot tid o.unit.toNat region st := by
  rw [acqReq] at hnew ⊢
  unfold takeAcq
  dsimp only
  rw [if_neg (Nat.not_lt.mpr hon), if_neg (by simp [hpeer]), if_neg (Nat.not_le.mpr hregion), if_neg (by simp [hunit]), if_neg (by simp [hnew])]
  cases acqStatus s _ o.epoch.toNat with
  | none => rfl
  | some st => rfl

theorem ownTable_table (s : Block) (t : Tab OwnEnt) : (ownTable s t).own.table = t := by
  unfold ownTable
  dsimp only
  split <;> rfl

/-- Settles O51. -/
theorem ownershipMessagesAct : Obligations.OwnershipMessagesAct := by
  refine ⟨fun b o region tid i read hon hpeer hregion hunit hmem => ?_,
    fun b o region tid hon hpeer => ⟨fun hhit => answers_exec (execCownRelease o region tid) (fun _ => ⟨rfl, rfl⟩) ?_, fun hhit => answers_exec (execCownRelease o region tid) (fun _ => ⟨rfl, rfl⟩) ?_⟩,
    fun b home tid hon hpeer => answers_exec (execCownPing home tid) (fun _ => ⟨rfl, rfl⟩) ?_, fun b hon => answers_exec execCownPingDue (fun _ => ⟨rfl, rfl⟩) ?_,
    fun b home tid epoch hpeer hping => answers_exec (execCownrsp home tid .ok epoch) (fun _ => ⟨rfl, rfl⟩) ?_,
    fun b home tid epoch r h hpeer hping hmine hrel hhart => answers_exec (execCownrsp home tid .ok epoch) (fun _ => ⟨rfl, rfl⟩) ?_, fun b region e he hregion => ?_⟩
  · intro r hnew
    have hans : Answers i b (takeAcq b o region.toNat tid.toNat read) := by
      simp only [List.mem_cons, Prod.mk.injEq, List.not_mem_nil, or_false] at hmem
      rcases hmem with ⟨rfl, rfl⟩ | ⟨rfl, rfl⟩
      · exact answers_exec (execCownAcqExcl o region tid) (fun _ => ⟨rfl, rfl⟩) rfl
      · exact answers_exec (execCownAcqRead o region tid) (fun _ => ⟨rfl, rfl⟩) rfl
    rw [takeAcq_new hon hpeer hregion hunit hnew] at hans
    refine ⟨fun hfree => ?_, fun st hmet => ?_⟩
    · rwa [show acqStatus b (acqReq o region.toNat tid.toNat read) o.epoch.toNat = none from hfree, Option.elim_none] at hans
    · rwa [show acqStatus b (acqReq o region.toNat tid.toNat read) o.epoch.toNat = some st from hmet, Option.elim_some] at hans
  · rw [if_neg (Nat.not_lt.mpr hon), if_neg (by simp [hpeer]), if_pos hhit]
  · rw [if_neg (Nat.not_lt.mpr hon), if_neg (by simp [hpeer]), if_neg (by simp [hhit])]
  · rw [if_neg (Nat.not_lt.mpr hon), if_neg (by simp [hpeer])]
  · exact if_neg (Nat.not_lt.mpr hon)
  · simp [hpeer, hping]
  · rw [if_neg (by simp [hpeer]), if_neg hping, hmine]
    simp only [hrel, hhart, ne_eq, not_true_eq_false, Bool.false_eq_true, if_false]
    rfl
  · rw [clearLost, ownTable_table, List.mem_filter] at he
    simpa [hregion] using he.2

end Sys2Proof.Proofs
end

section
/-! SUPPORT. The messages of Truss. -/

namespace Sys2Proof.Proofs

open Sys2Proof Sys2Proof.Machine Sys2Proof.Laws

/-! ### Formation and lost members (R377, R408, R409) -/

section
variable {b : Block} {h : TrussHdr} {k : Nat} {g : Group} (hon : 2 ≤ powerState b) (hg : groupByGid b h.gid.toNat = some (k, g))

include hon hg in
theorem probe_answered (hknown : knownMember b g h.rank = true) : Answers (.probe h) b
    (sendCtl b g h.rank h.collSeq.toNat (reqFor b h.gid.toNat h.collSeq.toNat) ctlProbeAnswer (ctlPid g h.rank) .ok 0 (homeEpoch b)) := by
  refine answers_exec (execProbe h) (fun _ => ⟨rfl, rfl⟩) ?_
  simp only [if_neg (Nat.not_lt.mpr hon), hg, hknown, Bool.not_true, Bool.false_eq_true, if_false]

include hon hg in
theorem probeAnswer_sameEpoch (hknown : knownMember b g h.rank = true) {e : BitVec 32}
    (he : tget 0 g.epochs h.rank = 0 ∨ tget 0 g.epochs h.rank = e.toNat + 1) : Answers (.probeAnswer h e) b
    (groupPut b k { g with epochs := tset 0 g.epochs h.rank (e.toNat + 1), probes := tset 0 g.probes h.rank 0 }) := by
  refine answers_exec (execProbeAnswer h e) (fun _ => ⟨rfl, rfl⟩) ?_
  have hsame : ¬ (tget 0 g.epochs h.rank ≠ 0 ∧ tget 0 g.epochs h.rank ≠ e.toNat + 1) := by omega
  simp only [if_neg (Nat.not_lt.mpr hon), hg, hknown, Bool.not_true, Bool.false_eq_true, if_false, if_neg hsame]

include hon hg in
theorem probeAnswer_otherEpoch (hknown : knownMember b g h.rank = true) {e : BitVec 32}
    (he : tget 0 g.epochs h.rank ≠ 0 ∧ tget 0 g.epochs h.rank ≠ e.toNat + 1) :
    Answers (.probeAnswer h e) b (ledgerFlush (loseMember b k h.rank)) := by
  refine answers_exec (execProbeAnswer h e) (fun _ => ⟨rfl, rfl⟩) ?_
  simp only [if_neg (Nat.not_lt.mpr hon), hg, hknown, Bool.not_true, Bool.false_eq_true, if_false, if_pos he]

/-- A member that the group, still forming, waits for is probed at its timeout, unless it is lost. -/
theorem memberTimeout_forming (hon : 2 ≤ powerState b) (hg : groupByGid b h.gid.toNat = some (k, g)) (hst : g.state = 1) (hother : h.rank ≠ g.rank)
    (hnear : (treeChildren g.m g.rank).contains h.rank = true ∨ (g.rank ≠ 0 ∧ h.rank = treeParent g.rank)) :
    Answers (.memberTimeout h) b
      (if (memberPlane b (memberAt g h.rank) 0).isNone ∨ 3 ≤ tget 0 g.probes h.rank then ledgerFlush (loseMember b k h.rank)
       else sendCtl (groupPut b k { g with probes := tset 0 g.probes h.rank (tget 0 g.probes h.rank + 1) }) g h.rank h.collSeq.toNat
         (reqFor b h.gid.toNat h.collSeq.toNat) ctlProbe (ctlPid g h.rank) .ok 0 0) := by
  refine answers_exec (execMemberTimeout h) (fun _ => ⟨rfl, rfl⟩) ?_
  have hforming : (g.state == 1 && ((treeChildren g.m g.rank).contains h.rank || (g.rank != 0 && h.rank == treeParent g.rank))) = true := by
    rcases hnear with hc | ⟨hr, hp⟩
    · rw [hst, hc]
      rfl
    · simp [hst, hr, ← hp]
  simp only [if_neg (Nat.not_lt.mpr hon), hg, hforming, Bool.true_or, Bool.not_true, Bool.false_or, beq_eq_false_iff_ne.mpr hother,
    Bool.false_eq_true, if_false]
  rfl

end

/-! ### Pieces of a collective (R394, R397, R405) -/

section
variable {b : Block} {h : TrussHdr} {g : Group} {c : Coll} (hr : Reaches b h g c)
include hr

theorem reaches_at : collAt b h.gid.toNat h.collSeq.toNat = some c := hr.2.2.2.1

theorem reaches_live : c.failed = none := hr.2.2.2.2.2

theorem reaches_active : c.active = true := hr.2.2.2.2.1

theorem ready_taken (pc : PieceId) (sig : BitVec 32) (allow : Nat) (hsig : g.istus = true ∨ sig = collOpsig c) :
    Answers (.ready h pc sig allow) b (ledgerFlush (advanceColl (collPut b { c with
      ready := if c.ready.contains (h.rank, pc.hall, pc.down) then c.ready else c.ready ++ [(h.rank, pc.hall, pc.down)],
      allow := tset 0 c.allow h.rank (allow + 1) }) c.gid c.seq)) := by
  refine answers_exec (execReady h pc sig allow) (fun _ => ⟨rfl, rfl⟩) ((onColl_of hr _ _).trans (congrArg ledgerFlush ?_))
  have hmatch : (!g.istus && sig != collOpsig c) = false := by rcases hsig with h | h <;> simp [h]
  simp only [reaches_live hr, hmatch, Option.isSome_none, Bool.false_eq_true, if_false]

theorem count_taken (n : Nat) (hop : (collD c).op = 6) (hgrants : c.grants = []) : Answers (.count h n) b (ledgerFlush (advanceColl
    (grantAll (collPut b { c with counts := tset 0 c.counts h.rank (n + 1) }) c.gid c.seq) c.gid c.seq)) := by
  refine answers_exec (execCount h n) (fun _ => ⟨rfl, rfl⟩) ((onColl_of hr _ _).trans (congrArg ledgerFlush ?_))
  simp [reaches_live hr, hop, hgrants]

theorem chunkData_laid (pc : PieceId) (off : Nat) (d : List Byte) (f : PieceForm) (hdata : packetData d = true)
    (hform : expectForm g c h.rank pc = some f) (hnew : verifiedAt c h.rank pc = none)
    (hroom : 16 * off + d.length ≤ roundUp 16 (formLen g.istus (pieceFmt c pc) f)) :
    Answers (.chunkData h pc off d) b (ledgerFlush (collPut b (piecePut c
      { (pieceAt c h.rank pc).getD ⟨pc, h.rank, [], none, false, 0⟩ with
        bytes := layBytes ((pieceAt c h.rank pc).getD ⟨pc, h.rank, [], none, false, 0⟩).bytes (16 * off) d }))) := by
  refine answers_exec (execChunkData h pc off d) (fun _ => ⟨rfl, rfl⟩) ?_
  rw [if_neg (by simp [hdata]), onColl_of hr]
  simp [hform, hnew, reaches_live hr, Nat.not_lt.mpr hroom]

/-- What a header of the collective's epoch and signature, for a piece not yet verified, does. -/
def headerEffect (b : Block) (h : TrussHdr) (g : Group) (c : Coll) (pc : PieceId) (hd : ChunkHeader) (f : PieceForm) : Block :=
  let p := (pieceAt c h.rank pc).getD ⟨pc, h.rank, [], none, false, 0⟩
  if pieceGood g c pc f hd p.bytes then
    let data := padTo hd.bytes (p.bytes.take hd.bytes)
    let c1 := piecePut c { p with bytes := data, header := some hd, verified := true }
    if !pc.down && (collD c).reduces && istusBad (inFmt c) f.n data && g.istus then failColl (collPut b c1) c.gid c.seq .nonfinite g.rank
    else advanceColl (trussEvent (collPut b c1) c 1 1) c.gid c.seq
  else askResend b g c h.rank pc

theorem chunkHeader_taken (pc : PieceId) (hd : ChunkHeader) (f : PieceForm) (hepoch : hd.epoch.toNat = (if g.istus then g.epoch % 65536 else g.epoch))
    (hnew : verifiedAt c h.rank pc = none) (hsig : g.istus = true ∨ hd.opsig = collOpsig c) (hform : expectForm g c h.rank pc = some f) :
    Answers (.chunkHeader h pc hd) b (ledgerFlush (headerEffect b h g c pc hd f)) := by
  refine answers_exec (execChunkHeader h pc hd) (fun _ => ⟨rfl, rfl⟩) ?_
  have hmatch : (!g.istus && hd.opsig != collOpsig c) = false := by rcases hsig with h | h <;> simp [h]
  simp only [reaches_at hr, onColl_of hr]
  refine congrArg ledgerFlush ?_
  simp only [reaches_live hr, hnew, hepoch, hmatch, hform, Option.isSome_none, Bool.false_eq_true, ne_eq, not_true_eq_false, or_self, if_false]
  rfl

theorem pieceTimeout_asks (pc : PieceId) (hform : (expectForm g c h.rank pc).isSome = true) (hnew : verifiedAt c h.rank pc = none) :
    Answers (.pieceTimeout h pc) b (ledgerFlush (askResend b g c h.rank pc)) := by
  refine answers_exec (execPieceTimeout h pc) (fun _ => ⟨rfl, rfl⟩) ((onColl_of hr _ _).trans (congrArg ledgerFlush ?_))
  simp [reaches_active hr, reaches_live hr, hform, hnew]

theorem resend_readAgain (pc : PieceId) (p : SentPiece) (bs : List Byte)
    (hsent : c.sent.find? (fun p => p.dst == h.rank && p.pid == pc && p.gone) = some p) (hcopy : copyOf b g c p = .ok bs) :
    Answers (.resend h pc) b (ledgerFlush (if crc64 bs = p.header.crc.toNat then
        sendPiece (trussEvent (odBump (collPut b { c with resends := c.resends + 1 }) 0x8030 4 1) c 2 1) g
          { c with resends := c.resends + 1 } { p with bytes := bs }
      else failColl b c.gid c.seq .corruptSource g.rank)) := by
  refine answers_exec (execResend h pc) (fun _ => ⟨rfl, rfl⟩) ((onColl_of hr _ _).trans (congrArg ledgerFlush ?_))
  simp only [hsent, hcopy]

/-! ### The completion wave (R402) -/

theorem doneUp_taken : Answers (.doneUp h) b (ledgerFlush (takeDoneUp h b).1) :=
  answers_exec (execDoneUp h) (fun _ => ⟨rfl, rfl⟩) (onColl_of hr _ _)

theorem takeDoneUp_child (hchild : (treeChildren (groupAt b c.gidx).m (groupAt b c.gidx).rank).contains h.rank = true)
    (hnew : c.doneUps.contains h.rank = false) :
    takeDoneUp h b = checkUp (collPut b { c with doneUps := c.doneUps ++ [h.rank] }) c.gid c.seq := by
  simp only [takeDoneUp, reaches_at hr, reaches_live hr, hchild, hnew, Option.isSome_none, Bool.not_true, Bool.or_self, Bool.false_eq_true, if_false]

theorem doneDown_finishes (hup : c.upSent = true) (hrank : (groupAt b c.gidx).rank ≠ 0) :
    Answers (.doneDown h) b (ledgerFlush (finishColl b c)) := by
  refine answers_exec (execDoneDown h) (fun _ => ⟨rfl, rfl⟩) ((onColl_of hr _ _).trans (congrArg ledgerFlush ?_))
  have htake : takeDoneDown h b = some c := by simp [takeDoneDown, reaches_at hr, reaches_live hr, hup, hrank]
  rw [htake]

end

/-! ### Failure (R406) -/

section
variable {b : Block} {h : TrussHdr} {g : Group} {c : Coll} {k : Nat} (hon : 2 ≤ powerState b)
  (hg : groupByGid b h.gid.toNat = some (k, g)) (hknown : knownMember b g h.rank = true)
include hon hg hknown

theorem trussAck_counted (hc : collAt b h.gid.toNat h.collSeq.toNat = some c) : Answers (.trussAck h) b
    (ledgerFlush (dropFailed (collPut b { c with acks := c.acks.filter (fun r => r != h.rank) }) c.gid c.seq)) := by
  refine answers_exec (execTrussAck h) (fun _ => ⟨rfl, rfl⟩) ?_
  simp only [onColl, if_neg (Nat.not_lt.mpr hon), hg, hknown, hc, Option.isSome_none, Bool.and_false, Bool.false_and, Bool.not_true,
    Bool.false_eq_true, if_false]

theorem fail_taken (st : Status) (subject : Nat) (x : Coll) (hlive : c.failed = none)
    (hc : collAt (ackFail b g h) h.gid.toNat h.collSeq.toNat = some c)
    (hx : collAt (endFailed (ackFail b g h) c st subject) h.gid.toNat h.collSeq.toNat = some x) :
    Answers (.fail h st subject) b (ledgerFlush (dropFailed (if x.fwd then endFailed (ackFail b g h) c st subject
      else sendFails (collPut (endFailed (ackFail b g h) c st subject) { x with fwd := true }) g { x with fwd := true } st subject
        (treeChildren g.m g.rank)) h.gid.toNat h.collSeq.toNat)) := by
  refine answers_exec (execFail h st subject) (fun _ => ⟨rfl, rfl⟩) ?_
  simp only [if_neg (Nat.not_lt.mpr hon), hg, hknown, hc, hlive, hx, Option.isNone_none, Bool.not_true, Bool.false_eq_true, if_false, if_true]

end

theorem failAckTimeout_passesOn {b : Block} {gid seq : BitVec 32} {child : Nat} {c : Coll} {st : Status} {sub : Nat}
    (hc : collAt b gid.toNat seq.toNat = some c) (hfail : c.failed = some (st, sub)) (hack : c.acks.contains child = true) :
    Answers (.failAckTimeout gid seq child) b
      (let c1 := { c with acks := c.acks.filter (fun r => r != child), fwd := c.fwd || child == 0 }
       dropFailed (sendFails (collPut b c1) (groupAt b c.gidx) c1 st sub (treeChildren (groupAt b c.gidx).m child)) c.gid c.seq) := by
  refine answers_exec (execFailAckTimeout gid seq child) (fun _ => ⟨rfl, rfl⟩) ?_
  simp only [hc, hfail, hack, Bool.not_true, Bool.false_eq_true, if_false]

/-! ### Chunks start (R391) -/

section
variable {b : Block} {gid seq : BitVec 32} {pc : PieceId} {c : Coll} (hc : collAt b gid.toNat seq.toNat = some c) (hon : 2 ≤ powerState b)
  (hactive : c.active = true) (hlive : c.failed = none)
include hc hon hactive hlive

/-- What CHUNK_START does at an active collective that has not failed. -/
theorem chunkStart_live : Answers (.chunkStart gid seq pc) b
    (let g := groupAt b c.gidx
     if pc.down then ledgerFlush (advanceColl b c.gid c.seq)
     else if (collD c).reduces && pc.hall then
       if pc.chunk = c.hallNext ∧ hallMay g c then
         ledgerFlush (advanceColl (collPut (countOther b (unitTruss c.engine) (((rackSums g c c.hallNext).map (·.2)).getD ev0))
           { c with hallNext := c.hallNext + 1 }) c.gid c.seq)
       else b
     else if pc.chunk = c.next ∧ moduleMay g c then ledgerFlush (startModule b g c pc.chunk) else b) := by
  refine answers_exec (execChunkStart gid seq pc) (fun _ => ⟨rfl, rfl⟩) ?_
  have hgo : ¬ (powerState b < 2 ∨ (!c.active) = true ∨ c.failed.isSome = true) := by simp [Nat.not_lt.mpr hon, hactive, hlive]
  simp only [hc, if_neg hgo]

end

/-- Settles O52. -/
theorem trussMessagesAct : Obligations.TrussMessagesAct := by
  refine ⟨⟨fun b gid rank lsig e k g hon hg hst hchild hknown => answers_exec (execFormUp gid rank lsig e) (fun _ => ⟨rfl, rfl⟩) ?_,
      fun b gid st k g hg hst hrank => answers_exec (execFormDown gid st) (fun _ => ⟨rfl, rfl⟩) ?_,
      fun b h k g hon hg hknown => ⟨probe_answered hon hg hknown, fun e he => probeAnswer_sameEpoch hon hg hknown he,
        fun e hold hother => probeAnswer_otherEpoch hon hg hknown ⟨hold, hother⟩⟩,
      fun b h k g hon hg hst hother hnear => ⟨fun hlost => ?_, fun hplane hfew => ?_⟩⟩,
    fun b h g c hr => ⟨fun pc sig allow => ready_taken hr pc sig allow, fun n => count_taken hr n,
      fun pc off d f hdata hform hnew hroom => chunkData_laid hr pc off d f hdata hform hnew hroom,
      fun pc hd f hepoch hnew hsig hform => ⟨fun hbad => ?_, fun hgood histus => ?_⟩, fun pc => pieceTimeout_asks hr pc,
      fun pc p bs hsent hcopy => ⟨fun hcrc => ?_, fun hcrc => ?_⟩, doneUp_taken hr, fun hchild hnew => ?_, fun hup hrank => doneDown_finishes hr hup hrank⟩,
    fun b h g c k hon hg hknown hc => ⟨trussAck_counted hon hg hknown hc, fun st subject x hlive hc' hx => fail_taken hon hg hknown st subject x hlive hc' hx⟩,
    fun b gid seq child c st sub hc hfail hack => failAckTimeout_passesOn hc hfail hack,
    fun b gid seq pc c hc hon hactive hlive => ⟨fun hdown => ?_, fun hdown hred hhall hchunk hmay => ?_, fun hdown hhall hchunk hmay => ?_⟩⟩
  · simp only [if_neg (Nat.not_lt.mpr hon), hg, hst, hchild, hknown, and_self, if_true, Bool.not_true, Bool.false_eq_true, if_false]
  · simp only [hg, hst, hrank, ne_eq, not_false_eq_true, and_self, if_true]
  · have hans := memberTimeout_forming hon hg hst hother hnear
    rwa [if_pos (hlost.imp_left Option.isNone_iff_eq_none.mpr)] at hans
  · have hans := memberTimeout_forming hon hg hst hother hnear
    rwa [if_neg (not_or.mpr ⟨by simpa using hplane, Nat.not_le.mpr hfew⟩)] at hans
  · have hans := chunkHeader_taken hr pc hd f hepoch hnew hsig hform
    rwa [headerEffect, if_neg (by simp [hbad])] at hans
  · have hans := chunkHeader_taken hr pc hd f hepoch hnew hsig hform
    rwa [headerEffect, if_pos hgood, if_neg (by simp [histus])] at hans
  · have hans := resend_readAgain hr pc p bs hsent hcopy
    rwa [if_pos hcrc] at hans
  · have hans := resend_readAgain hr pc p bs hsent hcopy
    rwa [if_neg hcrc] at hans
  · rw [← takeDoneUp_child hr hchild hnew]
    exact doneUp_taken hr
  · have hans := chunkStart_live (pc := pc) hc hon hactive hlive
    rwa [if_pos hdown] at hans
  · have hans := chunkStart_live (pc := pc) hc hon hactive hlive
    rwa [if_neg (by simp [hdown]), if_pos (by simp [hred, hhall]), if_pos ⟨hchunk, hmay⟩] at hans
  · have hans := chunkStart_live (pc := pc) hc hon hactive hlive
    rwa [if_neg (by simp [hdown]), if_neg (by simp [hhall]), if_pos ⟨hchunk, hmay⟩] at hans

end Sys2Proof.Proofs
end

section
/-! SUPPORT. A step barrier that times out while the ledger holds its release (R431, R442). -/

namespace Sys2Proof.Proofs

open Sys2Proof Sys2Proof.Machine Sys2Proof.Laws

/-- The enabled step barrier 0 arrived at hall time 0, and the ledger has held its release back since hall time 5; the limit of OD 0x6020.03
has passed. -/
def heldBarrier : BarrierSt := ⟨2 ^ 0 + 2 ^ 1, 0, 0, [], some 0, some 5⟩
def releaseHeld : Block :=
  let b := barrierPut State.reset.toBlock 0 heldBarrier
  { b with clk := { b.clk with hall := 10 ^ 15 }, ledger := { b.ledger with heldSince := some 5 } }

/-- BARRIER_TIMEOUT of an enabled step barrier whose limit has passed: the held time is counted before the arming is dropped. -/
theorem barrierTimeout_step {b : Block} {k : Fin 256} {t : Word} (ht : (barrierAt b k).arrived = some t) (hen : barrierEn (barrierAt b k) = true)
    (hstep : barrierStep (barrierAt b k) = true) (hlate : 1000 * odNat b 0x6020 3 ≤ hallNat b - t.toNat) :
    Answers (.barrierTimeout k) b
      (let x := barrierAt b k
       let s := barrierPut b k { x with arrived := none, release := none, children := x.children.filter (fun y => y / 2 ^ 20 != (barrierGen10 x).toNat) }
       ledgerFlush (abortObj (dropArming (countHeld s)) (barrierReleaseObj x))) := by
  refine answers_exec (execBarrierTimeout k) (fun _ => ⟨rfl, rfl⟩) ?_
  have hgo : ¬ ((!barrierEn (barrierAt b k)) = true ∨ hallNat b - t.toNat < 1000 * odNat b 0x6020 3) := by simp [hen, Nat.not_lt.mpr hlate]
  simp only [ht, if_neg hgo, hstep, if_true]

/-- A command answers one state alone. -/
theorem answers_unique {i : Instr} {b s t : Block} (hs : Answers i b s) (ht : Answers i b t) : s = t :=
  congrArg (fun s => s.toBlock) (Host.Outcome.next.inj ((hs []).symm.trans (ht [])))

/-- Refutes O53: a step barrier that times out while the ledger holds its release back also ends the held time, which it counts in OD
0x9300.06; the statement leaves the held time running. -/
theorem not_barrierAndScribeMessagesAct : ¬ Obligations.BarrierAndScribeMessagesAct := by
  rintro ⟨⟨-, -, -, htimeout⟩, -⟩
  have hlate : 1000 * odNat releaseHeld 0x6020 3 ≤ hallNat releaseHeld - (0 : Word).toNat := by decide +kernel
  have hsame := answers_unique (htimeout releaseHeld 0 0 rfl rfl hlate) (barrierTimeout_step (k := 0) rfl rfl rfl hlate)
  have hheld := congrArg (fun s => s.ledger.heldSince) hsame
  revert hheld
  decide +kernel

end Sys2Proof.Proofs
end

section
/-! SUPPORT. The events of Sketch. -/

namespace Sys2Proof.Proofs

open Sys2Proof Sys2Proof.Machine Sys2Proof.Laws

section
variable {b : Block} {a : ArmSt} {g : GenSt} (ha : b.sketch.armed = some a) (hg : b.sketch.gen = some g)
include ha hg

theorem armingComplete_onTime (hphase : g.phase = .arming) (hdone : armingDone b a = true) (hlate : lateBarrier b = none) :
    Answers .armingComplete b (genPut b { g with phase := .armed }) := by
  refine answers_exec execArmingComplete (fun _ => ⟨rfl, rfl⟩) ?_
  have hlate' : lateBarrier (genPut b { g with phase := .armed }) = none := hlate
  simp only [ha, hg, hphase, hdone, hlate', ne_eq, not_true_eq_false, decide_false, Bool.not_true, Bool.or_self, Bool.false_eq_true, if_false]

theorem armingComplete_late (k : Nat) (hphase : g.phase = .arming) (hdone : armingDone b a = true) (hlate : lateBarrier b = some k)
    (hmay : releaseMay (genPut b { g with phase := .armed }) k = true) : Answers .armingComplete b (ledgerFlush
      (barrierRelease (countEvent (odBump (genPut b { g with phase := .armed }) 0x9000 7 1) unitTime 2 1) k)) := by
  refine answers_exec execArmingComplete (fun _ => ⟨rfl, rfl⟩) ?_
  have hlate' : lateBarrier (genPut b { g with phase := .armed }) = some k := hlate
  simp only [ha, hg, hphase, hdone, hlate', hmay, ne_eq, not_true_eq_false, decide_false, Bool.not_true, Bool.or_self, Bool.false_eq_true,
    if_false, if_true]

theorem sweepGranule_copies (j : Nat) (t : List Nat) (hphase : g.phase = .copying) (hnext : g.protect = j :: t) :
    Answers .sketchSweepGranule b (ledgerFlush (copyGranule b a g j)) := by
  refine answers_exec execSketchSweepGranule (fun _ => ⟨rfl, rfl⟩) ?_
  simp only [ha, hg, hnext, if_pos hphase]

theorem priorityCopy_copies (j : Nat) (t : List Nat) (hphase : g.phase = .copying) (hnext : g.queue = j :: t) :
    Answers .priorityCopyDone b (ledgerFlush (copyGranule (countEvent (odBump b 0xA020 3 1) unitSketch 2 1) a g j)) := by
  refine answers_exec execPriorityCopyDone (fun _ => ⟨rfl, rfl⟩) ?_
  simp only [ha, hg, hnext, if_pos hphase]

omit ha in
theorem sketchCopy_ends (hphase : g.phase = .copying) (hnone : g.protect = []) : Answers .sketchCopyEnd b
    (odPut (genPut b { g with phase := .exchanging, tcopy := if g.state = 0 then hallNow b else 0 }) 0xA000 2 4) := by
  refine answers_exec execSketchCopyEnd (fun _ => ⟨rfl, rfl⟩) ?_
  simp only [hg, hphase, hnone, List.isEmpty_nil, and_self, if_true]

/-- The first late drain record of the generation is sent again, or given up with the drain. -/
theorem drainTimeout_first (r : DrainRec) (hflow : flowOn (odNat b 0x7101 1) = true) (hlate : g.drains.find? (drainLate b) = some r) :
    Answers .sketchDrainTimeout b ((resendDrain b a g.step g.manifest r).2.elim
      (failDrain (resendDrain b a g.step g.manifest r).1 .sketchAbandoned)
      fun n => genPut (resendDrain b a g.step g.manifest r).1 { g with drains := g.drains.map (fun x => if x = r then n else x) }) := by
  refine answers_exec execSketchDrainTimeout (fun _ => ⟨rfl, rfl⟩) ?_
  simp only [ha, hg, hflow, hlate, Option.bind_some, Option.map_some, Bool.not_true, Bool.false_eq_true, if_false]
  generalize (resendDrain b a g.step g.manifest r) = sent
  obtain ⟨s, n | n⟩ := sent
  · rfl
  · rfl

end

/-- Settles O54. -/
theorem sketchEventsAct : Obligations.SketchEventsAct := by
  refine fun b a g ha hg => ⟨armingComplete_onTime ha hg, armingComplete_late ha hg, sweepGranule_copies ha hg, priorityCopy_copies ha hg,
    sketchCopy_ends hg, fun r b1 hflow hlate => ⟨fun n hsent => ?_, fun hsent => ?_⟩⟩
  · simpa only [hsent, Option.elim] using drainTimeout_first ha hg r hflow hlate
  · simpa only [hsent, Option.elim] using drainTimeout_first ha hg r hflow hlate

end Sys2Proof.Proofs
end

section
/-! SUPPORT. The messages of a launch, the end of zeroing, and the start of the harts. -/

namespace Sys2Proof.Proofs

open Sys2Proof Sys2Proof.Machine Sys2Proof.Laws

/-! ### What a change of the module's own entries leaves (R502, R503) -/

theorem ReportFrame.launch {s t : Block} (h : ReportFrame s t) : t.launch = s.launch := by rw [h]

/-- The alarm of a full log, where it is due. -/
theorem fullAlarm_launch (s : Block) (n : Nat) : (if chlogFull s then raiseAlarm s 0x13 unitNone .auditFull n else s).launch = s.launch := by
  split
  · exact (raiseAlarm_reportFrame _ _ _ _ _).launch
  · rfl

theorem measPut_launch (s : Block) (k : Nat) (v : BitVec 512) : (measPut s k v).launch = s.launch := rfl

theorem measExtend_launch (s : Block) (k : Nat) (v : BitVec 512) : (measExtend s k v).launch = s.launch := by
  rw [measExtend, measPut_launch]

theorem chlogPublish_launch (s : Block) : (chlogPublish s).launch = s.launch := by
  rw [chlogPublish, odPut_launch, odPut_launch]

theorem chlogAdd_launch (s : Block) (index sub role path len old new : Nat) (source : BitVec 128) (keyId : Word) :
    (chlogAdd s index sub role path len old new source keyId).launch = s.launch := by
  unfold chlogAdd
  dsimp only
  rw [fullAlarm_launch]
  split
  · rw [measExtend_launch, chlogPublish_launch]
  · rw [chlogPublish_launch]

theorem odModule_launch (s : Block) (index sub v : Nat) : (odModule s index sub v).launch = s.launch := by
  unfold odModule
  split
  · rfl
  · split
    · rfl
    · rw [odPut_launch, chlogAdd_launch]

/-! ### The image tree (R471, R495) -/

section
variable {b : Block} {src : LaunchFrom} (hhere : launchHere b src = true)
include hhere

theorem launchHere_assigned : b.launch.assigned = true := (Bool.and_eq_true_iff.mp hhere).1

/-- Bytes of a chunk that follow those received, from the sender in use. -/
theorem lChunk_kept {chunk off : Nat} {d : List Byte} (hchunk : chunk < b.launch.table.length) (hnew : b.launch.have_.contains chunk = false)
    (hoff : off ≤ (tget [] b.launch.partials chunk).length) (hmore : (tget [] b.launch.partials chunk).length < off + d.length)
    (hasked : b.launch.asked = b.launch.upper) (hknown : b.launch.asked ≠ 3) :
    Answers (.lChunk src chunk off d) b
      (let have0 := tget [] b.launch.partials chunk
       let now := (have0 ++ d.drop (have0.length - off)).take (imgLen b chunk)
       let full := decide (imgLen b chunk ≤ now.length)
       let segs := b.launch.segs + 1
       let s := { b with launch := { b.launch with
          partials := tset [] b.launch.partials chunk now, segs := if full || segs == 64 then 0 else segs } }
       let s := if full || segs == 64 then emit s (.launchMsg (some src.rank) 0x31 [chunk, now.length] []) else s
       if full then ledgerFlush (imgDone s (some src.rank) chunk) else s) := by
  refine answers_exec (execLChunk src chunk off d) (fun _ => ⟨rfl, rfl⟩) ?_
  have hskip : (!launchHere b src || decide (b.launch.table.length ≤ chunk) || b.launch.have_.contains chunk) = false := by
    rw [hhere, hnew, decide_eq_false (Nat.not_le.mpr hchunk)]
    rfl
  have hfits : ¬ ((tget [] b.launch.partials chunk).length < off ∨ off + d.length ≤ (tget [] b.launch.partials chunk).length) := by omega
  have hupper : ¬ (b.launch.asked ≠ b.launch.upper ∧ some src.rank = ancestor (b.launch.asked + 1) b.launch.rank) := fun h => h.1 hasked
  have hlauncher : ¬ (b.launch.asked = 3 ∧ b.launch.m ≤ src.rank) := fun h => hknown h.1
  dsimp only
  rw [hskip, if_neg Bool.false_ne_true, if_neg hfits, if_neg hupper, if_neg hlauncher]

theorem lGot_served {chunk got : Nat} (hchild : b.launch.children.contains src.rank = true)
    (hat : (tget (0, 0) b.launch.progress src.rank).1 = chunk) (hend : imgLen b chunk ≤ got) :
    Answers (.lGot src chunk got) b (serveChild (childAt b src.rank (chunk + 1) 0) src.rank) := by
  refine answers_exec (execLGot src chunk got) (fun _ => ⟨rfl, rfl⟩) ?_
  simp only [hhere, hchild, hat, bne_self_eq_false, Bool.not_true, Bool.or_self, Bool.false_eq_true, if_false, if_pos hend]

theorem lGot_noted {chunk got : Nat} (hchild : b.launch.children.contains src.rank = true)
    (hat : (tget (0, 0) b.launch.progress src.rank).1 = chunk) (hleft : got < imgLen b chunk) (hsome : 0 < got) :
    Answers (.lGot src chunk got) b (childAt b src.rank chunk (max got (tget (0, 0) b.launch.progress src.rank).2)) := by
  refine answers_exec (execLGot src chunk got) (fun _ => ⟨rfl, rfl⟩) ?_
  have hkeep : ¬ (got = 0 ∧ 0 < (tget (0, 0) b.launch.progress src.rank).2) := by omega
  simp only [hhere, hchild, hat, bne_self_eq_false, Bool.not_true, Bool.or_self, Bool.false_eq_true, if_false, if_neg (Nat.not_le.mpr hleft),
    if_neg hkeep]

/-- An ancestor takes a member that joins, which it adopts when it is not its child. -/
theorem lJoin_served {lowest : Nat} (hrank : src.rank < b.launch.m) (hown : b.launch.rank < b.launch.m)
    (hup : isAncestor b.launch.rank src.rank = true) : Answers (.lJoin src lowest) b
      (serveChild (childAt (if b.launch.children.contains src.rank then b
        else emit (odBump { b with launch := { b.launch with children := b.launch.children ++ [src.rank] } } 0xA100 4 1)
          (.launchMsg none 0x34 [b.launch.rank, (src.rank - 1) / 8] [])) src.rank lowest 0) src.rank) := by
  refine answers_exec (execLJoin src lowest) (fun _ => ⟨rfl, rfl⟩) ?_
  rw [if_neg (by simp [hhere, hup, Nat.not_le.mpr hrank, Nat.not_le.mpr hown])]
  rfl

theorem lAck_taken (hchild : b.launch.children.contains src.rank = true) (hnew : b.launch.acked.contains src.rank = false) :
    Answers (.lAck src (imageDigest b)) b (ackUp { b with launch := { b.launch with acked := b.launch.acked ++ [src.rank] } }) := by
  refine answers_exec (execLAck src (imageDigest b)) (fun _ => ⟨rfl, rfl⟩) ?_
  simp only [hhere, hchild, hnew, bne_self_eq_false, Bool.not_true, Bool.or_self, Bool.false_eq_true, if_false]

/-! ### Replacement, start and abort (R473, R474) -/

theorem lReplace_taken (rank : Nat) (m : Member) (sig : List Byte) (hrank : rank < b.launch.m) : Answers (.lReplace src rank m sig) b
    (let members := b.launch.members.set rank m
     let s := { b with launch := { b.launch with members := members, rank := ownRankIn b members, acked := b.launch.acked.filter (· != rank) } }
     let s := launchDown (odModule s 0x6000 2 (peersOf s members)) 0x35 [rank, memberWord m] sig
     if launcherSigned b (natLe 8 src.jobId.toNat ++ natLe 4 rank ++ natLe 4 0 ++ natLe 8 (memberWord m)) sig then
       (if s.launch.children.contains rank then serveChild (childAt s rank 0 0) rank else s)
     else launchRefuse b 0x35) := by
  refine answers_exec (execLReplace src rank m sig) (fun _ => ⟨rfl, rfl⟩) ?_
  rw [if_neg (by simp [hhere])]
  cases hsig : launcherSigned b (natLe 8 src.jobId.toNat ++ natLe 4 rank ++ natLe 4 0 ++ natLe 8 (memberWord m)) sig
  · rw [if_pos (Or.inr Bool.false_ne_true)]
    rfl
  · rw [if_neg (not_or.mpr ⟨Nat.not_le.mpr hrank, fun h => h rfl⟩)]
    rfl

theorem lStart_taken (trel : Word) (sig : List Byte) (hst : odNat b 0xA100 2 = 2) : Answers (.lStart src trel sig) b
    (let s := launchDown b 0x36 [trel.toNat] sig
     let s1 := odModule s 0x9000 3 s.launch.step0.toNat
     let s2 := odModule s1 0x9000 2 s1.launch.seed.toNat
     if launcherSigned b (natLe 8 src.jobId.toNat ++ natLe 8 trel.toNat) sig then
       ledgerFlush { odPut s2 0xA100 2 3 with launch := { (odPut s2 0xA100 2 3).launch with trel := some trel } }
     else launchRefuse b 0x36) := by
  refine answers_exec (execLStart src trel sig) (fun _ => ⟨rfl, rfl⟩) ?_
  simp only [odModule_launch, odPut_launch]
  rw [if_neg (by simp [hhere])]
  cases launcherSigned b (natLe 8 src.jobId.toNat ++ natLe 8 trel.toNat) sig
  · rw [if_pos Bool.not_false, if_neg Bool.false_ne_true]
  · rw [if_neg (by simp), if_neg (not_not.mpr hst), if_pos rfl]

theorem lAbort_taken (sig : List Byte) : Answers (.lAbort src sig) b
    (if launcherSigned b (natLe 8 src.jobId.toNat ++ natLe 8 0) sig then
       ledgerFlush (beginEndJob (odPut (launchDown b 0x37 [0] sig) 0xA100 2 4) true)
     else launchRefuse b 0x37) := by
  refine answers_exec (execLAbort src sig) (fun _ => ⟨rfl, rfl⟩) ?_
  rw [if_neg (by simp [hhere])]
  cases launcherSigned b (natLe 8 src.jobId.toNat ++ natLe 8 0) sig
  · rfl
  · rfl

end

/-! ### The start of the harts (R474) -/

/-- One hart as HARTS_START takes it. -/
def startHart (s : Block) (h : Nat) : Block := if funcOff s 5 (h / 8) then s else hartPut s h (startedHart s h)

/-- The harts below `n` have started, those of a disabled cluster left as they were. -/
def startHarts (s : Block) (n : Nat) : Block := (List.range n).foldl startHart s

theorem startHarts_succ (s : Block) (n : Nat) : startHarts s (n + 1) = startHart (startHarts s n) n := by
  simp [startHarts, List.range_succ]

/-- The start of harts changes harts alone. -/
def HartsFrame (s t : Block) : Prop := t = { s with harts := t.harts }

theorem startHart_frame (s : Block) (h : Nat) : HartsFrame s (startHart s h) := by
  unfold startHart
  split
  · rfl
  · rfl

theorem startHarts_frame (s : Block) : ∀ n : Nat, HartsFrame s (startHarts s n)
  | 0 => rfl
  | n + 1 => by
    have h1 := startHarts_frame s n
    have h2 := startHart_frame (startHarts s n) n
    rw [startHarts_succ]
    unfold HartsFrame at h1 h2 ⊢
    rw [h2, h1]

theorem funcOff_startHarts (s : Block) (n cls inst : Nat) : funcOff (startHarts s n) cls inst = funcOff s cls inst := by
  rw [startHarts_frame s n]
  rfl

theorem hartAt_startHart_off {s : Block} {h : Nat} (hoff : funcOff s 5 (h / 8) = true) : startHart s h = s := if_pos hoff

theorem held_startHart {s : Block} {h : Nat} (hon : funcOff s 5 (h / 8) = false) : (hartAt (startHart s h) h).held = false := by
  rw [startHart, hon, if_neg Bool.false_ne_true, hartAt_hartPut_same]
  rfl

theorem hartAt_startHart_ne (s : Block) {g h : Nat} (hne : g ≠ h) : hartAt (startHart s g) h = hartAt s h := by
  unfold startHart
  split
  · rfl
  · exact hartAt_hartPut_ne _ _ hne

theorem hartAt_startHarts_off {s : Block} {h : Nat} (hoff : funcOff s 5 (h / 8) = true) : ∀ n : Nat, hartAt (startHarts s n) h = hartAt s h
  | 0 => rfl
  | n + 1 => by
    rw [startHarts_succ]
    by_cases hn : n = h
    · rw [hartAt_startHart_off (by rw [funcOff_startHarts, hn, hoff]), hartAt_startHarts_off hoff n]
    · rw [hartAt_startHart_ne _ hn, hartAt_startHarts_off hoff n]

theorem held_startHarts {s : Block} {h : Nat} (hon : funcOff s 5 (h / 8) = false) : ∀ n : Nat, h < n → (hartAt (startHarts s n) h).held = false
  | n + 1, hlt => by
    rw [startHarts_succ]
    by_cases hn : n = h
    · rw [hn, held_startHart (by rw [funcOff_startHarts, hon])]
    · rw [hartAt_startHart_ne _ hn, held_startHarts hon n (by omega)]

theorem hartsStart_atTrel {b : Block} {t : Word} (htrel : b.launch.trel = some t) (hfirst : b.launch.started = false) (hdue : t.toNat ≤ hallNat b) :
    Answers .hartsStart b (startHarts { b with launch := { b.launch with started := true } } 96) := by
  refine answers_exec execHartsStart (fun _ => ⟨rfl, rfl⟩) ?_
  have hgo : ¬ (b.launch.started = true ∨ hallNat b < t.toNat) := by simp [hfirst, Nat.not_lt.mpr hdue]
  simp only [htrel, if_neg hgo]
  rfl

/-- Settles O55. -/
theorem launchMessagesAct : Obligations.LaunchMessagesAct := by
  refine ⟨fun b src hhere => ⟨fun chunk off d hchunk hnew hoff hmore hasked hknown => ⟨fun hpart hseg => ?_, fun hfull => ?_⟩,
      fun chunk got hchild hat => ⟨lGot_served hhere hchild hat, lGot_noted hhere hchild hat⟩,
      fun hchild => answers_exec (execLChunkResendDue src.rank) (fun _ => ⟨rfl, rfl⟩) ?_, fun hrank => answers_exec execLaunchTimeout (fun _ => ⟨rfl, rfl⟩) ?_,
      fun lowest hrank hown hup hchild => ?_, fun lowest hrank hown hup hchild => ?_, lAck_taken hhere,
      fun silent => answers_exec (execLReport src silent) (fun _ => ⟨rfl, rfl⟩) rfl, lReplace_taken hhere, lStart_taken hhere, lAbort_taken hhere⟩,
    fun b hzero => answers_exec execJobZeroingDone (fun _ => ⟨rfl, rfl⟩) ?_,
    fun b t htrel hfirst hdue => ⟨_, hartsStart_atTrel htrel hfirst hdue, ?_, fun h hlt hon => ?_, fun h hlt hoff => ?_, ?_, ?_⟩⟩
  · have hans := lChunk_kept hhere hchunk hnew hoff hmore hasked hknown
    dsimp only at hans
    rw [decide_eq_false (Nat.not_le.mpr hpart), beq_eq_false_iff_ne.mpr hseg] at hans
    exact hans
  · have hans := lChunk_kept hhere hchunk hnew hoff hmore hasked hknown
    dsimp only at hans
    rw [decide_eq_true hfull] at hans
    exact hans
  · exact if_pos ⟨launchHere_assigned hhere, hchild⟩
  · exact if_pos ⟨launchHere_assigned hhere, hrank⟩
  · simpa only [hchild, if_true] using lJoin_served (lowest := lowest) hhere hrank hown hup
  · simpa only [hchild, Bool.false_eq_true, if_false] using lJoin_served (lowest := lowest) hhere hrank hown hup
  · exact if_pos hzero
  · rw [startHarts_frame]
  · exact held_startHarts (s := { b with launch := { b.launch with started := true } }) hon 96 hlt
  · exact hartAt_startHarts_off (s := { b with launch := { b.launch with started := true } }) hoff 96
  · rw [startHarts_frame]
  · rw [startHarts_frame]

end Sys2Proof.Proofs
end

section
/-! SUPPORT. Sessions, their requests and their subscriptions. -/

namespace Sys2Proof.Proofs

open Sys2Proof Sys2Proof.Machine Sys2Proof.Laws

/-! ### The table of sessions (R494) -/

/-- Marking subscriptions neither opens nor closes a session. -/
theorem sessAt_odPut_none (s : Block) (index sub v n : Nat) : sessAt (odPut s index sub v) n = none ↔ sessAt s n = none := by
  simp [sessAt, odPut, markSubs, odRaw, List.find?_eq_none]

theorem sessAt_sessPublish_none (s : Block) (n : Nat) : sessAt (sessPublish s) n = none ↔ sessAt s n = none := by
  unfold sessPublish
  split
  · rfl
  · exact sessAt_odPut_none _ _ _ _ _

/-- A session that closes is gone. -/
theorem sessAt_sessClose (s : Block) (n : Nat) : sessAt (sessClose s n) n = none := by
  rw [sessClose, sessAt_sessPublish_none]
  simp [sessAt, List.find?_eq_none]

theorem idleTimeout_closes {b : Block} {n : Nat} {x : Session} (hx : sessAt b n = some x)
    (hidle : odNat b 0x1010 3 * 1000000000 ≤ hallNat b - x.lastReq.toNat) : Answers (.idleTimeout n) b (sessClose b n) := by
  refine answers_exec (execIdleTimeout n) (fun _ => ⟨rfl, rfl⟩) ?_
  simp only [hx, if_pos hidle]

/-! ### Set-up (R493, R495) -/

section
variable {b : Block} {path : Path} {source : BitVec 128} (hopen : pathOpen b path = true) (hwin : path ≠ .window)
include hopen hwin

theorem hello_answered (role : BitVec 8) (nonce : BitVec 256) (hfree : sourceBlocked b source = false) (hroom : b.sess.table.length < 32) :
    Answers (.hello path source role nonce) b (helloAnswer b path source role nonce) := by
  refine answers_exec (execHello path source role nonce) (fun _ => ⟨rfl, rfl⟩) ?_
  rw [if_neg (by simp [hopen, hwin, hfree]), if_neg (Nat.not_le.mpr hroom)]

theorem openSession_ofHello (payload : List Byte) (h : Hello) (hh : b.sess.hellos.find? (fun x => x.path == path && x.source == source) = some h) :
    Answers (.openSession path source payload) b (openNow { b with
      sess := { b.sess with hellos := b.sess.hellos.filter (fun x => !(x.path == path && x.source == source)) } } h payload) := by
  refine answers_exec (execOpenSession path source payload) (fun _ => ⟨rfl, rfl⟩) ?_
  rw [if_neg (by simp [hopen, hwin]), hh]

theorem openSession_withoutHello (payload : List Byte) (hh : b.sess.hellos.find? (fun x => x.path == path && x.source == source) = none) :
    Answers (.openSession path source payload) b (setupFails b source) := by
  refine answers_exec (execOpenSession path source payload) (fun _ => ⟨rfl, rfl⟩) ?_
  rw [if_neg (by simp [hopen, hwin]), hh]

end

/-! ### Requests (R488 to R491) -/

theorem close_answered {b : Block} {r : SessReq} {x : Session} (hx : sessAt b r.session = some x) (hopen : pathOpen b x.path = true)
    (htag : r.tagOk = true) (hnew : x.kept.find? (fun k => k.1 == r.seq.toNat) = none) (hfree : awaitsReply b r = false)
    (hseq : x.highSeq < r.seq.toNat + 64) :
    Answers (.close r) b (sessClose (emit b (.dict r.session 0x85 r.seq.toNat .ok [])) r.session) := by
  refine answers_exec (execClose r) (fun _ => ⟨rfl, rfl⟩) ?_
  simp only [hx, hopen, htag, hnew, hfree, Nat.not_le.mpr hseq, Bool.not_true, Bool.false_eq_true, or_self, if_false]

theorem mapM_range_getElem? {α : Type} (d : List α) : ∀ n : Nat, n ≤ d.length → (List.range n).mapM (fun k => d[k]?) = some (d.take n)
  | 0, _ => rfl
  | n + 1, hn => by
    rw [List.range_succ, List.mapM_append, mapM_range_getElem? d n (by omega)]
    simp [List.getElem?_eq_getElem hn]

/-- One fragment that covers the entry is its value. -/
theorem stagedValue_whole (d : List Byte) : stagedValue [(0, d)] d.length = some d := by
  simpa [stagedValue] using mapM_range_getElem? d d.length le_rfl

/-- A write of a session to an entry other than QUOTE_NONCE that passes its checks is accepted. -/
theorem sessWrite_accepted {s : Block} {n : Nat} {x : Session} {index sub : Nat} {typ : Option Nat} {data : List Byte} (hindex : index ≠ 0xC030)
    (hcheck : odCheck s (sessOrigin x) index sub typ data = none) :
    sessWrite s n x index sub typ data = (odAccept s (sessOrigin x) index sub data, .ok) := by
  rw [sessWrite, odWrite_ok hcheck, if_neg (fun h => hindex h.2.1)]

section
variable {b : Block} {r : SessReq} {x : Session} (hx : sessAt b r.session = some x) (hopen : pathOpen b x.path = true) (htag : r.tagOk = true)
  (hnew : x.kept.find? (fun k => k.1 == r.seq.toNat) = none) (hseq : x.highSeq < r.seq.toNat + 64) (hfree : awaitsReply b r = false)
  (hfull : x.launchOnly = false)
include hx hopen htag hnew hseq hfree hfull

/-- A request that is new answers with what its own effect gives. -/
theorem request_answers {i : Instr} {typ : Nat} {body : Block → Session → Block × Status × List Byte} {s : Block} {st : Status} {p : List Byte}
    (e : State → Host.Outcome State Fault Refusal) (he : ∀ s : State, exec i s = e s ∧ e s = onBlock s fun s => .next (request s r typ body))
    (hbody : body b x = (s, st, p)) : Answers i b (respondReq s r.session r.seq.toNat (typ + 0x80) st p) := by
  have hans := answers_exec (b := b) e he rfl
  rwa [request_of hx hopen htag hnew hseq hfull hfree, hbody] at hans

theorem read_answered (i : BitVec 16) (sub : BitVec 8) (off len : Nat) (hcheck : odReadCheck b (sessOrigin x) i.toNat sub.toNat = none) :
    Answers (.read r i sub off len) b (respondReq b r.session r.seq.toNat 0x90 .ok
      (natLe 1 (odType i.toNat sub.toNat) ++ natLe 3 0 ++ natLe 4 (odRead b x.nonce.toNat i.toNat sub.toNat).length ++
        ((odRead b x.nonce.toNat i.toNat sub.toNat).drop off).take len)) := by
  refine request_answers hx hopen htag hnew hseq hfree hfull (execRead r i sub off len) (fun _ => ⟨rfl, rfl⟩) ?_
  simp only [hcheck]
  rfl

theorem read_refused (i : BitVec 16) (sub : BitVec 8) (off len : Nat) (st : Status)
    (hcheck : odReadCheck b (sessOrigin x) i.toNat sub.toNat = some st) :
    Answers (.read r i sub off len) b (respondReq b r.session r.seq.toNat 0x90 st []) := by
  refine request_answers hx hopen htag hnew hseq hfree hfull (execRead r i sub off len) (fun _ => ⟨rfl, rfl⟩) ?_
  simp only [hcheck]

theorem write_staged (i : BitVec 16) (sub typ : BitVec 8) (off : Nat) (d : List Byte) : Answers (.write r i sub typ off false d) b
    (respondReq (sessPut b r.session { x with
      stagedEnt := some (i.toNat, sub.toNat),
      staged := (if x.stagedEnt = some (i.toNat, sub.toNat) then x.staged else []) ++ [(off, d)] }) r.session r.seq.toNat 0x91 .ok []) :=
  request_answers hx hopen htag hnew hseq hfree hfull (execWrite r i sub typ off false d) (fun _ => ⟨rfl, rfl⟩) rfl

theorem write_whole (i : BitVec 16) (sub typ : BitVec 8) (d : List Byte) (hnone : x.stagedEnt = none)
    (hlen : d.length = odLen i.toNat sub.toNat) (hindex : i ≠ 0xC030)
    (hcheck : odCheck (sessPut b r.session { x with stagedEnt := none, staged := [] }) (sessOrigin x) i.toNat sub.toNat (some typ.toNat) d = none) :
    Answers (.write r i sub typ 0 true d) b (respondReq (odAccept (sessPut b r.session { x with stagedEnt := none, staged := [] }) (sessOrigin x)
      i.toNat sub.toNat d) r.session r.seq.toNat 0x91 .ok []) := by
  refine request_answers hx hopen htag hnew hseq hfree hfull (execWrite r i sub typ 0 true d) (fun _ => ⟨rfl, rfl⟩) ?_
  have hentry : i.toNat ≠ 0xC030 := fun h => hindex (BitVec.eq_of_toNat_eq h)
  have hvalue : stagedValue [(0, d)] (odLen i.toNat sub.toNat) = some d := hlen ▸ stagedValue_whole d
  simp only [hnone, reduceCtorEq, if_false, List.nil_append, hvalue, sessWrite_accepted hentry hcheck, Bool.not_true, Bool.false_eq_true]

section
variable {items : List BlockItem} (hsome : items ≠ []) (hfew : items.length ≤ 64)
include hsome hfew

theorem blockRead_answered : Answers (.blockRead r items) b (respondReq b r.session r.seq.toNat 0x92 .ok (items.flatMap (blockItem b x))) := by
  refine request_answers hx hopen htag hnew hseq hfree hfull (execBlockRead r items) (fun _ => ⟨rfl, rfl⟩) ?_
  rw [if_neg (by simp [hsome, hfew])]

theorem blockWrite_applied (hcheck : items.findSome? (blockCheck b x) = none) : Answers (.blockWrite r items) b
    (respondReq (blockApply r.session x items 0 b).1 r.session r.seq.toNat 0x93 (blockApply r.session x items 0 b).2.1
      (natLe 2 (blockApply r.session x items 0 b).2.2 ++ natLe 2 0)) := by
  refine request_answers hx hopen htag hnew hseq hfree hfull (execBlockWrite r items) (fun _ => ⟨rfl, rfl⟩) ?_
  rw [if_neg (by simp [hsome, hfew]), hcheck]

theorem blockWrite_refused {st : Status} (hcheck : items.findSome? (blockCheck b x) = some st) :
    Answers (.blockWrite r items) b (respondReq b r.session r.seq.toNat 0x93 st (natLe 4 0)) := by
  refine request_answers hx hopen htag hnew hseq hfree hfull (execBlockWrite r items) (fun _ => ⟨rfl, rfl⟩) ?_
  rw [if_neg (by simp [hsome, hfew]), hcheck]

end

theorem subscribe_answered (i : BitVec 16) (sub mode : BitVec 8) (period : BitVec 32) (hcheck : odReadCheck b (sessOrigin x) i.toNat sub.toNat = none)
    (hmode : mode = 0 ∨ (mode = 1 ∧ 1000 ≤ period.toNat)) (hroom : x.subs.length < 256) : Answers (.subscribe r i sub mode period) b
      (respondReq (sessPut b r.session { x with
        subs := x.subs ++ [⟨x.nextSub, i.toNat, sub.toNat, mode == 1, period.toNat, false⟩], nextSub := x.nextSub + 1 })
        r.session r.seq.toNat 0x94 .ok (natLe 4 x.nextSub)) := by
  refine request_answers hx hopen htag hnew hseq hfree hfull (execSubscribe r i sub mode period) (fun _ => ⟨rfl, rfl⟩) ?_
  have hknown : ¬ 1 < mode.toNat := by rcases hmode with rfl | ⟨rfl, -⟩ <;> decide
  have hperiod : ¬ (mode = 1 ∧ period.toNat < 1000) := by
    rcases hmode with rfl | ⟨-, hp⟩
    · exact fun h => absurd h.1 (by decide)
    · exact fun h => absurd h.2 (Nat.not_lt.mpr hp)
  simp only [hcheck, if_neg hknown, if_neg hperiod, if_neg (Nat.not_le.mpr hroom)]

theorem unsubscribe_answered (n : Nat) (hsub : x.subs.any (fun q => q.id == n) = true) : Answers (.unsubscribe r n) b
    (respondReq (sessPut b r.session { x with subs := x.subs.filter (fun q => q.id != n) }) r.session r.seq.toNat 0x95 .ok []) :=
  request_answers hx hopen htag hnew hseq hfree hfull (execUnsubscribe r n) (fun _ => ⟨rfl, rfl⟩) (if_pos hsub)

end

section
variable {b : Block} {r : SessReq} {x : Session} (hx : sessAt b r.session = some x)
include hx

theorem requestTimeout_refused (htag : r.tagOk = true) (hfree : awaitsReply b r = false) (hnew : x.kept.any (fun k => k.1 == r.seq.toNat) = false)
    (hseq : x.highSeq < r.seq.toNat + 64) : Answers (.requestTimeout r) b (respondReq b r.session r.seq.toNat 0x80 .odTimeout []) := by
  refine answers_exec (execRequestTimeout r) (fun _ => ⟨rfl, rfl⟩) ?_
  simp only [hx, htag, hfree, hnew, decide_eq_false (Nat.not_le.mpr hseq), Bool.not_true, Bool.or_self, Bool.false_eq_true, if_false]

/-! ### Notifications (R491, R528) -/

theorem notifyPeriod_sent (n : Nat) (q : Sub) (hq : x.subs.find? (fun q => q.id == n && q.periodic) = some q)
    (hnone : x.subs.filter (fun q => alarmSub q && q.pending) = []) : Answers (.notifyPeriod r.session n) b (notify b r.session x q) := by
  refine answers_exec (execNotifyPeriod r.session n) (fun _ => ⟨rfl, rfl⟩) ?_
  simp only [hx, hq, hnone, List.foldl_nil]

theorem notifyCoalesceEnd_sent (n : Nat) (q : Sub) (hq : x.subs.find? (fun q => q.id == n && !q.periodic && q.pending) = some q)
    (halarm : alarmSub q = true) : Answers (.notifyCoalesceEnd r.session n) b (notifyPending b r.session q) := by
  refine answers_exec (execNotifyCoalesceEnd r.session n) (fun _ => ⟨rfl, rfl⟩) ?_
  simp only [hx, hq, halarm, if_true, List.foldl_cons, List.foldl_nil]

end

/-- Settles O57. -/
theorem sessionRequestsAct : Obligations.SessionRequestsAct := by
  refine ⟨⟨fun b path source role nonce hopen hwin hfree hroom => hello_answered hopen hwin role nonce hfree hroom,
      fun b path source payload h hopen hwin hh => openSession_ofHello hopen hwin payload h hh,
      fun b path source payload hopen hwin hh => openSession_withoutHello hopen hwin payload hh,
      fun b r x hx hopen htag hnew hfree hseq => close_answered hx hopen htag hnew hfree hseq,
      fun b n x hx hidle => ⟨idleTimeout_closes hx hidle, sessAt_sessClose b n⟩⟩,
    fun b r x hx => ⟨fun hopen htag hnew hseq hfree hfull => ⟨fun i sub off len => ⟨?_, ?_⟩, ?_, ?_, ?_, ?_, ?_, ?_, ?_⟩,
      requestTimeout_refused hx, notifyPeriod_sent hx, notifyCoalesceEnd_sent hx⟩⟩
  · exact read_answered hx hopen htag hnew hseq hfree hfull i sub off len
  · exact read_refused hx hopen htag hnew hseq hfree hfull i sub off len
  · exact write_staged hx hopen htag hnew hseq hfree hfull
  · exact write_whole hx hopen htag hnew hseq hfree hfull
  · exact fun items => blockRead_answered hx hopen htag hnew hseq hfree hfull
  · exact fun items => blockWrite_applied hx hopen htag hnew hseq hfree hfull
  · exact fun items st hsome hfew => blockWrite_refused hx hopen htag hnew hseq hfree hfull hsome hfew
  · exact subscribe_answered hx hopen htag hnew hseq hfree hfull
  · exact unsubscribe_answered hx hopen htag hnew hseq hfree hfull

end Sys2Proof.Proofs
end

section
/-! SUPPORT. Counters, logs and hall time. -/

namespace Sys2Proof.Proofs

open Sys2Proof Sys2Proof.Machine Sys2Proof.Laws

theorem snapshotLatch_due {b : Block} {t : Word} {late : Bool} (hsched : b.counters.sched = some (t, late)) (hdue : t.toNat ≤ hallNat b) :
    Answers .snapshotLatch b (ledgerFlush (snapLatch b t late)) := by
  refine answers_exec execSnapshotLatch (fun _ => ⟨rfl, rfl⟩) ?_
  simp only [hsched, if_pos hdue]

theorem identityCertCheck_raises {b : Block} (hheld : b.power.inputHeld = true) (hquiet : (tget alarm0 b.logs.alarms 0x4F).active = false) :
    Answers .identityCertCheck b (if Config.certValid (identityCert b) (certTime b) then b else ledgerFlush (raiseAlarm b 0x4F unitNone .ok 0)) := by
  refine answers_exec execIdentityCertCheck (fun _ => ⟨rfl, rfl⟩) ?_
  simp only [hheld, hquiet, Bool.not_true, Bool.false_or, Bool.or_false]

/-- An event changes counters alone: what a packet changes beside them no event does, and no packet what an event might. -/
theorem countEvent_counters (s : Block) (u code n : Nat) : countEvent s u code n = { s with counters := (countEvent s u code n).counters } := by
  have hport := countEvent_frame s u code n
  have hsess : (countEvent s u code n).sess = s.sess := by rw [hport]
  calc countEvent s u code n
      = { s with counters := (countEvent s u code n).counters, od := (countEvent s u code n).od, sess := (countEvent s u code n).sess } :=
        countEvent_countFrame s u code n
    _ = { s with counters := (countEvent s u code n).counters } := by rw [hport.od, hsess]

/-- Settles O58. -/
theorem counterAndLogEventsAct : Obligations.CounterAndLogEventsAct := by
  refine ⟨fun b t late hsched hdue => snapshotLatch_due hsched hdue, fun b hfrozen hdue => answers_exec execThaw (fun _ => ⟨rfl, rfl⟩) ?_,
    fun b c => answers_exec (execLogTokenRefill c) (fun _ => ⟨rfl, rfl⟩) rfl, fun b hheld hquiet => identityCertCheck_raises hheld hquiet,
    fun b hset => answers_exec execHallTimeSave (fun _ => ⟨rfl, rfl⟩) ?_, countEvent_counters⟩
  · exact if_pos ⟨hfrozen, hdue⟩
  · exact if_neg hset

end Sys2Proof.Proofs
end

section
/-! SUPPORT. Start-up, resets and pins, and what a loss of power leaves. -/

namespace Sys2Proof.Proofs

open Sys2Proof Sys2Proof.Machine Sys2Proof.Laws

/-! ### What is left when power is lost (R477, R502, R552) -/

/-- A table without the entries of a key holds the default there. -/
theorem tget_filter_out {α : Type} (d : α) (p : Nat → Bool) {k : Nat} (hk : p k = false) :
    ∀ t : Tab α, tget d (t.filter (fun e => p e.1)) k = d
  | [] => rfl
  | (j, v) :: t => by
    cases hj : p j
    · rw [List.filter_cons_of_neg (by simp [hj])]
      exact tget_filter_out d p hk t
    · have hne : j ≠ k := fun h => Bool.false_ne_true (hk.symm.trans (h ▸ hj))
      rw [List.filter_cons_of_pos (by simp [hj]), tget, if_neg hne]
      exact tget_filter_out d p hk t

theorem memByte_powerLost (b : Block) (a : Nat) : memByte (powerLost b) a = 0 := rfl

/-- Flash does not hold POWER_STATE. -/
theorem odFlash_powerState : odFlash (odKey 0x2000 1) = false := by decide +kernel

theorem powerState_powerLost (b : Block) : powerState (powerLost b) = 0 :=
  tget_filter_out _ odFlash odFlash_powerState _

/-! ### The start-up sequence (R540, R541, R572) -/

theorem inputHeldInRange_boots {b : Block} (hon : b.power.inputOn = true) (hfirst : b.power.inputHeld = false) : Answers .inputHeldInRange b
    (let r := bootIsland (measPut (measPut (odPut { b with power := { b.power with inputHeld := true } } 0x2000 4 0) 4 0) 6 0)
     if r.2 then emit (odPut r.1 0x2000 3 2) (.announce (announceBytes (odPut r.1 0x2000 3 2))) else r.1) := by
  refine answers_exec execInputHeldInRange (fun _ => ⟨rfl, rfl⟩) ?_
  rw [if_neg (by simp [hon, hfirst])]
  dsimp only
  generalize bootIsland _ = r
  obtain ⟨s, good | bad⟩ := r
  · rfl
  · rfl

theorem strapRead_odd {b : Block} {ga : BitVec 7} {ra : BitVec 10} {parity : Bool} (hon : b.power.inputOn = true) (hfirst : b.power.straps = none)
    (hodd : strapOnes ga.toNat ra.toNat parity % 2 = 1) (hslot : ga.toNat ≤ 71) : Answers (.strapRead ga ra parity) b
      (let s := odPut (odPut { b with power := { b.power with straps := some (ga, ra, parity), strapBad := false } } 0x1000 6 ga.toNat) 0x1000 5 ra.toNat
       if odNat s 0x6000 2 = 0 then odPut s 0x6000 2 (2 ^ ga.toNat) else s) := by
  refine answers_exec (execStrapRead ga ra parity) (fun _ => ⟨rfl, rfl⟩) ?_
  have hgood : (strapOnes ga.toNat ra.toNat parity % 2 == 0 || decide (71 < ga.toNat)) = false := by
    rw [hodd, decide_eq_false (Nat.not_lt.mpr hslot)]
    rfl
  rw [if_neg (by simp [hon, hfirst])]
  simp only [hgood, Bool.false_eq_true, if_false]

/-- Settles O59. -/
theorem powerEventsAct : Obligations.PowerEventsAct := by
  refine fun b => ⟨fun hfirst => answers_exec execInputApplied (fun _ => ⟨rfl, rfl⟩) ?_, inputHeldInRange_boots, fun ga ra parity => strapRead_odd,
    fun f hoff hgoal => answers_exec (execStandbyReached f) (fun _ => ⟨rfl, rfl⟩) ?_, fun t u p k hstandby hgoal => answers_exec (execReadyReached t u p k) (fun _ => ⟨rfl, rfl⟩) ?_,
    fun hon => ⟨answers_exec execWatchdogExpiry (fun _ => ⟨rfl, rfl⟩) ?_, answers_exec execPllLockLoss (fun _ => ⟨rfl, rfl⟩) ?_, fun l => answers_exec (execRidgeLinkFailure l) (fun _ => ⟨rfl, rfl⟩) ?_⟩,
    fun hheld href => answers_exec execReferenceLoss (fun _ => ⟨rfl, rfl⟩) ?_, answers_exec execReferenceRestored (fun _ => ⟨rfl, rfl⟩) rfl, answers_exec execModEnFall (fun _ => ⟨rfl, rfl⟩) rfl,
    memByte_powerLost b, powerState_powerLost b⟩
  · exact if_neg (by simp [hfirst])
  · exact if_neg (by simp [hoff, hgoal])
  · exact if_neg (by simp [hstandby, hgoal])
  · exact if_pos (decide_eq_true hon)
  · exact if_pos (decide_eq_true hon)
  · exact if_pos (decide_eq_true hon)
  · exact if_neg (by simp [hheld, href])

end Sys2Proof.Proofs
end

section
/-! SUPPORT. A coolant sensor that had failed and reads again (R574). -/

namespace Sys2Proof.Proofs

open Sys2Proof Sys2Proof.Machine Sys2Proof.Laws

/-- The module with its input held, whose inlet thermistor, on contact 12 of J6, had failed at the last sample. -/
def inletFailed : Block :=
  let b := State.reset.toBlock
  { b with power := { b.power with inputHeld := true, badInputs := [12] } }

/-- A sample in which both thermistors read ends the fault of the inlet's. -/
theorem badInputs_coolantTaken : (coolantTaken inletFailed (some 20000) (some 30000) 6000).power.badInputs = [] := by decide +kernel

/-- What is done with the readings leaves the faults as they are. -/
theorem badInputs_coolantNow : (coolantNow inletFailed 20000 30000 6000 true).power.badInputs = [12] := by decide +kernel

/-- Refutes O60: a sample in which both coolant sensors read ends the faults of contacts 12, 13 and 15 that earlier samples noted, so it
does more than `coolantNow` on the state before it. -/
theorem not_protectionEventsAct : ¬ Obligations.ProtectionEventsAct := by
  rintro ⟨hsamples, -⟩
  obtain ⟨-, -, -, htaken, -⟩ := hsamples inletFailed rfl
  have hsame := congrArg (fun s => s.power.badInputs) (htaken 20000 30000 6000)
  rw [badInputs_coolantTaken, badInputs_coolantNow] at hsame
  exact absurd hsame (by decide)

end Sys2Proof.Proofs
end
